-- ==== Sys2Proof/Word.lean ====
section
/-!
DEFINITION. Sys2Proof/Word.lean: the plain vocabulary of the model: word types, the numbering of rings, slices,
strings and channels (00_scope R2-R5), and the records in which a command brings what the outside world supplies.
-/

namespace Sys2Proof

abbrev Byte := BitVec 8
abbrev Word := BitVec 32
/-- An IEEE 754 binary32 value by its bits (R390, R569). -/
abbrev F32 := BitVec 32

/-- Ring K0-K15 (R2); also the number of its block, 4r + b (R14). -/
abbrev RingNo := Fin 16
/-- Slice position 0-63, counted from logical A (R3, R135). -/
abbrev Pos := Fin 64
/-- String S0-S31 (R5). -/
abbrev StringNo := Fin 32
/-- Load channel OUT0-OUT15 (R358). -/
abbrev Chan := Fin 16
/-- Channel group 0-3 (R359). -/
abbrev Group := Fin 4
/-- Global element number ring × 1,024 + p × 16 + e (R4). -/
abbrev ElemNo := Fin 16384

/-- Who issues a write; the codes of R659 are 1, 2, 3, 0x10 and 0x11, and an observer has none. -/
inductive Master where
  | a | b | observer | jtag | policy | sequence
  deriving DecidableEq, Repr

/-- A logical ring port, or the side of a slice that faces it (R135). Down frames leave logical A. -/
inductive Side where
  | a | b
  deriving DecidableEq, Repr

/-- The places of R387, one Tine each: lane pairs (physical lane 4 is the spare), ring controllers, CAN filters and
the recorder. -/
inductive TineId where
  | lane (block : Fin 16) (lane : Fin 5)
  | ringCtl (ring : Fin 16)
  | can (port : Fin 4)
  | recorder
  deriving DecidableEq, Repr

/-- The place of a Tine (R387). -/
def TineId.isLane : TineId → Bool
  | .lane _ _ => true
  | _ => false

def TineId.isRing : TineId → Bool
  | .ringCtl _ => true
  | _ => false

def TineId.isCan : TineId → Bool
  | .can _ => true
  | _ => false

def TineId.isRecorder : TineId → Bool
  | .recorder => true
  | _ => false

/-- A lockstep pair: every Tine is one, and so are the two supervisor pairs (R475). -/
inductive PairId where
  | tine (t : TineId)
  | supervisor (spare : Bool)
  deriving DecidableEq, Repr

/-- A ring receiver or connector: of a slice, on its A or B side, or of a master port (R92, R139). -/
inductive Site where
  | slice (r : RingNo) (p : Pos) (side : Side)
  | master (r : RingNo) (side : Side)
  deriving DecidableEq, Repr

/-- A Kwasel frame (R93): the fields of its header, byte 11 of it, the payload (LEN is its length) and the frame CRC. The reserved
bits are sent 0. -/
structure Frame where
  type   : Nat
  /-- true: the frame left the master on KnB (up) -/
  up     : Bool
  fold   : Bool
  resp   : Bool
  hop    : Nat
  pos    : Nat
  seq    : Nat
  epoch  : Nat
  status : Nat
  payload : List Byte
  hcrc : Byte
  fcrc : Word
  deriving DecidableEq, Repr

/-- What a slice's inputs are at its sample instant (R172, R176, R195). -/
structure SliceReading where
  /-- KS16 inputs e = 0-15 in 10 µV -/
  volts    : List Int
  /-- temperatures 0-3 in 0.01 °C; none where the channel is invalid -/
  temps    : List (Option Int)
  /-- stack voltage in mV (R195) -/
  stack    : Nat
  /-- raw thermistor resistances, 10 Ω per LSB (R304) -/
  thraw    : List Nat
  /-- KH2: string current, mA, none where invalid -/
  current  : Option Int
  vString  : Option Int
  vBus     : Option Int
  fb0      : Bool
  fb1      : Bool
  coilFault0 : Bool
  coilFault1 : Bool
  /-- code errors of the A and of the B receiver since the instant before (R90, R116) -/
  rxA : Nat
  rxB : Nat
  deriving DecidableEq, Repr

/-- What the section front end and the housekeeping monitors see at a tick edge (R172, R184, R583). -/
structure FrontEnd where
  /-- shunt inputs CSA, CSB in nV -/
  shunt   : List Int
  /-- Hall inputs HLA, HLB in µV -/
  hall    : List Int
  /-- HV0-HV7 inputs after the divider, in µV -/
  hv      : List Int
  /-- TH0-TH7 resistances in Ω -/
  th      : List Nat
  /-- burst samples of CSA, CSB, HLA, HLB at the offsets of 3300:52-61 -/
  bursts  : List (List Int)
  /-- VAUX, HOLDUP, VCORE, VIO, V33 in mV -/
  supply  : List Nat
  /-- compute-die and power-die junction, 0.01 °C -/
  cdTemp  : Int
  pdTemp  : Int
  /-- group supplies in mV and temperatures in 0.01 °C -/
  groupMv : List Nat
  groupT  : List Int
  /-- output current (mA), voltage (mV) and segment resistance (µΩ) of each channel -/
  outMa   : List Nat
  outMv   : List Nat
  segR    : List Nat
  deriving DecidableEq, Repr

/-- One record of an ENUM that came back (R120). `epochZero`: the slice reports role epoch 0x0000. -/
structure EnumRec where
  serial    : Nat
  kind      : Nat
  hwRev     : Nat
  fwVer     : Nat
  connector : Nat
  flags     : Nat
  epochZero : Bool
  deriving DecidableEq, Repr

/-- What the ring controller has found of one slice by ENUM, ECHO and the self-test (R137, R145): the record, the round trips of its
eight ECHOs from each side in 0.125 ns, none where they were not measured, and ALARMS. -/
structure Found where
  enum   : EnumRec
  tripsA : List Nat
  tripsB : List Nat
  alarms : Nat
  deriving DecidableEq, Repr

/-- What an identity check sees of a module (R303-R307). -/
structure IdentObs where
  /-- false: no answer after 3 attempts -/
  answered : Bool
  /-- register IDPIN -/
  idpin    : Nat
  thraw    : List Nat
  tag      : Nat
  cert     : List Byte
  sig      : List Byte
  deriving DecidableEq, Repr

/-- An item of the active trip matrix that carries parity (R232, R235). -/
inductive MatrixItem where
  | action (s : Fin 48)
  | loopMask
  | oc (k : Fin 8)
  | hwLow (k : Fin 8)
  | hwHigh (k : Fin 8)
  | ocDeglitch
  | hwDeglitch
  | watchdog
  deriving DecidableEq, Repr

/-- A dictionary object by index and subindex (R7). -/
structure ObjRef where
  idx : BitVec 16
  sub : BitVec 8
  deriving DecidableEq, Repr

/-- An item of a Sweram WRITE (R534). -/
structure WItem where
  obj : ObjRef
  val : List Byte
  deriving DecidableEq, Repr

/-- A CAN frame as a port receives it (R587). -/
structure CanFrame where
  ide   : Bool
  rtr   : Bool
  fdf   : Bool
  ident : Nat
  dlc   : Nat
  brs   : Bool
  esi   : Bool
  data  : List Byte
  deriving DecidableEq, Repr

/-- What a debugger does to the main core (R493). -/
inductive DebugAct where
  | halt | resume | singleStep | breakpoint
  | writeG (i : Fin 32) (v : Word)
  | writeV (i : Fin 16) (lo hi : F32)
  | writeS (n : Fin 32) (v : Word)
  deriving DecidableEq, Repr

/-- The lists of arbiters of R451, by the input counts of their rows. -/
inductive ArbiterId where
  | lanePort (block : Fin 16) (lane : Fin 5)
  | blockShared (block : Fin 16)
  | blockUp (block : Fin 16)
  | regionUp (region : Fin 4)
  | regionDown (block : Fin 16)
  | chipTarget (target : Fin 7)
  | chipDown (region : Fin 4)
  deriving DecidableEq, Repr

/-- The origin levels of R456. -/
inductive Level where
  | lane | block | region | chip
  deriving DecidableEq, Repr

/-- What the SECDED checks of a load find (R388): nothing, a corrected or a double-bit error in the datum, or either in the instruction's own
word in the program store. -/
inductive EccResult where
  | clean | corrected | double | storeCorrected | storeDouble
  deriving DecidableEq, Repr

/-- What a row of a write-back needed: 1, 2 or 3 retries, or 3 and its verify failed still (R426, R440). -/
inductive RowVerify where
  | retry1 | retry2 | retry3 | failed
  deriving DecidableEq, Repr

def RowVerify.retries : RowVerify → Nat
  | .retry1 => 1
  | .retry2 => 2
  | _ => 3

/-- The guard that counts a stall: of a region, or of the chip (R467). -/
inductive GuardId where
  | region (r : Fin 4)
  | chip
  deriving DecidableEq, Repr

/-- A unit with spares whose self-test runs while it is idle (R444). -/
inductive SpareUnit where
  | lane (block : Fin 16)
  | supervisor
  deriving DecidableEq, Repr

/-- The two firmware images of R631. -/
inductive ImageSlot where
  | a | b
  deriving DecidableEq, Repr

end Sys2Proof
end

