-- ==== Sys2Proof/Syntax.lean ====
section
/-!
DEFINITION. Sys2Proof/Syntax.lean: the commands of the block, one constructor per row of opcode_table.json, in the
table's order. The table gives a row no operands: those here are what the row's rules need from outside (the ring,
position, channel or string it happens at, the master that writes, what a frame or a sensor carries, and verdicts of
standards the spec does not itself define). Each docstring is the row's rule and its summary.
-/

namespace Sys2Proof

/-- A command (a step of opcode_table.json). -/
inductive Instr where
  /-- R9. A die-link frame or idle keep-alive arrives on a lane and is checked for CRC. -/
  | dieLinkFrame (lane : Fin 4) (crcOk : Bool)
  /-- R10. A lane that has failed its CRC on 16 consecutive frames is taken out of use, its bit is set in
  6010:01 and event 0x6020 is recorded. -/
  | dieLinkLaneOut (lane : Fin 4)
  /-- R11. The AON link watchdog sees no valid frame in a direction for five 32.768 kHz periods, declares link
  loss and asserts trip source LINK. -/
  | linkLoss (up : Bool)
  /-- R41. The die link recovers from a loss: event 0x6021 is recorded, 6010:02 increments and the link restarts
  on all four lanes. -/
  | linkRecovery
  /-- R383. The compute die reads the adopt block over the die link and compares it with its saved channel
  image. -/
  | adoptBlockRead
  /-- R383. The compute die writes ADOPT with G echoed, and the power die completes the handshake in full or
  opens-only mode. -/
  | adoptWrite
  /-- R35. A write to 2000:02 requests READY, ACTIVE or SHUTDOWN and is accepted or refused against the
  transition table. -/
  | modeRequest (m : Master) (code : Byte)
  /-- R660. A write of 2000:04 to 1 in READY starts the transition to ACTIVE as a mode request would. -/
  | autoActivate (m : Master)
  /-- R28. Once the image is authenticated, the self-tests have passed and adopt is complete, the device leaves
  BOOT for DISCOVER or SAFE-HOLD. -/
  | bootComplete
  /-- R28. Once every ring is discovered or timed out and time is locked or its timeout has run out, the device
  enters READY. -/
  | discoverComplete
  /-- R579. A write of 0x5A to 2000:07 flushes the FIFO, records 0xA014 and resets the compute die. -/
  | commandedRestart (m : Master) (v : Byte)
  /-- R578. A group mask written to 2000:08 stages the defaults of every setting of the groups held in EDIT. -/
  | defaultStaging (m : Master) (mask : BitVec 16)
  /-- R42. At a multiple of P in section time a tick begins, and the schedule fixed in the previous guard phase
  takes effect. -/
  | tickEdge
  /-- R45. A step of section time from first lock or re-anchor takes effect at a tick edge. -/
  | timeStep
  /-- R46. A committed tick period takes effect at the first 4 ms multiple after RUN, after TICKP and BOFS have
  been written to the slices. -/
  | tickPeriodChange
  /-- R48. At 0.25P the fast tier starts in every lane, whether or not every half-frame has arrived. -/
  | fastTierStart
  /-- R50. At 0.65P the hardware stops the fast-tier work of every lane. -/
  | fastTierStop (protDone estDone : BitVec 64)
  /-- R64. At 0.70P, limits and commands not yet placed leave the previous values standing with event 0x6031. -/
  | publishDeadline (placed : Bool)
  /-- R47. At 0.95P the scheduler compares cycles, sheds, admits and fixes the schedule of the next tick. -/
  | guardPhase (missed : List PairId)
  /-- R65. After 2100:08 consecutive ticks without overrun, the shed level falls one step. -/
  | shedLevelFall
  /-- R73. A decided move of a lane boundary takes effect at a tick edge, and the role epochs increment. -/
  | boundaryMove (block : Fin 16)
  /-- R81. An admission decided in tick k takes effect at edge k+1, and event 0x6036 is recorded. -/
  | fawnAdmitted (r : RingNo) (p : Pos)
  /-- R83. The vacancy hold of a left position runs out and its held figures and credits are released. -/
  | vacancyHoldExpiry (r : RingNo) (p : Pos)
  /-- R76. The spare lane takes over the whole range of the lane it replaces at the tick edge, with a new role
  epoch. -/
  | spareLaneTakeover (block : Fin 16)
  /-- R103. A slice receives a SWEEP frame and fills its regular, burst or exchange slot as it passes. -/
  | sweep (r : RingNo) (p : Pos) (f : Frame)
  /-- R107. A slice takes a SAMPLE frame from its TSRC direction, corrects its ring-time and arms the instant
  and the burst list. -/
  | sample (r : RingNo) (p : Pos) (f : Frame) (elapsed : Nat) (near : Bool)
  /-- R112. A KS16 takes the balancing duty of its elements from a DUTY frame of its HALF direction. -/
  | duty (r : RingNo) (p : Pos) (f : Frame)
  /-- R115. An addressed READ returns 1 to 16 register words from the target slice. -/
  | ringRead (r : RingNo) (p : Pos) (f : Frame)
  /-- R115. An addressed WRITE writes register words all or nothing; they take effect at the next sample
  instant. -/
  | ringWrite (r : RingNo) (p : Pos) (f : Frame)
  /-- R120. CTRL OPEN makes a KH2 de-energise the named coils within 10 µs. -/
  | ctrlOpen (r : RingNo) (p : Pos) (f : Frame)
  /-- R125. CTRL CLOSE is accepted by a KH2 with OK, or refused while OPENED or LOOPBRK is set. -/
  | ctrlClose (r : RingNo) (p : Pos) (f : Frame)
  /-- R125. 10 µs after an accepted CLOSE, the KH2 energises the named coils unless an OPEN-ALL has arrived. -/
  | kh2CoilEnergise (r : RingNo) (p : Pos)
  /-- R124. CTRL CLEAR_OPENED clears OPENED and ALARMS bit 0 in a slice. -/
  | clearOpened (r : RingNo) (p : Pos) (f : Frame)
  /-- R128. CTRL UNFOLD ends folding in a slice whose receivers hold lock, and is refused otherwise. -/
  | unfold (r : RingNo) (p : Pos) (f : Frame)
  /-- R196. CTRL INJECT makes a KS16 sink 100 µA from the named tap before the next instant and set INJ. -/
  | inject (r : RingNo) (p : Pos) (f : Frame)
  /-- R120. CTRL SELFTEST starts the slice self-test over the next 16 ticks. -/
  | selftest (r : RingNo) (p : Pos) (f : Frame)
  /-- R120. The slice self-test ends, and its result is placed in ALARMS. -/
  | selftestComplete (r : RingNo) (p : Pos) (result : Word)
  /-- R661. CTRL RESET with 0x5A restarts a slice into its power-up state with role epoch 0. -/
  | ctrlReset (r : RingNo) (p : Pos) (f : Frame)
  /-- R120. CTRL BALSTOP sets every duty of a KS16 to 0 until the next DUTY. -/
  | balstop (r : RingNo) (p : Pos) (f : Frame)
  /-- R120. Each slice writes its 16-byte descriptor into the record of its count in an ENUM frame. -/
  | enum (r : RingNo) (p : Pos) (f : Frame) (connector : Fin 2)
  /-- R119. An ECHO target sends the frame back on the opposite pair exactly 1,280 ns after recognition. -/
  | ringEcho (r : RingNo) (p : Pos) (f : Frame)
  /-- R118. A slice whose serial matches takes the new role, epoch and delays at the end of the ASSIGN frame. -/
  | assign (r : RingNo) (p : Pos) (f : Frame)
  /-- R100. A slice answers an addressed frame of an unsupported type with UNSUPPORTED and forwards an
  unsupported broadcast. -/
  | unsupportedFrame (r : RingNo) (p : Pos) (f : Frame)
  /-- R123. A slice recognises OPEN-ALL, forwards it, sets OPENED and de-energises coils or zeroes duties. -/
  | openAllBurst (r : RingNo) (p : Pos) (up : Bool)
  /-- R109. At its ring-time INSTANT a slice samples all its channels together, or at a predicted instant with
  SMISS. -/
  | sliceSample (r : RingNo) (p : Pos) (x : SliceReading)
  /-- R110. A slice takes burst samples of a privileged element at the offsets held in BOFS. -/
  | sliceBurst (r : RingNo) (p : Pos) (e : Fin 16) (samples : List (BitVec 16))
  /-- R114. A KS16 that has received no DUTY naming it for 16 ticks sets every duty to 0. -/
  | dutyTimeout (r : RingNo) (p : Pos)
  /-- R92. A slice receiver fails the lock test and loses lock. -/
  | sliceLockLoss (r : RingNo) (p : Pos) (side : Side)
  /-- R92. A receiver regains lock after 64 consecutive error-free idle pairs. -/
  | sliceLockRegain (site : Site)
  /-- R139. A connector without lock exchanges the roles of its pairs after its pseudo-random interval. -/
  | pairExchange (site : Site)
  /-- R661. A slice powers up into its power-up state; a KH2 has both coils de-energised and OPENED set. -/
  | sliceRestart (r : RingNo) (p : Pos) (kh2 : Bool)
  /-- R129. The ring controller sends the SWEEP, SAMPLE, DUTY and queued requests on each port, in tick order.
  -/
  | sweepSend (r : RingNo)
  /-- R131. A frame returns at a master port, and its slots and responses are checked and stored. -/
  | frameReturn (r : RingNo) (port : Side) (f : Frame) (complete : Bool)
  /-- R157. A master ring port loses lock; a break is detected and event 0x1006 is recorded. -/
  | masterPortLockLoss (r : RingNo) (side : Side)
  /-- R130. A request not returned within 300n:09 ticks times out; event 0x1004 is recorded and the tag is
  released. -/
  | transactionTimeout (r : RingNo) (tag : BitVec 16)
  /-- R122. While OPEN-ALL stays asserted, the PHYs repeat the burst every 50 µs. -/
  | openAllRepeat (r : RingNo)
  /-- R223. An ordered OPEN-ALL without a PHY acknowledge at 2 µs asserts source OAFAIL. -/
  | oafail (r : RingNo)
  /-- R137. A write of 1 to 31n7:0E starts discovery of one ring. -/
  | rediscover (m : Master) (r : RingNo) (v : Byte)
  /-- R147. Discovery ends: the herd table is committed, known slices are admitted and event 0x1010 is recorded.
  -/
  | discoveryComplete (r : RingNo) (fromA fromB : List Found) (portMap : BitVec 4) (latA latB : Nat) (ms : BitVec 16)
  /-- R147. A ring not discovered within 2000:06 is not admitted, with event 0x1011. -/
  | discoveryTimeout (r : RingNo) (step : Fin 8)
  /-- R152. Every 31n7:0C ticks an ENUM from each port compares the slices with the herd table. -/
  | populationScan (r : RingNo) (fromA fromB : List Found)
  /-- R155. An admitted slice missing for 31n7:0D ticks on a path becomes VACANT, with event 0x101D. -/
  | sliceLost (r : RingNo) (p : Pos)
  /-- R166. Positions without a path in two consecutive ticks make the ring state fault. -/
  | ringFault (r : RingNo)
  /-- R169. Every 31n7:0B ticks an UNFOLD is sent to the folding slice to test the hop. -/
  | unfoldProbe (r : RingNo)
  /-- R169. After the steps of restoration the ring is intact again, with event 0x101A. -/
  | ringRestored (r : RingNo) (fromA : List Found)
  /-- R172. At the tick edge the front end and all admitted channels sample together. -/
  | sampleInstant (x : FrontEnd)
  /-- R178. The settling time after a corner change ends, and the stale marking of the half ends. -/
  | filterSettled (r : RingNo) (upper : Bool)
  /-- R187. Primary and secondary section currents that differ beyond tolerance for 10 ticks record 0x2006. -/
  | sourceDisagreement
  /-- R189. Once every 1,000 ticks a test current checks each HV divider for an open. -/
  | hvDividerTest (shifts : List Int)
  /-- R190. At the end of each injection period the insulation resistance is computed and published. -/
  | insulationResult (busB : Bool) (result : Option Nat)
  /-- R200. A deviation pattern that persists for the persistence count makes a slice suspect. -/
  | sliceSuspect (r : RingNo) (p : Pos)
  /-- R202. In the tick of the INJ sample, the suspect slice is classified as open tap, element fault or channel
  fault. -/
  | tapClassification (r : RingNo) (p : Pos)
  /-- R204. A classification whose observation has been absent and whose new injection passes is cleared. -/
  | classificationClear (r : RingNo) (p : Pos) (item : Fin 64)
  /-- R213. FLKn stays below the short threshold for 150 ns and asserts LOOPn. -/
  | loopShort (r : RingNo)
  /-- R213. No valid heartbeat edge arrives within the timeout, and LOOPn asserts. -/
  | heartbeatLost (r : RingNo)
  /-- R214. After 1 ms of valid edges without a short, LOOPn deasserts. -/
  | loopDeassert (r : RingNo)
  /-- R215. A KS16 channel beyond its threshold for the deglitch time trips and breaks the fault loop. -/
  | comparatorTrip (r : RingNo) (p : Pos) (e : Fin 16) (high : Bool)
  /-- R216. A tripped channel releases once it is back inside the threshold by the hysteresis. -/
  | comparatorRelease (r : RingNo) (p : Pos) (e : Fin 16)
  /-- R216. 10 ms after its last channel releases, the slice releases the loop. -/
  | loopRelease (r : RingNo) (p : Pos)
  /-- R219. A KH2 whose loop stays broken for the local-open delay de-energises its coils itself. -/
  | kh2LocalOpen (r : RingNo) (p : Pos)
  /-- R220. A section over-current comparator trips after its deglitch time and asserts its OC source. -/
  | ocTrip (k : Fin 8)
  /-- R221. An HV window comparator sees its input outside the window for its deglitch time and trips. -/
  | hwTrip (k : Fin 8)
  /-- R222. No supervisor keep-alive arrives within 2300:0A, and source SUPWD asserts. -/
  | supervisorWatchdog
  /-- R224. A write of 1 to 2300:07 asserts ETRIP and records 0x300B. -/
  | emergencyTrip (m : Master) (v : Byte)
  /-- R224. ETRIP deasserts by itself 1 ms after its latest assertion. -/
  | etripExpiry
  /-- R227. The owner of PROT writes 2300:06, which clears the latches of the named deasserted sources. -/
  | clearLatches (m : Master) (mask : BitVec 64)
  /-- R234. 10 µs after a matrix swap the OR of the old and new actions ends and OVERLAP clears. -/
  | overlapEnd
  /-- R235. A parity error in the active matrix makes the item fall back to its default OR'd in, with event
  0x300C. -/
  | matrixParityError (item : MatrixItem)
  /-- R255. INIT of an element clears 60 s after its initialisation. -/
  | initExpiry (e : ElemNo)
  /-- R271. A divergence lasting 2800:05 sets DISAGREE and requests a rest window. -/
  | divergencePersists (e : ElemNo)
  /-- R271. An element's DISAGREE clears after 60 s below half the threshold. -/
  | disagreeClear (e : ElemNo)
  /-- R266. A write to 2800:02 releases or re-arms the reserves at the next tick edge. -/
  | reserveRelease (m : Master) (v : Byte)
  /-- R266. A reserve release ends when the release duration 2800:0C has run out. -/
  | releaseExpiry
  /-- R246. A committed profile is derived, sent to the lanes and applied at the next tick edge. -/
  | profileApply (profile : Fin 8)
  /-- R278. When time quiet reaches 2900:03 less 2900:04, the string enters CHECKING and stores its references.
  -/
  | restChecking (s : StringNo)
  /-- R279. Every relaxation window a check tests relaxation, coverage and temperature of a CHECKING string. -/
  | restCheck (s : StringNo)
  /-- R283. A slow job pairs rest points and applies or rejects a capacity observation. -/
  | capacityLearning (e : ElemNo)
  /-- R300. Once per operating hour a job writes the saved state and folds the accumulators of a page. -/
  | hourlyJob (page : Fin 4096)
  /-- R295. At the end of each operating day the mean resistance ratio becomes RSRATIO. -/
  | dailyResistance (e : ElemNo)
  /-- R295. Every 30 days the mean of the daily means is appended to the resistance history. -/
  | resistanceHistoryAppend (e : ElemNo)
  /-- R286. 2900:0A days without a verified rest point raise the INTERVAL cause of a rest request. -/
  | restRequestInterval (s : StringNo)
  /-- R288. A write of 1 to 292n:0B cancels every cause of the rest request. -/
  | cancelRestRequest (m : Master) (s : StringNo) (v : Byte)
  /-- R289. The newest rest point becomes older than 2900:09 days and LEARNSUSP is set. -/
  | learningSuspended (s : StringNo)
  /-- R290. 2900:0B days pass without a rest point and UNREFRESHED is set. -/
  | unrefreshed (s : StringNo)
  /-- R293. A slow job fits the bursts of the previous tick and accumulates impedance sums. -/
  | impedanceJob (e : ElemNo)
  /-- R308. The module identity of a slice is checked and IDSTATE is set by the outcome table. -/
  | identityCheck (r : RingNo) (p : Pos) (x : IdentObs)
  /-- R307. Exchange segment IDENT returns the serial, IDPIN, THRAW and tag serial of a fawn. -/
  | ident (r : RingNo) (p : Pos)
  /-- R307. Exchange segments CERT return the module certificate in three parts. -/
  | cert (r : RingNo) (p : Pos) (part : Fin 3)
  /-- R307. Exchange segment CHAL delivers the nonce and starts the tag signing. -/
  | chal (r : RingNo) (p : Pos) (nonce : BitVec 256)
  /-- R307. Exchange segments SIG return r and then s of the signature. -/
  | sig (r : RingNo) (p : Pos) (part : Fin 2)
  /-- R307. Exchange segment POLL carries the response to the last request. -/
  | poll (r : RingNo) (p : Pos)
  /-- R306. IDCTL op 0x01 loads the identity record into IDBUF. -/
  | loadIdentityRecord (r : RingNo) (p : Pos)
  /-- R306. IDCTL op 0x02 loads the module certificate into IDBUF. -/
  | loadCertificate (r : RingNo) (p : Pos)
  /-- R306. IDCTL op 0x03 makes the tag sign the nonce held in IDBUF. -/
  | signNonce (r : RingNo) (p : Pos)
  /-- R331. A protection condition held for the persistence count acts, with event 0x3010. -/
  | protectionCondition (s : StringNo) (cond : Fin 6) (e : ElemNo)
  /-- R333. A string emergency not confirmed within 100 ms makes the supervisor assert ETRIP. -/
  | emergencyUnconfirmed (s : StringNo)
  /-- R334. Every second the supervisor evaluates the policy conditions and takes their actions. -/
  | policyEvaluation
  /-- R336. Currents at or below 2500:10 for three fresh ticks let the strings open in order. -/
  | rampComplete
  /-- R337. A ramp incomplete at 2500:11 becomes a string or section emergency. -/
  | rampTimeout
  /-- R341. A write of 1 to 32nn:04 requests closing a closable string, or is refused with 0x500D. -/
  | stringCloseCommand (m : Master) (s : StringNo)
  /-- R335. A write of 2 to 32nn:04 orders an orderly disconnect of the string. -/
  | stringOrderlyOpen (m : Master) (s : StringNo)
  /-- R330. A write of 3 to 32nn:04 declares a string emergency and opens both contactors without ramp. -/
  | stringEmergencyOpen (m : Master) (s : StringNo)
  /-- R343. At the end of a solo test time the contactor is released and the string is checked for a weld. -/
  | soloTestEnd
  /-- R342. After the contact time the feedbacks are checked and the closing sequence advances a step. -/
  | contactTimeEnd
  /-- R348. The link reaches 63.2 % of its swing and τm is checked against the shape tolerance. -/
  | prechargeTauPoint (tauMs : Nat)
  /-- R348. The completion difference is reached, and the main positive channel switches on. -/
  | prechargeComplete (durationMs : Nat)
  /-- R348. Pre-charge fails for no rise or timeout when its bound expires. -/
  | prechargeTimeout
  /-- R349. The retry pause after a failed pre-charge ends and pre-charge retries. -/
  | retryPauseEnd
  /-- R351. The closing sequence exceeds 2500:1A and ends in READY or ACTIVE. -/
  | sequenceTimeout
  /-- R326. Every 2700:06 ticks the string reference and the element duties are recomputed. -/
  | balancingUpdate
  /-- R363. A write of 1 to 241k:01 is accepted or refused by the refusal table. -/
  | channelOnCommand (m : Master) (k : Chan)
  /-- R362. A write of 0 to 241k:01 turns the channel off, or cancels its retry in PAUSE. -/
  | channelOffCommand (m : Master) (k : Chan)
  /-- R374. A write of 2 to 241k:01 takes a LATCHED channel to OFF with its command cleared. -/
  | clearLatchCommand (m : Master) (k : Chan)
  /-- R366. A valid IN edge switches the channel at the IN-edge slew, or starts a full ramp after 100 ms off. -/
  | inEdge (k : Chan) (level cold : Bool)
  /-- R368. The output comes within 0.5 V of the supply and the channel enters INRUSH or ON. -/
  | rampEnd (k : Chan)
  /-- R368. A ramp longer than four times its nominal time turns off as a fault. -/
  | channelRampTimeout (k : Chan)
  /-- R368. The inrush window ends and the channel enters ON. -/
  | inrushWindowEnd (k : Chan)
  /-- R370. Current above the short threshold turns the channel off at once as a fault. -/
  | channelShort (k : Chan) (peakMa : Nat)
  /-- R371. Current reaching the limit in force holds the channel at its limit in LIMIT. -/
  | currentAtLimit (k : Chan)
  /-- R371. Current falling below 90 % of the limit returns the channel to its previous state. -/
  | limitRelease (k : Chan)
  /-- R371. Current held at the limit for 241k:07 turns the channel off as a fault. -/
  | limitTimeExpiry (k : Chan)
  /-- R372. The retry pause ends, and the channel restarts with a ramp if still commanded. -/
  | pauseEnd (k : Chan)
  /-- R373. After the clear time in ON without fault, the fault count returns to 0. -/
  | faultCountClear (k : Chan)
  /-- R375. A group supply below 16.0 V holds every ramping channel of the group. -/
  | supplyDip (g : Group)
  /-- R375. After 50 µs at 16.5 V, or after 5 ms, the paused ramps resume with event 0x5023. -/
  | dipResume (g : Group) (minMv pauseUs : Nat) (recovered : Bool)
  /-- R376. A group supply below 12.0 V for 100 µs turns every channel of the group off. -/
  | groupUvlo (g : Group)
  /-- R377. The group temperature crosses 150 °C or 160 °C and channels turn off with faults. -/
  | groupOvertemp (g : Group) (over160 : Bool)
  /-- R377. The group temperature falls below 130 °C and the pauses held by it may end. -/
  | overtempFall (g : Group)
  /-- R379. An off output above half the supply for 10 ms sets VAUXSHORT. -/
  | vauxShortDetect (k : Chan)
  /-- R379. A channel in ON below 20 mA for 100 ms sets OPENLOAD. -/
  | openLoadDetect (k : Chan)
  /-- R380. At a tick edge a channel switches to its spare FET segment. -/
  | segmentSwap (k : Chan)
  /-- R380. After 1 ms of conduction through both segments, the main segment turns off. -/
  | segmentHandoverEnd (k : Chan)
  /-- R404. A lane job starts with fresh registers and its entry arguments. -/
  | jobStart (block : Fin 16) (lane : Fin 5) (kind : Fin 4) (entry : Fin 8) (param : Word) (pages : List (Fin 4096)) (resume : Option (Fin 16))
      (due : Nat) (epoch : BitVec 16)
  /-- R393. Instruction ADD writes the sum of two registers. -/
  | add (t : TineId) (d a b : Fin 32)
  /-- R393. Instruction SUB writes the difference of two registers. -/
  | sub (t : TineId) (d a b : Fin 32)
  /-- R393. Instruction AND writes the bitwise AND of two registers. -/
  | and (t : TineId) (d a b : Fin 32)
  /-- R393. Instruction OR writes the bitwise OR of two registers. -/
  | or (t : TineId) (d a b : Fin 32)
  /-- R393. Instruction XOR writes the bitwise XOR of two registers. -/
  | xor (t : TineId) (d a b : Fin 32)
  /-- R393. Instruction SHL shifts a register left by b[4:0]. -/
  | shl (t : TineId) (d a b : Fin 32)
  /-- R393. Instruction SHR shifts a register right logically by b[4:0]. -/
  | shr (t : TineId) (d a b : Fin 32)
  /-- R393. Instruction SAR shifts a register right arithmetically by b[4:0]. -/
  | sar (t : TineId) (d a b : Fin 32)
  /-- R393. Instruction SLT writes 1 if a is below b, signed. -/
  | slt (t : TineId) (d a b : Fin 32)
  /-- R393. Instruction SLTU writes 1 if a is below b, unsigned. -/
  | sltu (t : TineId) (d a b : Fin 32)
  /-- R393. Instruction MUL writes the low 32 bits of the product. -/
  | mul (t : TineId) (d a b : Fin 32)
  /-- R393. Instruction MULH writes the high 32 bits of the signed product. -/
  | mulh (t : TineId) (d a b : Fin 32)
  /-- R393. Instruction MULHU writes the high 32 bits of the unsigned product. -/
  | mulhu (t : TineId) (d a b : Fin 32)
  /-- R393. Instruction DIV writes the signed quotient, 0xFFFFFFFF for division by zero. -/
  | div (t : TineId) (d a b : Fin 32)
  /-- R393. Instruction DIVU writes the unsigned quotient. -/
  | divu (t : TineId) (d a b : Fin 32)
  /-- R393. Instruction REM writes the remainder, a for division by zero. -/
  | rem (t : TineId) (d a b : Fin 32)
  /-- R393. Instruction ADDC adds with carry and sets C. -/
  | addc (t : TineId) (d a b : Fin 32)
  /-- R393. Instruction SUBC subtracts with borrow and sets C. -/
  | subc (t : TineId) (d a b : Fin 32)
  /-- R393. Instruction MIN writes the signed minimum. -/
  | min (t : TineId) (d a b : Fin 32)
  /-- R393. Instruction MAX writes the signed maximum. -/
  | max (t : TineId) (d a b : Fin 32)
  /-- R393. Instruction CLZ writes the leading zero count of a. -/
  | clz (t : TineId) (d a : Fin 32)
  /-- R393. Instruction ADDI adds a sign-extended immediate. -/
  | addi (t : TineId) (d a : Fin 32) (imm : BitVec 16)
  /-- R393. Instruction ANDI ANDs a zero-extended immediate. -/
  | andi (t : TineId) (d a : Fin 32) (imm : BitVec 16)
  /-- R393. Instruction ORI ORs a zero-extended immediate. -/
  | ori (t : TineId) (d a : Fin 32) (imm : BitVec 16)
  /-- R393. Instruction XORI XORs a zero-extended immediate. -/
  | xori (t : TineId) (d a : Fin 32) (imm : BitVec 16)
  /-- R393. Instruction SLTI compares a with a signed immediate. -/
  | slti (t : TineId) (d a : Fin 32) (imm : BitVec 16)
  /-- R393. Instruction LUI loads the immediate shifted left by 16. -/
  | lui (t : TineId) (d : Fin 32) (imm : BitVec 16)
  /-- R393. Instruction SHLI shifts left by an immediate. -/
  | shli (t : TineId) (d a : Fin 32) (imm : Fin 32)
  /-- R393. Instruction SHRI shifts right logically by an immediate. -/
  | shri (t : TineId) (d a : Fin 32) (imm : Fin 32)
  /-- R393. Instruction SARI shifts right arithmetically by an immediate. -/
  | sari (t : TineId) (d a : Fin 32) (imm : Fin 32)
  /-- R393. Instruction LDB loads a sign-extended byte. -/
  | ldb (t : TineId) (d a : Fin 32) (imm : BitVec 16) (ecc : EccResult)
  /-- R393. Instruction LDBU loads a zero-extended byte. -/
  | ldbu (t : TineId) (d a : Fin 32) (imm : BitVec 16) (ecc : EccResult)
  /-- R393. Instruction LDH loads a sign-extended halfword. -/
  | ldh (t : TineId) (d a : Fin 32) (imm : BitVec 16) (ecc : EccResult)
  /-- R393. Instruction LDHU loads a zero-extended halfword. -/
  | ldhu (t : TineId) (d a : Fin 32) (imm : BitVec 16) (ecc : EccResult)
  /-- R393. Instruction LDW loads a word. -/
  | ldw (t : TineId) (d a : Fin 32) (imm : BitVec 16) (ecc : EccResult)
  /-- R393. Instruction LDD loads 64 bits into an even register pair. -/
  | ldd (t : TineId) (d a : Fin 32) (imm : BitVec 16) (ecc : EccResult)
  /-- R393. Instruction LDV loads 64 bits into a V register. -/
  | ldv (t : TineId) (d a : Fin 32) (imm : BitVec 16) (ecc : EccResult)
  /-- R393. Instruction FENCE waits until all stores are visible. -/
  | fence (t : TineId)
  /-- R393. Instruction STB stores a byte. -/
  | stb (t : TineId) (d a : Fin 32) (imm : BitVec 16)
  /-- R393. Instruction STH stores a halfword. -/
  | sth (t : TineId) (d a : Fin 32) (imm : BitVec 16)
  /-- R393. Instruction STW stores a word. -/
  | stw (t : TineId) (d a : Fin 32) (imm : BitVec 16)
  /-- R393. Instruction STD stores an even register pair. -/
  | std (t : TineId) (d a : Fin 32) (imm : BitVec 16)
  /-- R393. Instruction STV stores a V register. -/
  | stv (t : TineId) (d a : Fin 32) (imm : BitVec 16)
  /-- R393. Instruction BEQ branches if a equals b. -/
  | beq (t : TineId) (a b : Fin 32) (off : BitVec 16)
  /-- R393. Instruction BNE branches if a differs from b. -/
  | bne (t : TineId) (a b : Fin 32) (off : BitVec 16)
  /-- R393. Instruction BLT branches if a is below b, signed. -/
  | blt (t : TineId) (a b : Fin 32) (off : BitVec 16)
  /-- R393. Instruction BGE branches if a is at or above b, signed. -/
  | bge (t : TineId) (a b : Fin 32) (off : BitVec 16)
  /-- R393. Instruction BLTU branches if a is below b, unsigned. -/
  | bltu (t : TineId) (a b : Fin 32) (off : BitVec 16)
  /-- R393. Instruction BGEU branches if a is at or above b, unsigned. -/
  | bgeu (t : TineId) (a b : Fin 32) (off : BitVec 16)
  /-- R393. Instruction JAL writes the return address to G31 and jumps. -/
  | jal (t : TineId) (off : BitVec 26)
  /-- R393. Instruction JALR writes the return address and jumps to a plus imm. -/
  | jalr (t : TineId) (d a : Fin 32) (imm : BitVec 16)
  /-- R393. Instruction VADD adds the named halves in binary32. -/
  | vadd (t : TineId) (vd va vb : Fin 16) (lo hi : Bool)
  /-- R393. Instruction VSUB subtracts the named halves. -/
  | vsub (t : TineId) (vd va vb : Fin 16) (lo hi : Bool)
  /-- R393. Instruction VMUL multiplies the named halves. -/
  | vmul (t : TineId) (vd va vb : Fin 16) (lo hi : Bool)
  /-- R393. Instruction VFMA computes va × vb + vc fused. -/
  | vfma (t : TineId) (vd va vb vc : Fin 16) (lo hi : Bool)
  /-- R393. Instruction VFMS computes va × vb − vc fused. -/
  | vfms (t : TineId) (vd va vb vc : Fin 16) (lo hi : Bool)
  /-- R393. Instruction VFNMA computes vc − va × vb fused. -/
  | vfnma (t : TineId) (vd va vb vc : Fin 16) (lo hi : Bool)
  /-- R393. Instruction VMIN writes the minimum of the named halves. -/
  | vmin (t : TineId) (vd va vb : Fin 16) (lo hi : Bool)
  /-- R393. Instruction VMAX writes the maximum of the named halves. -/
  | vmax (t : TineId) (vd va vb : Fin 16) (lo hi : Bool)
  /-- R393. Instruction VABS writes the absolute value of va. -/
  | vabs (t : TineId) (vd va : Fin 16) (lo hi : Bool)
  /-- R393. Instruction VNEG writes the negation of va. -/
  | vneg (t : TineId) (vd va : Fin 16) (lo hi : Bool)
  /-- R393. Instruction VSWP swaps the halves of va into vd. -/
  | vswp (t : TineId) (vd va : Fin 16)
  /-- R393. Instruction VDIV divides va by vb. -/
  | vdiv (t : TineId) (vd va vb : Fin 16) (lo hi : Bool)
  /-- R393. Instruction VSQRT writes the square root of va. -/
  | vsqrt (t : TineId) (vd va : Fin 16) (lo hi : Bool)
  /-- R393. Instruction VEXP writes e to the power va. -/
  | vexp (t : TineId) (vd va : Fin 16) (lo hi : Bool)
  /-- R393. Instruction VMVG moves the bits of ga into a half of vd. -/
  | vmvg (t : TineId) (vd : Fin 16) (ga : Fin 32) (high : Bool)
  /-- R393. Instruction GMVV moves the bits of a half of va into ga. -/
  | gmvv (t : TineId) (ga : Fin 32) (va : Fin 16) (high : Bool)
  /-- R393. Instruction VCVTI converts int32 ga into a half of vd. -/
  | vcvti (t : TineId) (vd : Fin 16) (ga : Fin 32) (high : Bool)
  /-- R393. Instruction VCVTF converts a half of va to a saturated int32 in ga. -/
  | vcvtf (t : TineId) (ga : Fin 32) (va : Fin 16) (high : Bool)
  /-- R393. Instruction VCMP writes the less-than and equal flags of both halves into ga. -/
  | vcmp (t : TineId) (ga : Fin 32) (vd va : Fin 16)
  /-- R393. Instruction VCLASS writes the class of each half of va into ga. -/
  | vclass (t : TineId) (ga : Fin 32) (va : Fin 16)
  /-- R394. Instruction OCVI interpolates OCV or energy and its slope from a profile copy. -/
  | ocvi (t : TineId) (vd va : Fin 16) (ga : Fin 32) (energy : Bool)
  /-- R394. Instruction TBLI interpolates two parameters of the profile parameter table. -/
  | tbli (t : TineId) (vd va : Fin 16) (ga : Fin 32) (k : Fin 8)
  /-- R395. Instruction SLD loads a field, state word or burst sample of a position's slot. -/
  | sld (t : TineId) (d a : Fin 32) (imm : BitVec 16)
  /-- R396. Instruction SST stages a balancing duty in a lane, or writes the frame under assembly in a ring
  controller. -/
  | sst (t : TineId) (d a : Fin 32) (imm : BitVec 16)
  /-- R396. Instruction FQ queues an assembled frame on a logical port, optionally ahead of all requests. -/
  | fq (t : TineId) (a b : Fin 32)
  /-- R397. Instruction RCOMMIT copies a fast or slow record atomically, adding the CRC for a slow record. -/
  | rcommit (t : TineId) (a b : Fin 32) (slow : Bool)
  /-- R401. Instruction WFT ends the invocation, and the measured cycles are reported to the scheduler. -/
  | wft (t : TineId)
  /-- R401. Instruction WFE suspends the invocation until a named event occurs. -/
  | wfe (t : TineId) (mask : BitVec 16)
  /-- R401. An event named in a WFE mask occurs and resumes the waiting Tine, setting WAKE. -/
  | wfeWake (t : TineId) (events : BitVec 9)
  /-- R391. Instruction MFS reads a special register into a general register. -/
  | mfs (t : TineId) (d : Fin 32) (n : Fin 32)
  /-- R391. Instruction MTS writes a special register, or faults with ACCESS for an RO or absent register. -/
  | mts (t : TineId) (n : Fin 32) (a : Fin 32)
  /-- R398. An MTS to EMERG posts a string emergency, so the ring controller sends CTRL OPEN. -/
  | mtsEmerg (t : TineId) (a : Fin 32)
  /-- R399. Instruction BRB branches when the remaining budget is below Ga. -/
  | brb (t : TineId) (a : Fin 32) (off : BitVec 16)
  /-- R407. Instruction CLD reads a field of the received CAN frame. -/
  | cld (t : TineId) (d : Fin 32) (imm : BitVec 16)
  /-- R407. Instruction CDISP sets the disposition of the received CAN frame. -/
  | cdisp (t : TineId) (a : Fin 32)
  /-- R408. Instruction ELD reads a field of the ingested event. -/
  | eld (t : TineId) (d : Fin 32) (imm : BitVec 16)
  /-- R408. Instruction ETRG sets the snapshot set and the flush request of the event. -/
  | etrg (t : TineId) (a : Fin 32)
  /-- R409. Instruction FAULT ends the job with cause PROGRAM and a code. -/
  | fault (t : TineId) (code : Byte)
  /-- R405. A slow job whose CYC passes 8 times its effective figure ends with RUNAWAY. -/
  | slowJobRunaway (block : Fin 16) (lane : Fin 5)
  /-- R406. A sweep program without WFT by 0.95P ends with WATCH, and only privileged frames are sent. -/
  | sweepProgramWatch (r : RingNo)
  /-- R417. A write of 1 to 2E1s:09 requests activation of a staged image. -/
  | imageActivate (m : Master) (slot : Fin 32) (v : Byte)
  /-- R422. A write of 1 to 2E1s:0A requests erasure of a slot at RUN. -/
  | imageErase (m : Master) (slot : Fin 32) (v : Byte)
  /-- R419. In the next guard phase a new kernel is broadcast into the kernel areas of the lanes concerned. -/
  | kernelBroadcast
  /-- R430. A requested slow-record page finishes loading into the cache. -/
  | pageFetchComplete (page : Fin 4096) (lost : BitVec 4)
  /-- R433. A page whose previous write-back lies 600 s back is written back. -/
  | writeBackDue (page : Fin 4096)
  /-- R435. A placement waiting on the dirty cap forces the write-back of the oldest DIRTY page. -/
  | forcedWriteBack (bank : Option (Fin 16))
  /-- R436. A write-back completes and the page becomes CLEAN, or DIRTY or SOFT if changed meanwhile. -/
  | writeBackComplete (page : Fin 4096) (rows : List (Fin 128 × RowVerify))
  /-- R432. A dictionary read of a slow record is served outside the slow phase. -/
  | slowRecordRead (e : ElemNo)
  /-- R444. Each idle spare runs its self-test once per 2A00:17 and is retired if it fails. -/
  | spareSelfTest (u : SpareUnit) (pass : Bool)
  /-- R445. After 1,000 ticks of parallel reception, a spare PHY pair takes over transmission. -/
  | phySwap (spare : Fin 2) (r : RingNo) (swing : BitVec 16)
  /-- R453. An arbiter grants one transfer to the next requesting input in round-robin order. -/
  | arbiterGrant (a : ArbiterId) (requests : BitVec 16) (next : Option (ArbiterId × Fin 16))
  /-- R454. A request waiting beyond its origin bound raises bleat and wins at later arbiters. -/
  | bleatRaise (a : ArbiterId) (input : Fin 16) (origin : Level) (occupant : Option (ArbiterId × Fin 16))
  /-- R458. An eMRAM request of priority 4–7 waiting beyond 10 ms raises bleat. -/
  | emramBleat (req : Nat)
  /-- R459. A difference between the duplicated arbiter copies is a check fault. -/
  | arbiterCheckFault (a : ArbiterId)
  /-- R460. An uncorrectable error in a frame buffer or the herd table copy is handled with 0x6068. -/
  | uncorrectableBlockError (block : Fin 16) (herd : Bool) (addr : Word)
  /-- R461. A region fault resets the whole region and marks its tick stale. -/
  | regionFault (r : Fin 4) (cause : Fin 4) (addr : Word)
  /-- R461. The reset region runs again, with event 0x6061. -/
  | regionRunning (r : Fin 4) (us : Nat)
  /-- R462. A write of 1 to 6064+r:08 restarts a held region and runs discovery on its rings. -/
  | restartHeldRegion (m : Master) (r : Fin 4) (v : Byte)
  /-- R463. A chip fault flushes the FIFO and makes a controlled restart of the compute die. -/
  | chipFault (cause : Fin 4)
  /-- R467. A stall into a stopped domain reaches the guard limit and raises a crossing fault. -/
  | guardStallLimit (g : GuardId) (domain : Fin 64) (addr : Word) (tine : Option TineId)
  /-- R466. A pulse crossing handshake delivers the count of pulses, saturating at 15. -/
  | pulseCrossing (c : Fin 64) (arrived : Fin 64)
  /-- R470. A one-sided reset of a crossing makes the receiver discard transfers whose generation bit differs.
  -/
  | generationMismatch (c : Fin 64) (transfers : Nat)
  /-- R470. Within 1 µs the coordinator resets both sides of the crossing together. -/
  | crossingResync (c : Fin 64)
  /-- R573. A write of 1 to a W1C bit clears it unless hardware sets it in the same cycle. -/
  | w1cClear (m : Master) (o : ObjRef) (mask hwSet : Word)
  /-- R484. A compared difference stops the pair, asserts LSRr and records 0x6001. -/
  | lockstepMismatch (p : PairId) (group : Fin 5) (cycle : Word) (pc : Word) (main checker : BitVec 104)
  /-- R481. A rail or parity failure of the comparator stops the pair as a checker fault. -/
  | checkerFault (p : PairId) (parity : Bool) (item : Fin 64)
  /-- R487. A replaced pair completes injection and self-test, and returns to spare or is retired. -/
  | replacedPairTest (p : PairId) (pass : Bool)
  /-- R489. A mismatch of the active supervisor pair asserts LSSUP and discards its results. -/
  | supervisorMismatch (checker : Bool) (group : Fin 5) (cycle : Word) (pc : Word) (main other : BitVec 104)
  /-- R489. The spare supervisor pair takes over at the next tick edge from supervisor memory. -/
  | supervisorTakeover
  /-- R490. A mismatch of a ring-controller, CAN or recorder Tine ends its invocation, and the Tine may be
  retired. -/
  | nonspareTineMismatch (t : TineId) (checker : Bool) (group : Fin 5) (cycle : Word) (pc : Word) (main other : BitVec 104) (injectionOk : Bool)
  /-- R496. A write to 6050:02 draws a nonce and issues a debug challenge. -/
  | debugUnlockRequest (m : Master) (word : Word)
  /-- R497. A certificate and signature written to 6050:04 grant or refuse the unlock. -/
  | debugResponse (m : Master) (response : List Byte)
  /-- R492. Before a single-pair session, the spare takes the lane's range at the next edge. -/
  | singlePairHandover
  /-- R499. A write of 1 to 6050:05 ends the debug session. -/
  | debugLock (m : Master) (v : Byte)
  /-- R499. A JTAG test reset ends the debug session. -/
  | jtagTestReset
  /-- R499. No debug access for 6050:07 ends the session. -/
  | debugInactivity
  /-- R498. The 600 s lockout after three refusals ends. -/
  | debugLockoutEnd
  /-- R512. A domain servo takes an offset sample and updates its fit and state. -/
  | ptpSyncSample (d : Fin 2) (offset residual : Int) (ratePpb : Int) (pathNs : Nat) (ask : Int)
  /-- R512. An announce feeds the domain's BMCA and may change grandmaster. -/
  | announceReceived (d : Fin 2) (gm : BitVec 64) (clockClass : Byte) (timeSource : Byte) (arb : Bool) (utcOffset : Int) (utcFlags : Byte) (timeDiff : Int)
  /-- R512. No announce within announceReceiptTimeout makes the domain IDLE. -/
  | announceTimeout (d : Fin 2)
  /-- R517. A write of 1 or 2 to 2200:10 steps section time to a domain at the next edge. -/
  | reAnchor (m : Master) (v : Byte)
  /-- R520. PPS_OUT rises at each whole second of section time when enabled. -/
  | ppsOutEdge
  /-- R522. An input edge passing the filter is timestamped into the capture FIFO. -/
  | trigCapture (n : Fin 5) (rising : Bool) (subNs : Nat)
  /-- R522. A read of 223n:06 delivers and removes the oldest capture. -/
  | captureRead (m : Master) (n : Fin 5)
  /-- R521. A TRIG output emits its single or periodic pulse at its section time. -/
  | trigPulse (n : Fin 4)
  /-- R525. An announce on a D port is ignored and counted. -/
  | foreignAnnounce (dPort : Fin 2) (identity : BitVec 64)
  /-- R527. Every 2241:03 ticks a time reference message is queued on the named CAN ports. -/
  | timeReferenceMessage
  /-- R531. A Sweram DTLS handshake opens a session with a role, or fails. -/
  | dtlsHandshake (port : Fin 2) (certOk : Bool) (fingerprint : BitVec 256)
  /-- R532. A session without datagrams for 2C00:14 is closed. -/
  | sessionIdle (s : Fin 8)
  /-- R535. A READ message answers each item separately from one publish copy. -/
  | sweramRead (s : Fin 8) (seq : Word) (staged : Bool) (items : List ObjRef)
  /-- R535. A WRITE message writes all items or none. -/
  | sweramWrite (s : Fin 8) (seq : Word) (items : List WItem)
  /-- R537. A SEGREAD returns a segment of a domain object. -/
  | segread (s : Fin 8) (seq : Word) (o : ObjRef) (offset : Word) (count : BitVec 16)
  /-- R537. A SEGWRITE stages a contiguous segment of a domain object. -/
  | segwrite (s : Fin 8) (seq : Word) (o : ObjRef) (offset : Word) (bytes : List Byte)
  /-- R540. A SUBSCRIBE sets or cancels the session's periodic stream. -/
  | subscribe (s : Fin 8) (seq : Word) (period : BitVec 16) (items : List ObjRef)
  /-- R540. Every subscription period a STREAM is sent after 0.70P. -/
  | stream (s : Fin 8)
  /-- R534. An ECHO message is returned unchanged. -/
  | sweramEcho (s : Fin 8) (seq : Word) (bytes : List Byte)
  /-- R557. Once per second a parent sends DISCOVER on each enabled D port. -/
  | discoverBroadcast
  /-- R557. A device receiving DISCOVER on ETA or ETB answers with HELLO. -/
  | discoverMessage (port : Fin 2) (serial : BitVec 64) (fingerprint : BitVec 256)
  /-- R557. A HELLO from a child enters it into a child slot and may open a session. -/
  | hello (dPort : Fin 2) (serial : BitVec 64) (handshakeOk : Bool) (role : Fin 4)
  /-- R559. A subtree summary arrives from a child. -/
  | childSummary (k : Fin 32) (bytes : List Byte)
  /-- R563. A child silent for 1 s becomes LOST. -/
  | childLost (k : Fin 32)
  /-- R560. Once per second ten ECHOs measure the link delay to each child. -/
  | linkDelayEcho (k : Fin 32) (roundTrips : List Nat)
  /-- R541. A USDO download writes an object through the CAN client. -/
  | usdoDownload (o : ObjRef) (bytes : List Byte) (segmented last : Bool)
  /-- R541. A USDO upload reads an object through the CAN client. -/
  | usdoUpload (o : ObjRef)
  /-- R541. A segmented transfer with no segment for 1 s is aborted. -/
  | usdoTimeout
  /-- R545. Semaphore op 1 claims the named groups for edit if all are free. -/
  | claimForEdit (m : Master) (groups : BitVec 9) (lease : BitVec 16)
  /-- R546. Semaphore op 2 claims the named groups for command, leaving them in RUN. -/
  | claimForCommand (m : Master) (groups : BitVec 9) (lease : BitVec 16)
  /-- R549. Semaphore op 3 ends a command claim or starts CHECK of an edit claim. -/
  | releaseToCheck (m : Master) (claim : BitVec 16) (groups : BitVec 9)
  /-- R550. Semaphore op 4 aborts the claim and rolls back its staged writes. -/
  | semaphoreAbort (m : Master) (claim : BitVec 16) (groups : BitVec 9)
  /-- R548. Semaphore op 5 renews the lease. -/
  | semaphoreRenew (m : Master) (claim : BitVec 16) (groups : BitVec 9)
  /-- R546. At the next tick edge after an edit claim the function enters HOLD. -/
  | holdEntry
  /-- R546. At the edge after HOLD the function enters EDIT. -/
  | editEntry
  /-- R547. A write to a setting without a row of its own is checked and staged. -/
  | settingWrite (m : Master) (o : ObjRef) (val : List Byte)
  /-- R549. CHECK of a claim finishes, and it commits at the next edge or rolls back. -/
  | checkComplete (claim : BitVec 16)
  /-- R550. A lease runs out and the claim is rolled back or freed. -/
  | leaseExpiry (claim : BitVec 16)
  /-- R587. A frame received without error is written into the port's receive ring. -/
  | canFrameReceived (port : Fin 4) (f : CanFrame)
  /-- R590. A master's read of a host queue delivers and frees its oldest entries. -/
  | hostQueueRead (m : Master) (port : Fin 4) (q : Fin 9)
  /-- R592. A master writes a mailbox record and queues a frame. -/
  | mailboxWrite (m : Master) (port : Fin 4) (box : Fin 22) (rec : List Byte)
  /-- R593. A write to 2D3p:21 registers a cancel of the named mailboxes. -/
  | mailboxCancel (m : Master) (port : Fin 4) (mask : Word)
  /-- R593. An attempt passes the last arbitration bit and completes even if cancelled. -/
  | arbitrationWon (port : Fin 4)
  /-- R592. A frame is transmitted and acknowledged, and its mailbox becomes SENT. -/
  | canTxComplete (port : Fin 4)
  /-- R595. An attempt ending in an acknowledgement error extends the ACK run and may set LONE. -/
  | canAckError (port : Fin 4)
  /-- R594. A bus error changes the error counters and the error state of the port. -/
  | canErrorFrame (port : Fin 4) (txInc rxInc : Nat)
  /-- R585. After the recovery delay and 128 recessive sequences a bus-off port recovers. -/
  | busOffRecovery (port : Fin 4)
  /-- R597. Every 2D1p:1B ticks a process-data set is queued at 0.70P after cancelling the unsent previous set.
  -/
  | processDataSet (port : Fin 4)
  /-- R601. An event enters the recorder, takes a SEQ and becomes a record or a repeat. -/
  | eventIngest
  /-- R614. 2B00:04 seconds after the last flush, a flush is triggered. -/
  | flushPeriod
  /-- R614. The unwritten FIFO slots are written into the log in SEQ order. -/
  | logFlush
  /-- R615. A flush completes, closed sectors leave the FIFO and the log state is updated. -/
  | logFlushComplete (us : BitVec 16)
  /-- R619. A write to 5000:06 releases the archived sectors, oldest first. -/
  | logRelease (m : Master) (seq : BitVec 64)
  /-- R620. A read of 5100+k returns a log slot, from the FIFO copy for the open sector. -/
  | logSectorRead (m : Master) (k : Fin 2048) (i : Fin 64)
  /-- R628. After POR the compute die runs the start-up steps through image, memory, self-test and
  configuration. -/
  | powerOn (cause : Fin 7) (failed : List (PairId × Option (Fin 335))) (imageOk : Bool × Bool)
  /-- R636. VAUX below 17.0 V for 10 µs enters SHUTDOWN, asserts ETRIP and starts the power-fail flush. -/
  | vauxDrop (vauxMv holdupMv : BitVec 16)
  /-- R638. The power-fail or shutdown sequence ends by writing the closing record 0xA031. -/
  | closingRecord (flushUs vauxMv holdupMv : BitVec 16)
  /-- R642. VAUX at or above 18.0 V for 100 ms after the closing record leaves SHUTDOWN for BOOT. -/
  | vauxReturn (belowMs : Word)
  /-- R627. Assertion of RESET_N resets the compute die at once, without a flush. -/
  | resetN
  /-- R651. A compute supply below its threshold for 2 µs resets the compute die. -/
  | supplyUndervoltage (rail : Fin 3)
  /-- R641. HOLDUP more than 1.0 V below VAUX asserts HOLDUP and holds the dirty count at 0. -/
  | holdupLow
  /-- R222. VAUX outside 16.0–34.0 V for 50 µs asserts trip source VAUXR. -/
  | vauxOutOfRange
  /-- R222. The power-die junction rises above 140 °C and asserts trip source PDTEMP. -/
  | powerDieOvertemp
  /-- R222. The compute-die junction rises above 135 °C and asserts trip source CDTEMP on its dedicated line. -/
  | computeDieOvertemp
  /-- R222. The fault-loop receiver bias supply goes out of range and asserts trip source FLKSUP. -/
  | faultLoopBiasSupply
  /-- R226. The condition of a hardware source other than a fault loop or ETRIP clears, for example an OC or HW
  comparator output or the VAUXR, PDTEMP, CDTEMP or FLKSUP monitor, and the source deasserts, so an action
  without LATCH ends. -/
  | tripConditionCleared (source : Fin 48)
  /-- R641. HOLDUP returns to within 1.0 V of VAUX; the HOLDUP source deasserts and the pager stops holding the
  dirty count at 0. -/
  | holdupRestored
  /-- R383. The adopt wait at step 1 passes 5 ms while the die link is lost, and event 0xA005 with cause LINK is
  recorded once. -/
  | adoptWaitTimeout
  /-- R126. The idle received from a hop changes between receiving you and not receiving you, which makes a
  slice fold or sets PEERB at a master port. -/
  | idleNotReceivingYou (site : Site) (receiving : Bool)
  /-- R464. An Ethernet port loses or regains its receive signal; its NET clock stops or restarts, and 2C20+p:01
  changes. -/
  | ethernetLinkChange (port : Fin 4) (up : Bool)
  /-- R393. A Tine executes a word with an undefined opcode or func, or an instruction its place does not
  provide, and the job ends with fault cause ILLEGAL. -/
  | undefinedOpcode (t : TineId) (word : Word)
  /-- R407. A CAN filter or recorder trigger invocation reaches 4 times its declared figure and stops with fault
  cause WATCH. -/
  | filterTriggerWatch (t : TineId)
  /-- R593. A CAN transmission attempt loses arbitration; the mailbox stays pending, or becomes CANCELLED if a
  cancel was registered. -/
  | arbitrationLost (port : Fin 4)
  /-- R493. A debugger halts, resumes or single-steps the main core, hits a breakpoint, or writes a register,
  and the action is replayed on the checker 2 cycles later. -/
  | debuggerAction (t : TineId) (act : DebugAct)
  /-- R306. A module-tag operation started through IDCTL, such as signing the nonce, completes; IDCTL reads done
  or error and IDBUF holds the result. -/
  | idctlOperationDone (r : RingNo) (p : Pos) (ok : Bool) (data : List Byte)
  /-- R524. At each sync and announce interval, the device as master sends Sync and Announce on ETD1 and ETD2
  with the advertised dataset. -/
  | dPortSyncInterval (dPort : Fin 2)
  /-- R507. A downstream slave's delay request arrives on a D port and is answered under the delay mechanism of
  the profile. -/
  | delayRequest (dPort : Fin 2) (identity : BitVec 64) (receivedNs : BitVec 64)
  /-- R524. Holdover lasts beyond 2240:05, and the advertised clockClass changes from 7 to 187. -/
  | holdoverClassPeriodExpiry
  deriving DecidableEq, Repr

end Sys2Proof
end

