-- ==== Sys2Proof/Decode.lean ====
section
/-!
DEFINITION. Sys2Proof/Decode.lean: the commands that words of the opcode table spell. No row of the table has bits, so
no word spells a command. The instruction words of the Tines (R392) are decoded in Sys2Proof/Machine/TineWord.lean.
-/

namespace Sys2Proof

/-- The command that the low `nbits` bits of `w` spell by the table: the table gives no row any bits. -/
def decodeTableWord (_nbits _w : Nat) : Option Instr := none

end Sys2Proof
end

