-- ==== Sys2Proof/Config.lean ====
section
/-!
DEFINITION. Sys2Proof/Config.lean: what is fixed for one device and not stated by the spec. Every opaque constant has
no body: nothing can be proved of its value (log entries 1, 2, 5, 6 and 7).
-/

namespace Sys2Proof

/-- The source of the values the spec leaves open: the n-th draw of State.fresh (log entry 1). -/
opaque Config.free : Nat → Nat

/-- Values set at manufacture ("factory value", R577), by dictionary key index × 256 + subindex (log entry 2). -/
opaque Config.factory : Nat → Nat

/-- Text of 100A for a firmware version, whose form the spec does not give (R580, log entry 155). -/
opaque Config.versionText : Nat → List (BitVec 8)

/-- Domain objects with a factory value or a resident table (R275 2810:07-08, 2C00:10), by key. -/
opaque Config.factoryDomain : Nat → List Byte

/-- SHA-256 of FIPS 180-4, a function outside the spec (R305, R414, R496; log entry 6). -/
opaque Config.sha256 : List Byte → List Byte

/-- ECDSA P-256 verification over a 32-byte digest: key, digest, r ‖ s (R305, R415, R496; log entry 6). -/
opaque Config.ecdsaVerify : List Byte → List Byte → List Byte → Bool

/-- The public key that a key id of a root names: the Renoft code-signing root 2E00:06 and the debug root 6050:09. -/
opaque Config.rootKey : Nat → List Byte

/-- The significand of the NaN that an invalid operation delivers (R390 gives no payload; log entry 5). -/
opaque Config.nanPayload : BitVec 22

/-- VMIN and VMAX of a NaN operand or of two zeros of opposite sign, which the spec does not state (log entry 5). -/
opaque Config.minMaxOpen : Bool → F32 → F32 → F32

/-- The choice VEXP makes inside its bound of 2 ulp (R393), and its result outside −87 to +88 (log entry 5). -/
opaque Config.expUlp : F32 → Nat

opaque Config.expOutside : F32 → F32

/-- The serial number of the slice at ring × 64 + position until SLICE_RESTART or DISCOVERY names another. -/
opaque Config.sliceSerial : Nat → BitVec 64

/-- The place of the slice at ring × 64 + position on its ring's fault loop, from the heartbeat source towards FLKn: the installation's
choice (R218; log entry 132). -/
opaque Config.loopPlace : Nat → Nat

/-- Macro and row of the SRAM that hold the byte at a key of the memories: the spec gives the counts of both and no layout (R443; log
entry 140). -/
opaque Config.sramRow : Nat → Fin 192 × Fin 65536

/-- Hardware revision and firmware version of that slice: TYPEVER [23:0]. -/
opaque Config.sliceVersion : Nat → BitVec 24

/-- What is built into the module of a slice, by its serial number: IDPIN (R306), and the serial number (0: no tag) and
the certificate of its module tag (R305, R307). -/
opaque Config.slicePin : BitVec 64 → BitVec 17

opaque Config.tagSerial : BitVec 64 → BitVec 64

opaque Config.tagCert : BitVec 64 → List Byte

/-- The resident Tine images of the firmware, slots 0–7 (R416), and the firmware images A and B as 32 and 33 (R631), whose
content the spec does not give. -/
opaque Config.residentImage : Nat → List Byte

/-- The resident images of slots 0–7 and the id of the code-signing root key that a firmware image carries (R415, R416): the spec does not say
where in the image they lie (log entry 148). -/
opaque Config.firmwareResident : List Byte → Nat → List Byte

opaque Config.firmwareRoot : List Byte → Nat

/-- The quotient of −2³¹ by −1, which has no 32-bit value and which R393 does not state (log entry 33). -/
opaque Config.divOverflow : Word

/-- The commissioning reference of the on-resistance of each channel's segment, µΩ at 25 °C (R443; log entry 2). -/
opaque Config.fetRef : Nat → Nat

/-- Are a sync interval, an announce interval (log2 s) and an announce receipt timeout inside the ranges of a PTP profile
(R507, R510)? The spec does not state the ranges (log entry 61). -/
opaque Config.ptpRange : Nat → Int → Int → Nat → Bool

/-- Does a hardware revision lie in the range of a firmware image (R633)? The layout of R414 has no field for it (log entry
66). -/
opaque Config.hardwareRange : List Byte → Nat → Bool

end Sys2Proof
end

