-- ==== Sys2Proof/Machine/Bits.lean ====
section
/-!
DEFINITION. Sys2Proof/Machine/Bits.lean: bit fields of numbers, byte orders, two's complement, and the two checks of
the Kwasel ring (R94, R95), the second of which the records and slow records use too (R397, R606).
-/

namespace Sys2Proof.Machine

/-- Bits [hi:lo] of a number. -/
def bits (v hi lo : Nat) : Nat := v / 2 ^ lo % 2 ^ (hi + 1 - lo)

/-- Bit `i` of a number. -/
def bit (v i : Nat) : Bool := v / 2 ^ i % 2 == 1

/-- `v` with bits [hi:lo] replaced by the low bits of `x`. -/
def setBits (v hi lo x : Nat) : Nat :=
  v / 2 ^ (hi + 1) * 2 ^ (hi + 1) + x % 2 ^ (hi + 1 - lo) * 2 ^ lo + v % 2 ^ lo

/-- `v` with bit `i` put to `b`. -/
def putBit (v i : Nat) (b : Bool) : Nat := setBits v i i (if b then 1 else 0)

/-- The number of bits set among the low `n`. -/
def popCount (v : Nat) : Nat → Nat
  | 0 => 0
  | n + 1 => (if bit v n then 1 else 0) + popCount v n

/-- Two's complement of width `w` (R569). -/
def ofInt (w : Nat) (i : Int) : Nat := (i % (2 ^ w : Nat)).toNat

def toInt (w v : Nat) : Int :=
  let x := v % 2 ^ w
  if 2 * x < 2 ^ w then (x : Int) else (x : Int) - (2 ^ w : Nat)

/-- Saturate to the signed range of width `w`. -/
def satInt (w : Nat) (i : Int) : Int :=
  max (-(2 ^ (w - 1) : Nat)) (min ((2 ^ (w - 1) : Nat) - 1) i)

/-- `n` bytes, least significant first. -/
def le (n v : Nat) : List Byte :=
  match n with
  | 0 => []
  | n + 1 => BitVec.ofNat 8 v :: le n (v / 256)

/-- A list field of an event's detail: the number of its entries, then the entries (R607). -/
def leList (n : Nat) (xs : List Nat) : List Byte := le 2 xs.length ++ xs.flatMap (le n)

/-- `n` bytes, most significant first (R91). -/
def be (n v : Nat) : List Byte := (le n v).reverse

def ofLE : List Byte → Nat
  | [] => 0
  | b :: bs => b.toNat + 256 * ofLE bs

def ofBE (bs : List Byte) : Nat := ofLE bs.reverse

/-- Bytes `i` to `i + n - 1` as a little-endian number. -/
def leAt (bs : List Byte) (i n : Nat) : Nat := ofLE ((bs.drop i).take n)

def beAt (bs : List Byte) (i n : Nat) : Nat := ofBE ((bs.drop i).take n)

/-- `bs` with the bytes from `i` replaced by `xs`. -/
def splice (bs : List Byte) (i : Nat) (xs : List Byte) : List Byte :=
  bs.take i ++ xs ++ bs.drop (i + xs.length)

/-- `bs` cut or padded with zeros to `n` bytes. -/
def fit (n : Nat) (bs : List Byte) : List Byte :=
  bs.take n ++ List.replicate (n - bs.length) 0#8

def zeros (n : Nat) : List Byte := List.replicate n 0#8

/-- One bit of CRC-8 with polynomial 0x2F, most significant bit first. -/
def crc8Step (c : Byte) : Byte := if c.msb then (c <<< 1) ^^^ 0x2F#8 else c <<< 1

def crc8Byte (c b : Byte) : Byte :=
  crc8Step (crc8Step (crc8Step (crc8Step (crc8Step (crc8Step (crc8Step (crc8Step (c ^^^ b))))))))

/-- HCRC (R94). -/
def hcrc (bs : List Byte) : Byte := bs.foldl crc8Byte 0xFF#8 ^^^ 0xFF#8

/-- One bit of the reflected CRC-32C (polynomial 0x1EDC6F41, reflected 0x82F63B78). -/
def crc32cStep (c : Word) : Word := if c.getLsbD 0 then (c >>> 1) ^^^ 0x82F63B78#32 else c >>> 1

def crc32cByte (c : Word) (b : Byte) : Word :=
  crc32cStep (crc32cStep (crc32cStep (crc32cStep (crc32cStep (crc32cStep (crc32cStep (crc32cStep
    (c ^^^ b.setWidth 32))))))))

/-- CRC-32C (R95). -/
def crc32c (bs : List Byte) : Word := bs.foldl crc32cByte 0xFFFFFFFF#32 ^^^ 0xFFFFFFFF#32

/-- A number from a function on 0 to n - 1, bit i set where it holds. -/
def maskOf (n : Nat) (f : Nat → Bool) : Nat :=
  match n with
  | 0 => 0
  | n + 1 => maskOf n f + (if f n then 2 ^ n else 0)

/-- Numbers 0 to n - 1 whose bit is set in `v`, lowest first. -/
def bitsSet (n v : Nat) : List Nat := (List.range n).filter (bit v ·)

end Sys2Proof.Machine

/-! ## The frame on the line (R93–R96) -/

namespace Sys2Proof

/-- Header bytes 0–10 (R93). -/
def Frame.header (f : Frame) : List Byte :=
  Machine.be 1 (f.type % 16 * 16 + (if f.up then 8 else 0) + (if f.fold then 4 else 0) + (if f.resp then 2 else 0)) ++
  Machine.be 1 f.hop ++ Machine.be 1 f.pos ++ Machine.be 2 f.payload.length ++ Machine.be 2 f.seq ++ Machine.be 2 f.epoch ++
  Machine.be 1 f.status ++ Machine.be 1 0

/-- HCRC over bytes 0–10 (R94), and the frame CRC over header bytes 0–11 and the payload (R95). -/
def Frame.hcrcOver (f : Frame) : Byte := Machine.hcrc f.header
def Frame.fcrcOver (f : Frame) : Word := Machine.crc32c (f.header ++ [f.hcrc] ++ f.payload)

def Frame.hcrcOk (f : Frame) : Bool := f.hcrc == f.hcrcOver
def Frame.fcrcOk (f : Frame) : Bool := f.fcrc == f.fcrcOver

/-- The frame with both checks right. -/
def Frame.seal (f : Frame) : Frame :=
  let g := { f with hcrc := f.hcrcOver }
  { g with fcrc := g.fcrcOver }

/-- `g`, as a slice that has received `f` sends it (R96): with a header or payload byte changed both checks are recomputed, and the
complement stands for one that was wrong in `f`. -/
def Frame.reseal (f g : Frame) : Frame :=
  if g.header == f.header && g.payload == f.payload then { g with hcrc := f.hcrc, fcrc := f.fcrc }
  else
    let g := { g with hcrc := if f.hcrcOk then g.hcrcOver else ~~~ g.hcrcOver }
    { g with fcrc := if f.fcrcOk then g.fcrcOver else ~~~ g.fcrcOver }

end Sys2Proof
end

