-- ==== Sys2Proof/Machine/Float32.lean ====
section
/-!
DEFINITION. Sys2Proof/Machine/Float32.lean: the binary32 arithmetic of R390. A result is worked out as an exact
fraction and rounded once, to nearest, ties to even; subnormal inputs and results become zeros of their sign.
The sticky flags are bits as in STAT (R391): 4 NV, 3 DZ, 2 OF, 1 UF, 0 NX.
-/

namespace Sys2Proof.Machine

/-- A binary32 operand after the flush of subnormals. A finite value is ± num / den. -/
inductive FVal where
  | nan
  | inf (neg : Bool)
  | fin (neg : Bool) (num den : Nat)
  deriving DecidableEq, Repr

structure FRes where
  val   : F32
  flags : Nat
  deriving DecidableEq, Repr

def f32Zero (neg : Bool) : F32 := if neg then 0x80000000#32 else 0#32

def f32Inf (neg : Bool) : F32 := if neg then 0xFF800000#32 else 0x7F800000#32

/-- A quiet NaN whose payload nothing states (log entry 5). -/
def f32Nan : F32 := 0x7FC00000#32 ||| Config.nanPayload.setWidth 32

/-- R390: "Subnormal inputs and results are flushed to zero with their sign kept." -/
def f32Val (x : F32) : FVal :=
  let neg := x.msb
  let e := bits x.toNat 30 23
  let f := bits x.toNat 22 0
  if e = 255 then (if f = 0 then .inf neg else .nan)
  else if e = 0 then .fin neg 0 1
  else if e < 150 then .fin neg (2 ^ 23 + f) (2 ^ (150 - e))
  else .fin neg ((2 ^ 23 + f) * 2 ^ (e - 150)) 1

/-- `num / den` rounded to the nearest integer, ties to even; and whether it was exact. -/
def roundDiv (num den : Nat) : Nat × Bool :=
  let q := num / den
  let r := num % den
  let up := den < 2 * r || (2 * r == den && q % 2 == 1)
  (if up then q + 1 else q, r == 0)

/-- ⌊log2 (num / den)⌋ for positive num and den. -/
def floorLog (num den : Nat) : Int :=
  let g : Int := (Nat.log2 num : Int) - (Nat.log2 den : Int)
  let below := if 0 ≤ g then num < den * 2 ^ g.toNat else num * 2 ^ (-g).toNat < den
  if below then g - 1 else g

/-- ± num / den as a binary32: overflow to infinity (OF, NX), a result below the normal range to zero (UF, NX). -/
def f32Round (neg : Bool) (num den : Nat) : FRes :=
  if num = 0 then ⟨f32Zero neg, 0⟩ else
  let e := floorLog num den
  let sh := 23 - e
  let (m, exact) := if 0 ≤ sh then roundDiv (num * 2 ^ sh.toNat) den else roundDiv num (den * 2 ^ (-sh).toNat)
  let (m, e) := if m = 2 ^ 24 then (2 ^ 23, e + 1) else (m, e)
  if 127 < e then ⟨f32Inf neg, 0b101⟩
  else if e < -126 then ⟨f32Zero neg, 0b011⟩
  else ⟨BitVec.ofNat 32 ((if neg then 2 ^ 31 else 0) + (e + 127).toNat * 2 ^ 23 + (m - 2 ^ 23)), if exact then 0 else 1⟩

def f32Invalid : FRes := ⟨f32Nan, 0b10000⟩

/-- The signed numerator of a sum over a common denominator, rounded; an exact zero sum is +0, but −0 of two −0. -/
def f32RoundSum (bothNeg : Bool) (n : Int) (den : Nat) : FRes :=
  if n = 0 then ⟨f32Zero bothNeg, 0⟩ else f32Round (decide (n < 0)) n.natAbs den

def signed (neg : Bool) (n : Nat) : Int := if neg then -(n : Int) else n

def f32Add (a b : F32) : FRes :=
  match f32Val a, f32Val b with
  | .nan, _ => ⟨f32Nan, 0⟩
  | _, .nan => ⟨f32Nan, 0⟩
  | .inf s, .inf t => if s = t then ⟨f32Inf s, 0⟩ else f32Invalid
  | .inf s, .fin _ _ _ => ⟨f32Inf s, 0⟩
  | .fin _ _ _, .inf t => ⟨f32Inf t, 0⟩
  | .fin s n d, .fin t m e => f32RoundSum (s && t) (signed s n * e + signed t m * d) (d * e)

/-- The sign turned; the bits of a subnormal become those of a zero. -/
def f32Neg (a : F32) : F32 :=
  match f32Val a with
  | .fin s 0 _ => f32Zero (!s)
  | _ => a ^^^ 0x80000000#32

def f32Abs (a : F32) : F32 :=
  match f32Val a with
  | .fin _ 0 _ => f32Zero false
  | _ => a &&& 0x7FFFFFFF#32

def f32Sub (a b : F32) : FRes :=
  match f32Val b with
  | .nan => ⟨f32Nan, 0⟩
  | _ => f32Add a (f32Neg b)

def f32Mul (a b : F32) : FRes :=
  match f32Val a, f32Val b with
  | .nan, _ => ⟨f32Nan, 0⟩
  | _, .nan => ⟨f32Nan, 0⟩
  | .inf s, .inf t => ⟨f32Inf (s != t), 0⟩
  | .inf s, .fin t m _ => if m = 0 then f32Invalid else ⟨f32Inf (s != t), 0⟩
  | .fin s n _, .inf t => if n = 0 then f32Invalid else ⟨f32Inf (s != t), 0⟩
  | .fin s n d, .fin t m e => f32Round (s != t) (n * m) (d * e)

/-- a × b + c with one rounding (R393, "fused, one rounding"). -/
def f32Fma (a b c : F32) : FRes :=
  match f32Val a, f32Val b, f32Val c with
  | .nan, _, _ => ⟨f32Nan, 0⟩
  | _, .nan, _ => ⟨f32Nan, 0⟩
  | _, _, .nan => ⟨f32Nan, 0⟩
  | .fin s n d, .fin t m e, .fin u k g =>
    f32RoundSum ((s != t) && u) (signed (s != t) (n * m) * g + signed u k * (d * e)) (d * e * g)
  | .fin s n _, .fin t m _, .inf u => let _ := (s, n, t, m); ⟨f32Inf u, 0⟩
  | x, y, z =>
    -- one factor is infinite
    let p := f32Mul a b
    match x, y, z with
    | .inf _, .fin _ 0 _, _ => f32Invalid
    | .fin _ 0 _, .inf _, _ => f32Invalid
    | _, _, .inf u => if p.val.msb = u then ⟨f32Inf u, 0⟩ else f32Invalid
    | _, _, _ => p

def f32Div (a b : F32) : FRes :=
  match f32Val a, f32Val b with
  | .nan, _ => ⟨f32Nan, 0⟩
  | _, .nan => ⟨f32Nan, 0⟩
  | .inf _, .inf _ => f32Invalid
  | .inf s, .fin t _ _ => ⟨f32Inf (s != t), 0⟩
  | .fin s _ _, .inf t => ⟨f32Zero (s != t), 0⟩
  | .fin s n d, .fin t m e =>
    if m = 0 then (if n = 0 then f32Invalid else ⟨f32Inf (s != t), 0b01000⟩)
    else f32Round (s != t) (n * e) (d * m)

/-- √a: the integer root of the scaled fraction, with the remainder folded into a last odd bit. -/
def f32Sqrt (a : F32) : FRes :=
  match f32Val a with
  | .nan => ⟨f32Nan, 0⟩
  | .inf s => if s then f32Invalid else ⟨f32Inf false, 0⟩
  | .fin s n d =>
    if n = 0 then ⟨f32Zero s, 0⟩
    else if s then f32Invalid
    else
      -- √(n/d) = √(n·d·4^60) / (d·2^60)
      let x := n * d * 4 ^ 60
      let r := Nat.sqrt x
      let exact := r * r == x
      f32Round false (2 * r + (if exact then 0 else 1)) (2 * d * 2 ^ 60)

/-- The order of two values that are not NaN, as a cross product. -/
def fvalLt : FVal → FVal → Bool
  | .inf s, .inf t => s && !t
  | .inf s, .fin _ _ _ => s
  | .fin _ _ _, .inf t => !t
  | .fin s n d, .fin t m e => decide (signed s n * e < signed t m * d)
  | _, _ => false

/-- a < b; false with a NaN. -/
def f32Lt (a b : F32) : Bool := fvalLt (f32Val a) (f32Val b)

/-- a = b as values; false with a NaN, true of two zeros. -/
def f32Eq (a b : F32) : Bool :=
  match f32Val a, f32Val b with
  | .nan, _ => false
  | _, .nan => false
  | x, y => !fvalLt x y && !fvalLt y x

def f32Le (a b : F32) : Bool := f32Lt a b || f32Eq a b

/-- VMIN and VMAX; what the spec does not state is open (log entry 5). -/
def f32MinMax (isMax : Bool) (a b : F32) : F32 :=
  if f32Lt a b then (if isMax then b else a)
  else if f32Lt b a then (if isMax then a else b)
  else if a = b then a
  else Config.minMaxOpen isMax a b

def f32Max (a b : F32) : F32 := f32MinMax true a b

def f32Min (a b : F32) : F32 := f32MinMax false a b

/-- A subnormal becomes a zero of its sign (R390). -/
def f32Flush (x : F32) : F32 := if bits x.toNat 30 23 == 0 then f32Zero x.msb else x

/-- An integer as a binary32, rounded. -/
def f32OfInt (i : Int) : FRes := f32Round (decide (i < 0)) i.natAbs 1

/-- n / d as a binary32, rounded. -/
def f32OfFrac (n : Int) (d : Nat) : F32 := (f32Round (decide (n < 0)) n.natAbs d).val

/-- The value rounded to the nearest integer, ties to even; none for a NaN or an infinity. -/
def f32ToInt? (x : F32) : Option (Int × Bool) :=
  match f32Val x with
  | .fin s n d => let (q, ex) := roundDiv n d; some (signed s q, ex)
  | _ => none

/-- VCVTF: nearest int32, saturating; a NaN gives 0 (R393). -/
def f32ToInt32 (x : F32) : FRes :=
  match f32Val x with
  | .nan => ⟨0#32, 0b10000⟩
  | .inf s => ⟨if s then 0x80000000#32 else 0x7FFFFFFF#32, 0b10000⟩
  | .fin s n d =>
    let (q, ex) := roundDiv n d
    let i := signed s q
    let j := satInt 32 i
    ⟨BitVec.ofInt 32 j, if i = j then (if ex then 0 else 1) else 0b10000⟩

/-- ⌊x⌋ of a finite value, 0 otherwise. -/
def f32Floor (x : F32) : Int :=
  match f32Val x with
  | .fin s n d => signed s n / (d : Int)
  | _ => 0

def f32IsFinite (x : F32) : Bool :=
  match f32Val x with
  | .fin _ _ _ => true
  | _ => false

/-- VCLASS (R393): 0 zero, 1 normal, 2 infinite, 3 NaN. -/
def f32Class (x : F32) : Nat :=
  match f32Val x with
  | .fin _ 0 _ => 0
  | .fin _ _ _ => 1
  | .inf _ => 2
  | .nan => 3

/-- Σ xⁱ/i! of i ≤ n for x = p / 2^q, as a numerator over 2^120, rounded down term by term. -/
def expSeries (p q : Nat) : Nat → Nat → Nat → Nat → Nat
  | 0, _, _, acc => acc
  | fuel + 1, i, term, acc =>
    expSeries p q fuel (i + 1) (term * p / (2 ^ q * i)) (acc + term)

/-- e^(num/den) for 0 ≤ num/den < 2, over 2^120. -/
def expSmall (num den : Nat) : Nat :=
  let x := num * 2 ^ 120 / den
  expSeries x 120 60 1 (2 ^ 120) 0

/-- e^|v| over 2^120, from e^(|v|/2^7) squared seven times. -/
def expAbs (num den : Nat) : Nat :=
  let s0 := expSmall num (den * 128)
  let sq := fun (y : Nat) => y * y / 2 ^ 120
  sq (sq (sq (sq (sq (sq (sq s0))))))

/-- VEXP: within 2 ulp of e^a for a from −87 to +88 (R393). The value chosen inside the bound is open; outside that
range nothing is stated (log entry 5). -/
def f32Exp (a : F32) : FRes :=
  match f32Val a with
  | .nan => ⟨f32Nan, 0⟩
  | .inf s => ⟨if s then 0#32 else f32Inf false, 0⟩
  | .fin s n d =>
    if n = 0 then ⟨0x3F800000#32, 0⟩
    else if (s && decide (87 * d < n)) || (!s && decide (88 * d < n)) then
      -- the flags are those of the free value
      let v := Config.expOutside a
      ⟨v, match f32Val v with
        | .nan => 0b10000
        | .inf _ => 0b101
        | .fin _ 0 _ => 0b011
        | .fin _ _ _ => 1⟩
    else
      let y := expAbs n d
      let near := if s then f32Round false (2 ^ 120) y else f32Round false y (2 ^ 120)
      -- −1, 0 or +1 from the nearest value is always within 2 ulp
      let delta := Config.expUlp a % 3
      ⟨near.val + BitVec.ofNat 32 delta - 1#32, 1⟩

end Sys2Proof.Machine
end

