-- ==== Sys2Proof/Machine/Map.lean ====
section
/-!
DEFINITION. Sys2Proof/Machine/Map.lean: sparse tables and memory as plain lists of key and value in one canonical
form: keys strictly rising and no entry equal to what an unlisted key reads as.
-/

namespace Sys2Proof.Machine

/-- A sparse table: keys and values. What an unlisted key reads as is the argument `d` of the operations below. -/
abbrev Map (α : Type) := List (Nat × α)

/-- The value at key `k`. -/
def Map.read {α : Type} (d : α) : Map α → Nat → α
  | [], _ => d
  | (k', v) :: m, k => if k' = k then v else Map.read d m k

/-- Put `v` at key `k` in key order, replacing what is there. -/
def Map.insert {α : Type} (k : Nat) (v : α) : Map α → Map α
  | [] => [(k, v)]
  | (k', v') :: m =>
    if k' = k then (k, v) :: m
    else if k < k' then (k, v) :: (k', v') :: m
    else (k', v') :: Map.insert k v m

/-- Take every entry of key `k` away. -/
def Map.erase {α : Type} (k : Nat) : Map α → Map α
  | [] => []
  | (k', v') :: m => if k' = k then Map.erase k m else (k', v') :: Map.erase k m

/-- Write `v` at key `k`; writing the default takes the entry away. -/
def Map.write {α : Type} [DecidableEq α] (d : α) (m : Map α) (k : Nat) (v : α) : Map α :=
  if v = d then Map.erase k m else Map.insert k v m

/-- Every listed value through `f`, in the canonical form. -/
def Map.each {α : Type} [DecidableEq α] (d : α) (f : α → α) (m : Map α) : Map α :=
  m.foldl (fun a x => Map.write d a x.1 (f x.2)) []

/-- The keys of `m` are above `lo` and strictly rising, and no value is the default. -/
def Map.wfAbove {α : Type} [DecidableEq α] (d : α) : Option Nat → Map α → Bool
  | _, [] => true
  | lo, (k, v) :: m =>
    (match lo with | none => true | some l => decide (l < k)) && decide (v ≠ d) && Map.wfAbove d (some k) m

/-- The canonical form. -/
def Map.wf {α : Type} [DecidableEq α] (d : α) (m : Map α) : Bool := Map.wfAbove d none m

/-- Insertion into a list sorted by `le`, and sorting. -/
def insertBy {α : Type} (le : α → α → Bool) (x : α) : List α → List α
  | [] => [x]
  | y :: ys => if le x y then x :: y :: ys else y :: insertBy le x ys

def sortBy {α : Type} (le : α → α → Bool) (xs : List α) : List α := xs.foldr (insertBy le) []

/-- Merge values into a table. -/
def mergeInto {α : Type} (m : Map α) (xs : Map α) : Map α := xs.foldl (fun m x => Map.insert x.1 x.2 m) m

/-- Memory: addresses and bytes (Host.Cell); an unlisted byte reads as 0x00 (log entry 3). -/
abbrev Memory := Map (BitVec 8)

/-- The canonical form of a memory. -/
def Memory.wf (m : Memory) : Bool := Map.wf 0#8 m

def Memory.byte (m : Memory) (a : Nat) : BitVec 8 := Map.read 0#8 m a

def Memory.setByte (m : Memory) (a : Nat) (b : BitVec 8) : Memory := Map.write 0#8 m a b

/-- Store bytes at rising addresses. -/
def Memory.store (m : Memory) (a : Nat) : List (BitVec 8) → Memory
  | [] => m
  | b :: bs => Memory.store (Memory.setByte m a b) (a + 1) bs

/-- The `n` bytes from address `a`. -/
def Memory.load (m : Memory) (a : Nat) : Nat → List (BitVec 8)
  | 0 => []
  | n + 1 => Memory.byte m a :: Memory.load m (a + 1) n

end Sys2Proof.Machine
end

