-- ==== Sys2Proof/Machine/Catalogue.lean ====
section
/-!
DEFINITION. Sys2Proof/Machine/Catalogue.lean: the object dictionary as the entries of the chapters' object tables
(R566–R571): index pattern, subindices, type, access, group, default and the range or code list of the unit column.
-/

namespace Sys2Proof.Machine

/-- Types of R569; sizes in bytes, domains with their least and greatest length. -/
inductive Ty where
  | u (n : Nat) | i (n : Nat) | r32 | str (n : Nat) | record (n : Nat) | dom (lo hi : Nat)
  deriving DecidableEq, Repr

/-- Access codes of R8; `w1c` is "RO, W1C". -/
inductive Acc where
  | ro | w1c | rws | rw | wo
  deriving DecidableEq, Repr

/-- A default column: one value, one value per subindex, a value of manufacture, the action of R222, the row of R608. -/
inductive Dflt where
  | c (v : Nat) | per (vs : List Nat) | factory | action | row
  deriving DecidableEq, Repr

/-- One row of an object table: indices base, base + stride, … (`count` of them), subindices sub, … (`n` of them). -/
structure Entry where
  base   : Nat
  count  : Nat
  stride : Nat
  sub    : Nat
  n      : Nat
  ty     : Ty
  acc    : Acc
  /-- group number of R543; 9 none, 10 each named group -/
  grp    : Nat
  dflt   : Dflt
  /-- intervals of the range or code list; empty where the unit column gives none -/
  ok     : List (Int × Int)
  /-- kept through a restart of the compute die -/
  keep   : Bool
  deriving DecidableEq, Repr

/-- Objects of the tables of chapter 01. -/
def rowsArchitecture : List Entry := [
  ⟨0x2000, 1, 1, 0x01, 1, .u 1, .ro, 9, .c 1, [], false⟩,
  ⟨0x2000, 1, 1, 0x02, 1, .u 1, .rws, 3, .c 0, [(0, 0), (3, 4), (6, 6)], true⟩,
  ⟨0x2000, 1, 1, 0x03, 1, .u 2, .ro, 9, .c 0, [], false⟩,
  ⟨0x2000, 1, 1, 0x04, 1, .u 1, .rws, 3, .c 0, [(0, 1)], true⟩,
  ⟨0x2000, 1, 1, 0x05, 1, .u 2, .rws, 5, .c 1000, [], true⟩,
  ⟨0x2000, 1, 1, 0x06, 1, .u 2, .rws, 2, .c 500, [], true⟩,
  ⟨0x6010, 1, 1, 0x01, 1, .u 1, .w1c, 9, .c 0, [], false⟩,
  ⟨0x6010, 1, 1, 0x02, 1, .u 4, .ro, 9, .c 0, [], false⟩]

/-- Objects of the tables of chapter 02. -/
def rowsScheduler : List Entry := [
  ⟨0x2100, 1, 1, 0x01, 1, .u 1, .rws, 5, .c 1, [(1, 2), (4, 4)], true⟩,
  ⟨0x2100, 1, 1, 0x02, 1, .u 1, .rws, 1, .c 85, [(50, 85)], true⟩,
  ⟨0x2100, 1, 1, 0x03, 1, .u 1, .ro, 9, .c 0, [], false⟩,
  ⟨0x2100, 1, 1, 0x04, 1, .u 1, .ro, 9, .c 1, [], false⟩,
  ⟨0x2100, 1, 1, 0x05, 1, .u 2, .w1c, 9, .c 0, [], false⟩,
  ⟨0x2100, 1, 1, 0x06, 1, .u 4, .ro, 9, .c 0, [], false⟩,
  ⟨0x2100, 1, 1, 0x07, 1, .u 1, .rws, 2, .c 1, [(1, 4)], true⟩,
  ⟨0x2100, 1, 1, 0x08, 1, .u 2, .rws, 1, .c 1000, [], true⟩,
  ⟨0x2100, 1, 1, 0x09, 1, .u 8, .ro, 9, .c 0, [], false⟩,
  ⟨0x2100, 1, 1, 0x0A, 1, .u 8, .ro, 9, .c 0, [], false⟩,
  ⟨0x2100, 1, 1, 0x0B, 1, .u 4, .rws, 2, .c 0x15180, [], true⟩,
  ⟨0x2120, 16, 1, 0x01, 4, .u 4, .ro, 9, .c 0, [], false⟩,
  ⟨0x2120, 16, 1, 0x05, 4, .u 4, .ro, 9, .c 0, [], false⟩,
  ⟨0x2120, 16, 1, 0x09, 4, .u 1, .ro, 9, .per [0, 16, 32, 48], [], false⟩,
  ⟨0x2120, 16, 1, 0x0D, 4, .u 2, .ro, 9, .c 0, [], false⟩,
  ⟨0x2120, 16, 1, 0x11, 1, .u 1, .ro, 9, .c 1, [], false⟩,
  ⟨0x2120, 16, 1, 0x12, 1, .u 1, .ro, 9, .c 1, [], false⟩,
  ⟨0x2120, 16, 1, 0x13, 1, .u 1, .ro, 9, .c 0, [], false⟩,
  ⟨0x2120, 16, 1, 0x14, 1, .u 1, .ro, 9, .c 0, [], false⟩,
  ⟨0x2120, 16, 1, 0x15, 1, .u 8, .ro, 9, .c 0, [], false⟩]

/-- Objects of the tables of chapter 03. -/
def rowsRingLink : List Entry := [
  ⟨0x3000, 16, 1, 0x01, 1, .u 1, .w1c, 9, .c 0, [], false⟩,
  ⟨0x3000, 16, 1, 0x02, 1, .u 1, .ro, 9, .c 0, [], false⟩,
  ⟨0x3000, 16, 1, 0x03, 1, .u 4, .ro, 9, .c 0, [], false⟩,
  ⟨0x3000, 16, 1, 0x04, 1, .u 4, .ro, 9, .c 0, [], false⟩,
  ⟨0x3000, 16, 1, 0x05, 1, .u 4, .ro, 9, .c 0, [], false⟩,
  ⟨0x3000, 16, 1, 0x06, 1, .u 4, .ro, 9, .c 0, [], false⟩,
  ⟨0x3000, 16, 1, 0x07, 1, .u 4, .ro, 9, .c 0, [], false⟩,
  ⟨0x3000, 16, 1, 0x08, 1, .u 4, .ro, 9, .c 0, [], false⟩,
  ⟨0x3000, 16, 1, 0x09, 1, .u 1, .rws, 2, .c 2, [(1, 16)], true⟩,
  ⟨0x3000, 16, 1, 0x0A, 1, .u 4, .ro, 9, .c 0, [], false⟩]

/-- Objects of the tables of chapter 04. -/
def rowsPopulation : List Entry := [
  ⟨0x3100, 16, 16, 0x01, 64, .u 8, .ro, 9, .c 0, [], false⟩,
  ⟨0x3101, 16, 16, 0x01, 64, .u 2, .ro, 9, .c 0, [], false⟩,
  ⟨0x3102, 16, 16, 0x01, 64, .u 2, .ro, 9, .c 0, [], false⟩,
  ⟨0x3103, 16, 16, 0x01, 64, .u 4, .ro, 9, .c 0, [], false⟩,
  ⟨0x3104, 16, 16, 0x01, 64, .u 4, .ro, 9, .c 0, [], false⟩,
  ⟨0x3105, 16, 16, 0x01, 64, .u 2, .ro, 9, .c 0, [], false⟩,
  ⟨0x3106, 16, 16, 0x01, 64, .u 1, .ro, 9, .c 255, [], false⟩,
  ⟨0x3107, 16, 16, 0x01, 1, .u 1, .ro, 9, .c 0, [], false⟩,
  ⟨0x3107, 16, 16, 0x02, 1, .u 1, .ro, 9, .c 0, [], false⟩,
  ⟨0x3107, 16, 16, 0x03, 1, .u 1, .rws, 2, .c 0, [], true⟩,
  ⟨0x3107, 16, 16, 0x04, 1, .u 1, .ro, 9, .c 255, [], false⟩,
  ⟨0x3107, 16, 16, 0x05, 1, .u 1, .ro, 9, .c 255, [], false⟩,
  ⟨0x3107, 16, 16, 0x06, 1, .u 1, .ro, 9, .c 0, [], false⟩,
  ⟨0x3107, 16, 16, 0x07, 1, .u 4, .ro, 9, .c 0, [], false⟩,
  ⟨0x3107, 16, 16, 0x08, 1, .u 1, .ro, 9, .c 0, [], false⟩,
  ⟨0x3107, 16, 16, 0x09, 1, .u 8, .ro, 9, .c 0, [], false⟩,
  ⟨0x3107, 16, 16, 0x0A, 1, .u 8, .ro, 9, .c 0, [], false⟩,
  ⟨0x3107, 16, 16, 0x0B, 1, .u 2, .rws, 2, .c 1000, [(16, 65535)], true⟩,
  ⟨0x3107, 16, 16, 0x0C, 1, .u 2, .rws, 2, .c 100, [(16, 65535)], true⟩,
  ⟨0x3107, 16, 16, 0x0D, 1, .u 1, .rws, 2, .c 16, [(2, 255)], true⟩,
  ⟨0x3107, 16, 16, 0x0E, 1, .u 1, .rws, 2, .c 0, [(1, 1)], true⟩,
  ⟨0x3107, 16, 16, 0x0F, 1, .u 2, .ro, 9, .c 0, [], false⟩]

/-- Objects of the tables of chapter 05. -/
def rowsMeasurement : List Entry := [
  ⟨0x3010, 16, 1, 0x01, 1, .u 1, .rws, 2, .c 1, [(0, 3)], true⟩,
  ⟨0x3010, 16, 1, 0x02, 1, .u 1, .rws, 2, .c 1, [(0, 3)], true⟩,
  ⟨0x3010, 16, 1, 0x03, 1, .u 1, .rws, 2, .c 1, [(1, 16)], true⟩,
  ⟨0x3010, 16, 1, 0x04, 1, .u 1, .rws, 2, .c 1, [(1, 16)], true⟩,
  ⟨0x3010, 16, 1, 0x05, 16, .u 2, .rws, 2, .c 0, [], true⟩,
  ⟨0x3010, 16, 1, 0x15, 16, .u 2, .rws, 2, .c 0, [], true⟩,
  ⟨0x3010, 16, 1, 0x25, 1, .u 4, .rws, 2, .c 3600, [], true⟩,
  ⟨0x3010, 16, 1, 0x26, 1, .u 2, .rws, 1, .c 200, [], true⟩,
  ⟨0x3010, 16, 1, 0x27, 1, .u 2, .rws, 1, .c 500, [], true⟩,
  ⟨0x3010, 16, 1, 0x28, 1, .u 2, .rws, 1, .c 100, [], true⟩,
  ⟨0x3010, 16, 1, 0x29, 1, .u 1, .rws, 1, .c 3, [(1, 64)], true⟩,
  ⟨0x3010, 16, 1, 0x41, 64, .u 2, .rws, 2, .c 0, [], true⟩,
  ⟨0x3020, 16, 1, 0x01, 64, .u 8, .ro, 9, .c 0, [], false⟩,
  ⟨0x3300, 1, 1, 0x01, 2, .i 4, .ro, 9, .c 0, [], false⟩,
  ⟨0x3300, 1, 1, 0x03, 2, .i 4, .ro, 9, .c 0, [], false⟩,
  ⟨0x3300, 1, 1, 0x05, 4, .i 4, .ro, 9, .c 0, [], false⟩,
  ⟨0x3300, 1, 1, 0x09, 1, .i 4, .ro, 9, .c 0, [], false⟩,
  ⟨0x3300, 1, 1, 0x0A, 1, .i 4, .ro, 9, .c 0, [], false⟩,
  ⟨0x3300, 1, 1, 0x0B, 2, .u 4, .rws, 0, .c 0, [], true⟩,
  ⟨0x3300, 1, 1, 0x0D, 2, .i 2, .rws, 0, .c 0, [], true⟩,
  ⟨0x3300, 1, 1, 0x0F, 2, .u 1, .rws, 0, .c 255, [(0, 7), (255, 255)], true⟩,
  ⟨0x3300, 1, 1, 0x11, 2, .r32, .rws, 0, .c 0, [], true⟩,
  ⟨0x3300, 1, 1, 0x13, 2, .i 4, .rws, 0, .c 0, [], true⟩,
  ⟨0x3300, 1, 1, 0x15, 1, .u 1, .rws, 1, .c 32, [(0, 3), (16, 19), (32, 35), (48, 51)], true⟩,
  ⟨0x3300, 1, 1, 0x16, 1, .u 2, .rws, 1, .c 200, [], true⟩,
  ⟨0x3300, 1, 1, 0x17, 1, .u 4, .rws, 1, .c 2000, [], true⟩,
  ⟨0x3300, 1, 1, 0x18, 8, .i 4, .ro, 9, .c 0, [], false⟩,
  ⟨0x3300, 1, 1, 0x20, 8, .u 4, .rws, 0, .c 0xF4240, [], true⟩,
  ⟨0x3300, 1, 1, 0x30, 2, .u 4, .ro, 9, .c 0xFFFFFFFE, [], false⟩,
  ⟨0x3300, 1, 1, 0x32, 2, .u 4, .rws, 0, .c 500, [], true⟩,
  ⟨0x3300, 1, 1, 0x34, 2, .u 4, .rws, 0, .c 100, [], true⟩,
  ⟨0x3300, 1, 1, 0x36, 1, .u 1, .rws, 0, .c 4, [(2, 20)], true⟩,
  ⟨0x3300, 1, 1, 0x37, 1, .u 1, .rws, 0, .c 0, [(0, 1)], true⟩,
  ⟨0x3300, 1, 1, 0x38, 8, .i 2, .ro, 9, .c 0x8000, [], false⟩,
  ⟨0x3300, 1, 1, 0x40, 8, .u 4, .rws, 1, .c 0x2710, [], true⟩,
  ⟨0x3300, 1, 1, 0x48, 8, .u 2, .rws, 1, .c 3435, [], true⟩,
  ⟨0x3300, 1, 1, 0x50, 1, .u 1, .rws, 1, .c 1, [(0, 3)], true⟩,
  ⟨0x3300, 1, 1, 0x51, 1, .u 1, .rws, 1, .c 1, [(1, 16)], true⟩,
  ⟨0x3300, 1, 1, 0x52, 16, .u 2, .rws, 1, .c 0, [], true⟩,
  ⟨0x3300, 1, 1, 0x62, 1, .u 1, .rws, 1, .c 0, [(0, 15)], true⟩,
  ⟨0x3300, 1, 1, 0x63, 1, .u 4, .w1c, 9, .c 0, [], false⟩]

/-- Objects of the tables of chapter 06. -/
def rowsProtection : List Entry := [
  ⟨0x2300, 1, 1, 0x01, 1, .u 4, .ro, 9, .c 0, [], true⟩,
  ⟨0x2300, 1, 1, 0x02, 1, .u 4, .ro, 9, .c 0, [], true⟩,
  ⟨0x2300, 1, 1, 0x03, 1, .u 2, .rws, 0, .c 0, [], true⟩,
  ⟨0x2300, 1, 1, 0x04, 1, .u 8, .ro, 9, .c 0, [], true⟩,
  ⟨0x2300, 1, 1, 0x05, 1, .u 8, .ro, 9, .c 0, [], true⟩,
  ⟨0x2300, 1, 1, 0x06, 1, .u 8, .rws, 0, .c 0, [(0, 281474976710655)], true⟩,
  ⟨0x2300, 1, 1, 0x07, 1, .u 1, .rw, 9, .c 0, [(1, 1)], true⟩,
  ⟨0x2300, 1, 1, 0x08, 1, .u 1, .rws, 0, .c 2, [(0, 100)], true⟩,
  ⟨0x2300, 1, 1, 0x09, 1, .u 1, .rws, 0, .c 10, [(1, 100)], true⟩,
  ⟨0x2300, 1, 1, 0x0A, 1, .u 2, .rws, 0, .c 100, [(10, 1000)], true⟩,
  ⟨0x2300, 1, 1, 0x0B, 1, .u 2, .w1c, 9, .c 0, [], true⟩,
  ⟨0x2300, 1, 1, 0x0C, 1, .u 4, .ro, 9, .c 0, [], true⟩,
  ⟨0x2301, 1, 1, 0x01, 48, .u 8, .rws, 0, .action, [], true⟩,
  ⟨0x2302, 1, 1, 0x01, 48, .u 8, .ro, 9, .action, [], false⟩,
  ⟨0x2303, 1, 1, 0x01, 48, .u 4, .ro, 9, .c 0, [], false⟩,
  ⟨0x2304, 1, 1, 0x01, 8, .i 4, .rws, 0, .per [60000, 4294907296, 60000, 4294907296, 3600000, 4291367296, 3600000, 4291367296], [], true⟩,
  ⟨0x2304, 1, 1, 0x09, 8, .i 4, .rws, 0, .c 0xFFECED30, [], true⟩,
  ⟨0x2304, 1, 1, 0x11, 8, .i 4, .rws, 0, .c 0x1312D0, [], true⟩,
  ⟨0x2320, 16, 1, 0x01, 1, .u 2, .rws, 0, .c 0xAFC8, [], true⟩,
  ⟨0x2320, 16, 1, 0x02, 1, .u 2, .rws, 0, .c 0x2710, [], true⟩,
  ⟨0x2320, 16, 1, 0x03, 1, .u 1, .rws, 0, .c 10, [(1, 100)], true⟩,
  ⟨0x2320, 16, 1, 0x04, 1, .u 1, .rws, 0, .c 20, [(1, 100)], true⟩,
  ⟨0x2320, 16, 1, 0x05, 1, .u 2, .rws, 0, .c 20, [(1, 1000), (65535, 65535)], true⟩]

/-- Objects of the tables of chapter 07. -/
def rowsEstimation : List Entry := [
  ⟨0x4400, 1024, 1, 0x01, 16, .record 128, .ro, 9, .c 0, [], false⟩,
  ⟨0x4400, 1024, 1, 0x15, 1, .u 2, .ro, 9, .c 0, [], false⟩,
  ⟨0x4400, 1024, 1, 0x21, 16, .u 2, .ro, 9, .c 0, [], false⟩,
  ⟨0x4400, 1024, 1, 0x31, 16, .u 2, .ro, 9, .c 0, [], false⟩,
  ⟨0x4400, 1024, 1, 0x41, 16, .u 2, .ro, 9, .c 0, [], false⟩,
  ⟨0x2800, 1, 1, 0x01, 1, .u 2, .w1c, 9, .c 0, [], false⟩,
  ⟨0x2800, 1, 1, 0x02, 1, .u 1, .rws, 1, .c 0, [(0, 3)], true⟩,
  ⟨0x2800, 1, 1, 0x03, 1, .u 1, .ro, 9, .c 0, [], false⟩,
  ⟨0x2800, 1, 1, 0x04, 1, .u 2, .rws, 1, .c 500, [], true⟩,
  ⟨0x2800, 1, 1, 0x05, 1, .u 2, .rws, 1, .c 300, [(10, 65535)], true⟩,
  ⟨0x2800, 1, 1, 0x06, 1, .u 4, .rws, 1, .c 3600, [(60, 864000)], true⟩,
  ⟨0x2800, 1, 1, 0x07, 1, .u 4, .rws, 1, .c 0x1388, [], true⟩,
  ⟨0x2800, 1, 1, 0x08, 1, .u 2, .rws, 1, .c 50, [(10, 1000)], true⟩,
  ⟨0x2800, 1, 1, 0x09, 1, .u 1, .rws, 1, .c 4, [(0, 8)], true⟩,
  ⟨0x2800, 1, 1, 0x0B, 1, .u 4, .rws, 1, .c 0xFFAA5500, [], true⟩,
  ⟨0x2800, 1, 1, 0x0C, 1, .u 4, .rws, 1, .c 0, [], true⟩,
  ⟨0x2800, 1, 1, 0x10, 1, .u 2, .ro, 9, .c 0, [], false⟩,
  ⟨0x2800, 1, 1, 0x11, 1, .u 2, .ro, 9, .c 0, [], false⟩,
  ⟨0x2800, 1, 1, 0x12, 1, .u 8, .ro, 9, .c 0, [], false⟩,
  ⟨0x2800, 1, 1, 0x13, 1, .u 8, .ro, 9, .c 0, [], false⟩,
  ⟨0x2800, 1, 1, 0x14, 1, .u 1, .ro, 9, .c 0, [], false⟩,
  ⟨0x2800, 1, 1, 0x15, 1, .u 4, .ro, 9, .c 0, [], false⟩,
  ⟨0x2810, 8, 1, 0x01, 1, .u 1, .rws, 1, .c 1, [(1, 4), (128, 255)], true⟩,
  ⟨0x2810, 8, 1, 0x02, 1, .u 4, .rws, 1, .c 0, [], true⟩,
  ⟨0x2810, 8, 1, 0x03, 1, .u 2, .rws, 1, .c 500, [], true⟩,
  ⟨0x2810, 8, 1, 0x04, 1, .u 2, .rws, 1, .c 0x251C, [], true⟩,
  ⟨0x2810, 8, 1, 0x05, 1, .u 2, .rws, 1, .c 0x2710, [], true⟩,
  ⟨0x2810, 8, 1, 0x06, 1, .dom 16 16, .rws, 1, .c 0, [], true⟩,
  ⟨0x2810, 8, 1, 0x07, 1, .dom 3216 3216, .rws, 1, .c 0, [], true⟩,
  ⟨0x2810, 8, 1, 0x08, 1, .dom 4032 4032, .rws, 1, .c 0, [], true⟩,
  ⟨0x2810, 8, 1, 0x09, 1, .r32, .rws, 1, .c 0x42480000, [], true⟩,
  ⟨0x2810, 8, 1, 0x0A, 1, .dom 16 16, .rws, 1, .c 0, [], true⟩,
  ⟨0x2810, 8, 1, 0x0B, 1, .u 2, .rws, 1, .c 1000, [], true⟩,
  ⟨0x2810, 8, 1, 0x0C, 1, .u 2, .rws, 1, .c 1000, [], true⟩,
  ⟨0x2810, 8, 1, 0x0D, 1, .u 2, .rws, 1, .c 0, [], true⟩,
  ⟨0x2810, 8, 1, 0x0E, 1, .u 2, .rws, 1, .c 0xFFFF, [], true⟩,
  ⟨0x2810, 8, 1, 0x0F, 1, .u 2, .rws, 1, .c 0, [], true⟩,
  ⟨0x2810, 8, 1, 0x10, 1, .u 2, .rws, 1, .c 0xFFFF, [], true⟩,
  ⟨0x2810, 8, 1, 0x11, 1, .u 4, .ro, 9, .c 0, [], false⟩,
  ⟨0x2840, 32, 1, 0x01, 1, .u 1, .rws, 1, .c 0, [(0, 7)], true⟩,
  ⟨0x2840, 32, 1, 0x02, 1, .i 4, .ro, 9, .c 0, [], false⟩,
  ⟨0x2840, 32, 1, 0x03, 1, .i 8, .ro, 9, .c 0, [], false⟩,
  ⟨0x2840, 32, 1, 0x04, 1, .i 8, .ro, 9, .c 0, [], false⟩,
  ⟨0x2840, 32, 1, 0x05, 1, .i 4, .ro, 9, .c 0, [], false⟩,
  ⟨0x2840, 32, 1, 0x06, 1, .u 2, .ro, 9, .c 0, [], false⟩,
  ⟨0x2840, 32, 1, 0x07, 1, .u 2, .ro, 9, .c 0, [], false⟩,
  ⟨0x2840, 32, 1, 0x08, 1, .u 2, .ro, 9, .c 0, [], false⟩,
  ⟨0x2840, 32, 1, 0x09, 1, .u 2, .ro, 9, .c 0, [], false⟩,
  ⟨0x2840, 32, 1, 0x0A, 1, .u 2, .ro, 9, .c 0, [], false⟩,
  ⟨0x2840, 32, 1, 0x0B, 1, .u 2, .ro, 9, .c 0, [], false⟩,
  ⟨0x2840, 32, 1, 0x0C, 1, .u 4, .ro, 9, .c 0, [], false⟩,
  ⟨0x2840, 32, 1, 0x0D, 1, .u 4, .ro, 9, .c 0, [], false⟩,
  ⟨0x2840, 32, 1, 0x0E, 1, .u 2, .ro, 9, .c 0, [], false⟩]

/-- Objects of the tables of chapter 08. -/
def rowsLearning : List Entry := [
  ⟨0x2900, 1, 1, 0x01, 1, .u 2, .w1c, 9, .c 0, [], false⟩,
  ⟨0x2900, 1, 1, 0x02, 1, .u 2, .rws, 1, .c 10, [], true⟩,
  ⟨0x2900, 1, 1, 0x03, 1, .u 2, .rws, 1, .c 1800, [(600, 14400)], true⟩,
  ⟨0x2900, 1, 1, 0x04, 1, .u 2, .rws, 1, .c 300, [(60, 1800)], true⟩,
  ⟨0x2900, 1, 1, 0x05, 1, .u 2, .rws, 1, .c 5, [], true⟩,
  ⟨0x2900, 1, 1, 0x06, 1, .u 2, .rws, 1, .c 200, [], true⟩,
  ⟨0x2900, 1, 1, 0x07, 1, .u 2, .rws, 1, .c 4000, [], true⟩,
  ⟨0x2900, 1, 1, 0x08, 1, .u 2, .rws, 1, .c 200, [], true⟩,
  ⟨0x2900, 1, 1, 0x09, 1, .u 2, .rws, 1, .c 21, [], true⟩,
  ⟨0x2900, 1, 1, 0x0A, 1, .u 2, .rws, 1, .c 7, [], true⟩,
  ⟨0x2900, 1, 1, 0x0B, 1, .u 2, .rws, 1, .c 30, [], true⟩,
  ⟨0x2900, 1, 1, 0x0C, 1, .u 2, .rws, 1, .c 1500, [], true⟩,
  ⟨0x2900, 1, 1, 0x0D, 1, .u 2, .rws, 1, .c 0x1388, [], true⟩,
  ⟨0x2900, 1, 1, 0x0E, 1, .u 2, .rws, 1, .c 0x2EE0, [], true⟩,
  ⟨0x2900, 1, 1, 0x0F, 1, .u 2, .rws, 1, .c 100, [], true⟩,
  ⟨0x2900, 1, 1, 0x10, 1, .u 2, .rws, 1, .c 20, [], true⟩,
  ⟨0x2900, 1, 1, 0x11, 1, .u 1, .rws, 1, .c 230, [], true⟩,
  ⟨0x2900, 1, 1, 0x12, 1, .u 2, .rws, 1, .c 1000, [(1, 65535)], true⟩,
  ⟨0x2900, 1, 1, 0x13, 1, .u 4, .rws, 1, .c 1000, [], true⟩,
  ⟨0x2900, 1, 1, 0x14, 1, .u 2, .rws, 1, .c 0x1B58, [], true⟩,
  ⟨0x2900, 1, 1, 0x15, 1, .u 2, .rws, 1, .c 2000, [], true⟩,
  ⟨0x2900, 1, 1, 0x20, 1, .dom 64 64, .rws, 2, .c 0, [], true⟩,
  ⟨0x2900, 1, 1, 0x21, 4, .dom 120 120, .rws, 2, .c 0, [], true⟩,
  ⟨0x2900, 1, 1, 0x25, 1, .dom 0 512, .rws, 2, .c 0, [], true⟩,
  ⟨0x2920, 32, 1, 0x01, 1, .u 1, .ro, 9, .c 0, [], false⟩,
  ⟨0x2920, 32, 1, 0x02, 1, .u 4, .ro, 9, .c 0, [], false⟩,
  ⟨0x2920, 32, 1, 0x03, 1, .u 2, .ro, 9, .c 0, [], true⟩,
  ⟨0x2920, 32, 1, 0x04, 1, .u 4, .ro, 9, .c 0, [], true⟩,
  ⟨0x2920, 32, 1, 0x05, 1, .u 2, .ro, 9, .c 0, [], true⟩,
  ⟨0x2920, 32, 1, 0x06, 1, .u 1, .ro, 9, .c 0, [], false⟩,
  ⟨0x2920, 32, 1, 0x07, 1, .u 2, .ro, 9, .c 0, [], false⟩,
  ⟨0x2920, 32, 1, 0x08, 1, .u 4, .ro, 9, .c 0, [], false⟩,
  ⟨0x2920, 32, 1, 0x09, 1, .u 2, .ro, 9, .c 0, [], false⟩,
  ⟨0x2920, 32, 1, 0x0A, 1, .u 2, .ro, 9, .c 0, [], false⟩,
  ⟨0x2920, 32, 1, 0x0B, 1, .u 1, .rws, 1, .c 0, [(1, 1)], true⟩,
  ⟨0x2920, 32, 1, 0x0C, 1, .u 1, .ro, 9, .c 0, [], true⟩,
  ⟨0x2920, 32, 1, 0x0D, 1, .u 4, .ro, 9, .c 0, [], false⟩,
  ⟨0x2920, 32, 1, 0x0E, 1, .u 4, .ro, 9, .c 0, [], false⟩,
  ⟨0x2920, 32, 1, 0x0F, 1, .u 8, .ro, 9, .c 0, [], false⟩,
  ⟨0x2920, 32, 1, 0x10, 1, .u 8, .ro, 9, .c 0, [], false⟩,
  ⟨0x2920, 32, 1, 0x11, 1, .i 8, .ro, 9, .c 0, [], false⟩,
  ⟨0x2920, 32, 1, 0x12, 1, .i 2, .rws, 1, .c 0, [], true⟩,
  ⟨0x2920, 32, 1, 0x13, 1, .dom 32 32, .rws, 1, .c 0, [], true⟩,
  ⟨0x2920, 32, 1, 0x14, 1, .dom 384 384, .ro, 9, .c 0, [], true⟩,
  ⟨0x2960, 16, 1, 0x01, 1, .u 1, .rws, 2, .c 0, [(0, 3)], true⟩,
  ⟨0x2960, 16, 1, 0x02, 1, .u 1, .rws, 2, .c 0, [(0, 1)], true⟩,
  ⟨0x2960, 16, 1, 0x03, 1, .u 2, .rws, 2, .c 50, [], true⟩,
  ⟨0x2960, 16, 1, 0x04, 1, .u 4, .rws, 2, .c 0x15180, [], true⟩,
  ⟨0x2960, 16, 1, 0x41, 64, .u 1, .ro, 9, .c 0, [], false⟩,
  ⟨0x4800, 1024, 1, 0x01, 16, .record 1024, .ro, 9, .c 0, [], false⟩,
  ⟨0x4800, 1024, 1, 0x21, 16, .u 4, .ro, 9, .c 0, [], false⟩,
  ⟨0x4800, 1024, 1, 0x31, 16, .u 2, .ro, 9, .c 0x2710, [], false⟩,
  ⟨0x4800, 1024, 1, 0x41, 16, .u 2, .ro, 9, .c 1000, [], false⟩,
  ⟨0x4800, 1024, 1, 0x51, 16, .u 2, .ro, 9, .c 0, [], false⟩,
  ⟨0x4800, 1024, 1, 0x61, 16, .u 4, .ro, 9, .c 0xFFFFFFFF, [], false⟩]

/-- Objects of the tables of chapter 09. -/
def rowsLimits : List Entry := [
  ⟨0x2600, 1, 1, 0x01, 4, .u 4, .ro, 9, .c 0, [], false⟩,
  ⟨0x2600, 1, 1, 0x05, 4, .u 4, .ro, 9, .c 0, [], false⟩,
  ⟨0x2600, 1, 1, 0x09, 4, .u 4, .ro, 9, .c 0, [], false⟩,
  ⟨0x2600, 1, 1, 0x0D, 4, .u 4, .ro, 9, .c 0, [], false⟩,
  ⟨0x2600, 1, 1, 0x11, 1, .u 2, .ro, 9, .c 32, [], false⟩,
  ⟨0x2600, 1, 1, 0x12, 1, .u 1, .ro, 9, .c 0, [], false⟩,
  ⟨0x2600, 1, 1, 0x20, 1, .u 1, .rws, 1, .c 10, [], true⟩,
  ⟨0x2600, 1, 1, 0x21, 1, .u 2, .rws, 1, .c 50, [], true⟩,
  ⟨0x2600, 1, 1, 0x22, 1, .u 2, .rws, 1, .c 500, [], true⟩,
  ⟨0x2600, 1, 1, 0x23, 1, .u 1, .rws, 1, .c 4, [(1, 64)], true⟩,
  ⟨0x2610, 8, 1, 0x01, 1, .u 2, .rws, 1, .c 0x61A8, [], true⟩,
  ⟨0x2610, 8, 1, 0x02, 1, .u 2, .rws, 1, .c 0x8AAC, [], true⟩,
  ⟨0x2610, 8, 1, 0x03, 1, .u 2, .rws, 1, .c 1000, [], true⟩,
  ⟨0x2610, 8, 1, 0x04, 1, .u 2, .rws, 1, .c 500, [], true⟩,
  ⟨0x2610, 8, 1, 0x05, 4, .i 2, .rws, 1, .per [0, 1000, 4500, 5500], [], true⟩,
  ⟨0x2610, 8, 1, 0x09, 4, .i 2, .rws, 1, .per [63536, 64536, 5000, 6000], [], true⟩,
  ⟨0x2620, 32, 1, 0x01, 4, .u 4, .ro, 9, .c 0, [], false⟩,
  ⟨0x2620, 32, 1, 0x05, 4, .u 4, .ro, 9, .c 0, [], false⟩,
  ⟨0x2620, 32, 1, 0x09, 1, .u 2, .ro, 9, .c 0xFFFF, [], false⟩,
  ⟨0x2620, 32, 1, 0x0A, 1, .u 2, .ro, 9, .c 0xFFFF, [], false⟩,
  ⟨0x2620, 32, 1, 0x0B, 1, .u 2, .ro, 9, .c 32, [], false⟩,
  ⟨0x2700, 1, 1, 0x01, 1, .u 1, .rws, 4, .c 1, [(0, 1)], true⟩,
  ⟨0x2700, 1, 1, 0x02, 1, .u 2, .rws, 4, .c 50, [], true⟩,
  ⟨0x2700, 1, 1, 0x03, 1, .u 2, .rws, 4, .c 200, [], true⟩,
  ⟨0x2700, 1, 1, 0x04, 1, .u 1, .rws, 4, .c 255, [], true⟩,
  ⟨0x2700, 1, 1, 0x05, 1, .u 2, .rws, 4, .c 500, [], true⟩,
  ⟨0x2700, 1, 1, 0x06, 1, .u 2, .rws, 4, .c 1000, [(16, 65535)], true⟩,
  ⟨0x2700, 1, 1, 0x07, 1, .u 2, .rws, 4, .c 1020, [], true⟩,
  ⟨0x2700, 1, 1, 0x08, 1, .i 2, .rws, 4, .c 0x1388, [], true⟩,
  ⟨0x2700, 1, 1, 0x09, 1, .i 2, .rws, 4, .c 0x1770, [], true⟩,
  ⟨0x2700, 1, 1, 0x0A, 1, .u 4, .rws, 4, .c 0x2AF8, [], true⟩,
  ⟨0x2720, 32, 1, 0x01, 1, .u 2, .ro, 9, .c 0, [], false⟩,
  ⟨0x2720, 32, 1, 0x02, 1, .u 2, .ro, 9, .c 0, [], false⟩,
  ⟨0x2720, 32, 1, 0x03, 1, .u 8, .ro, 9, .c 0, [], false⟩,
  ⟨0x2720, 32, 1, 0x04, 1, .u 1, .ro, 9, .c 0, [], false⟩,
  ⟨0x2500, 1, 1, 0x01, 1, .u 1, .ro, 9, .c 0, [], false⟩,
  ⟨0x2500, 1, 1, 0x02, 3, .u 1, .rws, 3, .c 255, [(0, 15), (255, 255)], true⟩,
  ⟨0x2500, 1, 1, 0x05, 1, .u 1, .rws, 3, .c 1, [(0, 7)], true⟩,
  ⟨0x2500, 1, 1, 0x06, 1, .u 1, .rws, 3, .c 0, [(0, 7)], true⟩,
  ⟨0x2500, 1, 1, 0x07, 1, .u 4, .rws, 3, .c 0, [], true⟩,
  ⟨0x2500, 1, 1, 0x08, 1, .u 4, .rws, 3, .c 0, [], true⟩,
  ⟨0x2500, 1, 1, 0x09, 1, .u 1, .rws, 3, .c 25, [], true⟩,
  ⟨0x2500, 1, 1, 0x0A, 1, .u 2, .rws, 3, .c 20, [], true⟩,
  ⟨0x2500, 1, 1, 0x0B, 1, .u 2, .rws, 3, .c 0x1388, [], true⟩,
  ⟨0x2500, 1, 1, 0x0C, 1, .u 2, .rws, 3, .c 60, [], true⟩,
  ⟨0x2500, 1, 1, 0x0D, 1, .u 1, .rws, 3, .c 3, [(0, 15)], true⟩,
  ⟨0x2500, 1, 1, 0x0E, 1, .u 2, .rws, 3, .c 200, [], true⟩,
  ⟨0x2500, 1, 1, 0x0F, 1, .u 4, .rws, 3, .c 0x2710, [], true⟩,
  ⟨0x2500, 1, 1, 0x10, 1, .u 4, .rws, 3, .c 0x1388, [], true⟩,
  ⟨0x2500, 1, 1, 0x11, 1, .u 2, .rws, 3, .c 2000, [], true⟩,
  ⟨0x2500, 1, 1, 0x12, 1, .u 1, .rws, 3, .c 30, [], true⟩,
  ⟨0x2500, 1, 1, 0x13, 1, .u 4, .rws, 3, .c 0x1388, [], true⟩,
  ⟨0x2500, 1, 1, 0x14, 1, .u 4, .rws, 3, .c 1000, [], true⟩,
  ⟨0x2500, 1, 1, 0x15, 1, .u 2, .rws, 3, .c 100, [], true⟩,
  ⟨0x2500, 1, 1, 0x16, 1, .u 1, .rws, 3, .c 50, [], true⟩,
  ⟨0x2500, 1, 1, 0x17, 1, .u 2, .rws, 3, .c 50, [], true⟩,
  ⟨0x2500, 1, 1, 0x18, 1, .u 1, .rws, 3, .c 30, [], true⟩,
  ⟨0x2500, 1, 1, 0x19, 1, .u 4, .rws, 3, .c 0x1E8480, [], true⟩,
  ⟨0x2500, 1, 1, 0x1A, 1, .u 2, .rws, 3, .c 60, [], true⟩,
  ⟨0x2500, 1, 1, 0x1B, 1, .u 2, .w1c, 9, .c 0, [], false⟩,
  ⟨0x2500, 1, 1, 0x1C, 2, .u 8, .ro, 9, .c 0, [], true⟩,
  ⟨0x2500, 1, 1, 0x1E, 1, .u 2, .ro, 9, .c 0, [], false⟩,
  ⟨0x2550, 8, 1, 0x01, 1, .u 2, .rws, 0, .c 0x8CA0, [], true⟩,
  ⟨0x2550, 8, 1, 0x02, 1, .u 2, .rws, 0, .c 0x5DC0, [], true⟩,
  ⟨0x2550, 8, 1, 0x03, 1, .i 2, .rws, 0, .c 0x1770, [], true⟩,
  ⟨0x2550, 8, 1, 0x04, 1, .i 2, .rws, 0, .c 0x1B58, [], true⟩,
  ⟨0x2550, 8, 1, 0x05, 1, .u 2, .rws, 0, .c 100, [], true⟩,
  ⟨0x2550, 8, 1, 0x06, 1, .u 1, .rws, 0, .c 10, [], true⟩,
  ⟨0x2550, 8, 1, 0x07, 1, .u 2, .rws, 0, .c 150, [], true⟩,
  ⟨0x2550, 8, 1, 0x08, 1, .u 2, .rws, 0, .c 500, [], true⟩,
  ⟨0x2560, 1, 1, 0x01, 1, .u 1, .rws, 0, .c 1, [(0, 1)], true⟩,
  ⟨0x2560, 1, 1, 0x02, 1, .u 2, .rws, 0, .c 10, [], true⟩,
  ⟨0x2560, 1, 1, 0x03, 1, .u 1, .rws, 0, .c 50, [], true⟩,
  ⟨0x2560, 1, 1, 0x04, 1, .u 2, .rws, 0, .c 24, [], true⟩,
  ⟨0x2560, 1, 1, 0x05, 1, .u 2, .rws, 0, .c 50, [], true⟩,
  ⟨0x2560, 1, 1, 0x06, 1, .u 2, .rws, 0, .c 200, [], true⟩,
  ⟨0x2560, 1, 1, 0x07, 1, .u 1, .rws, 0, .c 100, [], true⟩,
  ⟨0x3200, 32, 1, 0x01, 1, .u 1, .rws, 3, .c 255, [(0, 15)], true⟩,
  ⟨0x3200, 32, 1, 0x02, 1, .u 1, .rws, 3, .c 0, [(0, 0), (32, 32)], true⟩,
  ⟨0x3200, 32, 1, 0x03, 1, .u 1, .rws, 3, .c 0, [(0, 1)], true⟩,
  ⟨0x3200, 32, 1, 0x04, 1, .u 1, .rw, 9, .c 0, [(1, 3)], false⟩,
  ⟨0x3200, 32, 1, 0x05, 1, .u 1, .ro, 9, .c 0, [], false⟩,
  ⟨0x3200, 32, 1, 0x06, 1, .u 2, .ro, 9, .c 0, [], false⟩,
  ⟨0x3200, 32, 1, 0x07, 2, .u 4, .ro, 9, .c 0, [], true⟩,
  ⟨0x3200, 32, 1, 0x09, 2, .u 8, .ro, 9, .c 0, [], true⟩,
  ⟨0x3200, 32, 1, 0x0B, 1, .i 4, .ro, 9, .c 0, [], false⟩,
  ⟨0x3200, 32, 1, 0x0C, 1, .i 4, .ro, 9, .c 0, [], false⟩,
  ⟨0x3200, 32, 1, 0x0E, 1, .u 4, .ro, 9, .c 0, [], false⟩,
  ⟨0x3200, 32, 1, 0x0F, 1, .u 4, .rws, 1, .c 0xFFFFFFFF, [], true⟩]

/-- Objects of the tables of chapter 10. -/
def rowsChannels : List Entry := [
  ⟨0x2400, 1, 1, 0x01, 1, .u 2, .ro, 9, .c 0, [], true⟩,
  ⟨0x2400, 1, 1, 0x02, 1, .u 2, .ro, 9, .c 0, [], true⟩,
  ⟨0x2400, 1, 1, 0x03, 1, .u 2, .ro, 9, .c 0, [], true⟩,
  ⟨0x2400, 1, 1, 0x04, 1, .u 2, .ro, 9, .c 0, [], true⟩,
  ⟨0x2400, 1, 1, 0x05, 1, .u 1, .ro, 9, .c 0, [], true⟩,
  ⟨0x2404, 4, 1, 0x01, 1, .u 2, .ro, 9, .c 0, [], true⟩,
  ⟨0x2404, 4, 1, 0x02, 1, .i 2, .ro, 9, .c 0, [], true⟩,
  ⟨0x2404, 4, 1, 0x03, 1, .u 4, .ro, 9, .c 0, [], true⟩,
  ⟨0x2404, 4, 1, 0x04, 1, .u 1, .w1c, 9, .c 0, [], true⟩,
  ⟨0x2410, 16, 1, 0x01, 1, .u 1, .rw, 9, .c 0, [(0, 2)], true⟩,
  ⟨0x2410, 16, 1, 0x02, 1, .u 1, .ro, 9, .c 0, [], true⟩,
  ⟨0x2410, 16, 1, 0x03, 1, .u 1, .rws, 3, .c 0, [(0, 2)], true⟩,
  ⟨0x2410, 16, 1, 0x04, 1, .u 1, .rws, 3, .c 255, [(0, 31), (255, 255)], true⟩,
  ⟨0x2410, 16, 1, 0x05, 1, .u 1, .rws, 3, .c 0, [(0, 3)], true⟩,
  ⟨0x2410, 16, 1, 0x06, 1, .u 1, .rws, 3, .c 40, [(20, 80)], true⟩,
  ⟨0x2410, 16, 1, 0x07, 1, .u 1, .rws, 3, .c 10, [(1, 100)], true⟩,
  ⟨0x2410, 16, 1, 0x08, 1, .u 1, .rws, 3, .c 2, [(0, 3)], true⟩,
  ⟨0x2410, 16, 1, 0x09, 1, .u 1, .rws, 3, .c 20, [(0, 50)], true⟩,
  ⟨0x2410, 16, 1, 0x0A, 1, .u 1, .rws, 3, .c 5, [(1, 15)], true⟩,
  ⟨0x2410, 16, 1, 0x0B, 1, .u 1, .rws, 3, .c 255, [(0, 15), (255, 255)], true⟩,
  ⟨0x2410, 16, 1, 0x0C, 1, .u 4, .ro, 9, .c 0, [], true⟩,
  ⟨0x2410, 16, 1, 0x0D, 1, .u 2, .ro, 9, .c 0, [], true⟩,
  ⟨0x2410, 16, 1, 0x0E, 1, .u 1, .ro, 9, .c 0, [], true⟩,
  ⟨0x2410, 16, 1, 0x0F, 1, .u 2, .w1c, 9, .c 0, [], true⟩,
  ⟨0x2410, 16, 1, 0x10, 1, .u 1, .ro, 9, .c 0, [], true⟩,
  ⟨0x2410, 16, 1, 0x11, 1, .u 2, .ro, 9, .c 0, [], true⟩,
  ⟨0x2410, 16, 1, 0x12, 1, .u 4, .ro, 9, .c 0, [], false⟩,
  ⟨0x2410, 16, 1, 0x13, 1, .u 2, .rws, 3, .c 1000, [], true⟩]

/-- Objects of the tables of chapter 11. -/
def rowsTines : List Entry := [
  ⟨0x2E00, 1, 1, 0x01, 1, .u 2, .w1c, 9, .c 0, [], false⟩,
  ⟨0x2E00, 1, 1, 0x02, 1, .u 1, .rws, 8, .c 255, [(8, 31), (255, 255)], true⟩,
  ⟨0x2E00, 1, 1, 0x03, 1, .dom 0 32768, .rws, 8, .c 0, [], true⟩,
  ⟨0x2E00, 1, 1, 0x04, 1, .u 4, .ro, 9, .c 0, [], false⟩,
  ⟨0x2E00, 1, 1, 0x05, 1, .u 1, .ro, 9, .c 0, [], false⟩,
  ⟨0x2E00, 1, 1, 0x06, 1, .u 4, .ro, 9, .factory, [], false⟩,
  ⟨0x2E00, 1, 1, 0x10, 4, .u 1, .rws, 8, .c 6, [(0, 31)], true⟩,
  ⟨0x2E00, 1, 1, 0x14, 1, .u 1, .rws, 8, .c 7, [(0, 31)], true⟩,
  ⟨0x2E10, 32, 1, 0x01, 1, .u 1, .ro, 9, .c 0, [], true⟩,
  ⟨0x2E10, 32, 1, 0x02, 1, .u 1, .ro, 9, .c 0, [], true⟩,
  ⟨0x2E10, 32, 1, 0x03, 1, .u 1, .ro, 9, .c 0, [], true⟩,
  ⟨0x2E10, 32, 1, 0x04, 1, .u 4, .ro, 9, .c 0, [], true⟩,
  ⟨0x2E10, 32, 1, 0x05, 1, .u 4, .ro, 9, .c 0, [], true⟩,
  ⟨0x2E10, 32, 1, 0x06, 1, .u 4, .ro, 9, .c 0, [], true⟩,
  ⟨0x2E10, 32, 1, 0x07, 1, .dom 0 248, .ro, 9, .c 0, [], true⟩,
  ⟨0x2E10, 32, 1, 0x08, 1, .u 4, .ro, 9, .c 0, [], true⟩,
  ⟨0x2E10, 32, 1, 0x09, 1, .u 1, .rws, 8, .c 0, [(1, 1)], true⟩,
  ⟨0x2E10, 32, 1, 0x0A, 1, .u 1, .rws, 8, .c 0, [(1, 1)], true⟩,
  ⟨0x2E10, 32, 1, 0x0B, 1, .u 8, .ro, 9, .c 0, [], true⟩]

/-- Objects of the tables of chapter 12. -/
def rowsSparing : List Entry := [
  ⟨0x2110, 1, 1, 0x01, 1, .u 2, .ro, 9, .c 0, [], false⟩,
  ⟨0x2110, 1, 1, 0x02, 1, .u 1, .ro, 9, .c 0, [], false⟩,
  ⟨0x2110, 1, 1, 0x03, 1, .u 2, .ro, 9, .c 0, [], false⟩,
  ⟨0x2110, 1, 1, 0x04, 1, .u 2, .ro, 9, .c 0, [], false⟩,
  ⟨0x2110, 1, 1, 0x05, 1, .u 4, .ro, 9, .c 0, [], false⟩,
  ⟨0x2110, 1, 1, 0x06, 1, .u 8, .ro, 9, .c 0, [], false⟩,
  ⟨0x2110, 1, 1, 0x07, 1, .u 4, .ro, 9, .c 0, [], false⟩,
  ⟨0x2110, 1, 1, 0x08, 1, .u 4, .ro, 9, .c 0, [], false⟩,
  ⟨0x2110, 1, 1, 0x09, 1, .u 2, .ro, 9, .c 0, [], false⟩,
  ⟨0x2110, 1, 1, 0x0A, 1, .u 2, .w1c, 9, .c 0, [], false⟩,
  ⟨0x2110, 1, 1, 0x0B, 1, .u 2, .ro, 9, .c 600, [], false⟩,
  ⟨0x2110, 1, 1, 0x0C, 1, .u 1, .ro, 9, .c 64, [], false⟩,
  ⟨0x2110, 1, 1, 0x0D, 1, .u 1, .ro, 9, .c 16, [], false⟩,
  ⟨0x2A00, 1, 1, 0x01, 1, .u 2, .w1c, 9, .c 0, [], true⟩,
  ⟨0x2A00, 1, 1, 0x02, 1, .u 1, .ro, 9, .c 16, [], true⟩,
  ⟨0x2A00, 1, 1, 0x03, 1, .u 1, .ro, 9, .c 0, [], true⟩,
  ⟨0x2A00, 1, 1, 0x04, 1, .u 1, .ro, 9, .c 2, [], true⟩,
  ⟨0x2A00, 1, 1, 0x05, 1, .u 2, .ro, 9, .c 1024, [], true⟩,
  ⟨0x2A00, 1, 1, 0x06, 1, .u 2, .ro, 9, .c 768, [], true⟩,
  ⟨0x2A00, 1, 1, 0x07, 1, .u 4, .ro, 9, .c 0, [], true⟩,
  ⟨0x2A00, 1, 1, 0x10, 1, .u 2, .rws, 8, .c 16, [], true⟩,
  ⟨0x2A00, 1, 1, 0x11, 1, .u 1, .rws, 8, .c 4, [], true⟩,
  ⟨0x2A00, 1, 1, 0x12, 1, .u 2, .rws, 8, .c 500, [], true⟩,
  ⟨0x2A00, 1, 1, 0x13, 1, .u 2, .rws, 3, .c 1400, [], true⟩,
  ⟨0x2A00, 1, 1, 0x14, 1, .u 2, .rws, 2, .c 1050, [], true⟩,
  ⟨0x2A00, 1, 1, 0x15, 1, .u 2, .rws, 8, .c 102, [], true⟩,
  ⟨0x2A00, 1, 1, 0x16, 1, .u 2, .rws, 5, .c 150, [], true⟩,
  ⟨0x2A00, 1, 1, 0x17, 1, .u 2, .rws, 8, .c 3600, [], true⟩,
  ⟨0x2A00, 1, 1, 0x18, 1, .i 2, .ro, 9, .c 0, [], true⟩,
  ⟨0x2A00, 1, 1, 0x19, 2, .u 1, .ro, 9, .c 255, [], true⟩,
  ⟨0x2A20, 16, 1, 0x01, 5, .u 1, .ro, 9, .per [0, 0, 0, 0, 1], [], true⟩,
  ⟨0x2A20, 16, 1, 0x06, 5, .u 2, .ro, 9, .c 0, [], true⟩,
  ⟨0x2A20, 16, 1, 0x0B, 5, .u 2, .ro, 9, .c 0, [], true⟩,
  ⟨0x2A40, 16, 1, 0x01, 1, .u 2, .ro, 9, .c 0, [], true⟩,
  ⟨0x2A40, 16, 1, 0x02, 1, .u 2, .ro, 9, .c 0, [], true⟩,
  ⟨0x2A40, 16, 1, 0x03, 1, .u 1, .ro, 9, .c 0, [], true⟩]

/-- Objects of the tables of chapter 13. -/
def rowsArbitration : List Entry := [
  ⟨0x6100, 1, 1, 0x01, 8, .u 1, .ro, 9, .c 0, [], false⟩,
  ⟨0x6101, 1, 1, 0x01, 16, .u 1, .ro, 9, .c 0, [], false⟩,
  ⟨0x6102, 1, 1, 0x01, 16, .u 1, .ro, 9, .c 0, [], false⟩,
  ⟨0x6103, 1, 1, 0x01, 16, .u 1, .ro, 9, .c 0, [], false⟩,
  ⟨0x6104, 4, 1, 0x01, 8, .u 1, .ro, 9, .c 0, [], false⟩,
  ⟨0x6108, 16, 1, 0x01, 16, .u 1, .ro, 9, .c 0, [], false⟩,
  ⟨0x6118, 1, 1, 0x01, 16, .u 1, .ro, 9, .c 0, [], false⟩,
  ⟨0x6119, 1, 1, 0x01, 16, .u 1, .ro, 9, .c 0, [], false⟩,
  ⟨0x611A, 1, 1, 0x01, 16, .u 1, .ro, 9, .c 0, [], false⟩,
  ⟨0x611B, 1, 1, 0x01, 16, .u 1, .ro, 9, .c 0, [], false⟩,
  ⟨0x611C, 1, 1, 0x01, 16, .u 1, .ro, 9, .c 0, [], false⟩,
  ⟨0x611D, 1, 1, 0x01, 32, .u 1, .ro, 9, .c 0, [], false⟩,
  ⟨0x611E, 16, 1, 0x01, 8, .u 1, .ro, 9, .c 0, [], false⟩,
  ⟨0x612E, 1, 1, 0x01, 16, .u 1, .ro, 9, .c 0, [], false⟩,
  ⟨0x6060, 1, 1, 0x01, 4, .u 2, .ro, 9, .per [32, 64, 64, 64], [], false⟩,
  ⟨0x6060, 1, 1, 0x05, 1, .u 2, .ro, 9, .c 10, [], false⟩,
  ⟨0x6060, 1, 1, 0x06, 4, .u 4, .ro, 9, .c 0, [], false⟩,
  ⟨0x6060, 1, 1, 0x0A, 1, .u 4, .ro, 9, .c 0, [], false⟩,
  ⟨0x6061, 1, 1, 0x01, 1, .u 2, .w1c, 9, .c 0, [], false⟩,
  ⟨0x6061, 1, 1, 0x02, 1, .u 4, .ro, 9, .c 0, [], false⟩,
  ⟨0x6061, 1, 1, 0x03, 1, .u 4, .ro, 9, .c 0, [], false⟩,
  ⟨0x6064, 4, 1, 0x01, 1, .u 1, .ro, 9, .c 0, [], false⟩,
  ⟨0x6064, 4, 1, 0x02, 1, .u 4, .ro, 9, .c 0, [], false⟩,
  ⟨0x6064, 4, 1, 0x03, 1, .u 1, .ro, 9, .c 0, [], false⟩,
  ⟨0x6064, 4, 1, 0x04, 1, .u 1, .ro, 9, .c 0, [], false⟩,
  ⟨0x6064, 4, 1, 0x05, 1, .u 4, .ro, 9, .c 0, [], false⟩,
  ⟨0x6064, 4, 1, 0x06, 1, .u 2, .rws, 8, .c 0x1000, [(256, 65535)], true⟩,
  ⟨0x6064, 4, 1, 0x07, 1, .u 4, .ro, 9, .c 0, [], false⟩,
  ⟨0x6064, 4, 1, 0x08, 1, .u 1, .rws, 8, .c 0, [(1, 1)], true⟩,
  ⟨0x6068, 1, 1, 0x01, 1, .u 2, .rws, 8, .c 0x1000, [(256, 65535)], true⟩,
  ⟨0x6068, 1, 1, 0x02, 1, .u 4, .ro, 9, .c 0, [], false⟩,
  ⟨0x6068, 1, 1, 0x03, 1, .u 4, .ro, 9, .c 0, [], true⟩,
  ⟨0x6068, 1, 1, 0x04, 1, .u 1, .ro, 9, .c 0, [], true⟩]

/-- Objects of the tables of chapter 14. -/
def rowsLockstep : List Entry := [
  ⟨0x6000, 1, 1, 0x01, 1, .u 1, .ro, 9, .c 0, [], false⟩,
  ⟨0x6000, 1, 1, 0x02, 1, .u 4, .ro, 9, .c 0, [], false⟩,
  ⟨0x6000, 1, 1, 0x03, 1, .u 4, .ro, 9, .c 0, [], false⟩,
  ⟨0x6000, 1, 1, 0x04, 1, .u 2, .ro, 9, .c 0, [], false⟩,
  ⟨0x6000, 1, 1, 0x05, 1, .u 1, .rws, 8, .c 2, [(1, 15)], true⟩,
  ⟨0x6000, 1, 1, 0x06, 1, .u 2, .rws, 8, .c 30, [(1, 3650)], true⟩,
  ⟨0x6040, 16, 1, 0x01, 1, .u 1, .ro, 9, .c 0, [], false⟩,
  ⟨0x6040, 16, 1, 0x02, 1, .u 4, .ro, 9, .c 0, [], false⟩,
  ⟨0x6040, 16, 1, 0x03, 1, .u 1, .ro, 9, .c 0, [], false⟩,
  ⟨0x6040, 16, 1, 0x04, 1, .u 4, .ro, 9, .c 0, [], false⟩,
  ⟨0x6050, 1, 1, 0x01, 1, .u 1, .ro, 9, .c 0, [], false⟩,
  ⟨0x6050, 1, 1, 0x02, 1, .u 4, .rw, 9, .c 0, [], false⟩,
  ⟨0x6050, 1, 1, 0x03, 1, .dom 48 48, .ro, 9, .c 0, [], false⟩,
  ⟨0x6050, 1, 1, 0x04, 1, .dom 184 184, .wo, 9, .c 0, [], false⟩,
  ⟨0x6050, 1, 1, 0x05, 1, .u 1, .rw, 9, .c 0, [(1, 1)], false⟩,
  ⟨0x6050, 1, 1, 0x06, 1, .u 4, .ro, 9, .c 0, [], true⟩,
  ⟨0x6050, 1, 1, 0x07, 1, .u 2, .rws, 8, .c 3600, [(60, 65535)], true⟩,
  ⟨0x6050, 1, 1, 0x08, 1, .u 1, .ro, 9, .c 0, [], false⟩,
  ⟨0x6050, 1, 1, 0x09, 1, .u 4, .ro, 9, .factory, [], false⟩]

/-- Objects of the tables of chapter 15. -/
def rowsTime : List Entry := [
  ⟨0x2200, 1, 1, 0x01, 1, .u 8, .ro, 9, .c 0, [], false⟩,
  ⟨0x2200, 1, 1, 0x02, 1, .u 2, .ro, 9, .c 0, [], false⟩,
  ⟨0x2200, 1, 1, 0x03, 1, .u 1, .ro, 9, .c 0, [], false⟩,
  ⟨0x2200, 1, 1, 0x04, 1, .u 1, .rws, 5, .c 0, [(0, 1)], true⟩,
  ⟨0x2200, 1, 1, 0x05, 1, .u 1, .rws, 5, .c 0, [(0, 1)], true⟩,
  ⟨0x2200, 1, 1, 0x06, 1, .u 4, .rws, 5, .c 0x2710, [(1000, 10000000)], true⟩,
  ⟨0x2200, 1, 1, 0x07, 1, .u 4, .rws, 5, .c 1000, [(100, 1000000)], true⟩,
  ⟨0x2200, 1, 1, 0x08, 1, .u 2, .rws, 5, .c 100, [(20, 10000)], true⟩,
  ⟨0x2200, 1, 1, 0x09, 1, .u 1, .rws, 5, .c 16, [(4, 255)], true⟩,
  ⟨0x2200, 1, 1, 0x0A, 1, .u 4, .rws, 5, .c 1000, [], true⟩,
  ⟨0x2200, 1, 1, 0x0B, 1, .u 2, .rws, 5, .c 500, [], true⟩,
  ⟨0x2200, 1, 1, 0x0C, 1, .i 4, .ro, 9, .c 0, [], false⟩,
  ⟨0x2200, 1, 1, 0x0D, 1, .u 1, .ro, 9, .c 0, [], false⟩,
  ⟨0x2200, 1, 1, 0x0E, 1, .i 8, .ro, 9, .c 0, [], false⟩,
  ⟨0x2200, 1, 1, 0x0F, 1, .i 2, .ro, 9, .c 0, [], false⟩,
  ⟨0x2200, 1, 1, 0x10, 1, .u 1, .rws, 5, .c 0, [(1, 2)], true⟩,
  ⟨0x2200, 1, 1, 0x11, 1, .u 4, .ro, 9, .c 0, [], false⟩,
  ⟨0x2200, 1, 1, 0x12, 1, .u 4, .ro, 9, .c 0, [], false⟩,
  ⟨0x2210, 1, 1, 0x01, 1, .u 1, .rws, 5, .c 0, [(0, 127)], true⟩,
  ⟨0x2211, 1, 1, 0x01, 1, .u 1, .rws, 5, .c 1, [(0, 127)], true⟩,
  ⟨0x2210, 1, 1, 0x02, 1, .u 1, .rws, 5, .c 0, [(0, 1)], true⟩,
  ⟨0x2211, 1, 1, 0x02, 1, .u 1, .rws, 5, .c 1, [(0, 1)], true⟩,
  ⟨0x2210, 2, 1, 0x03, 1, .u 1, .rws, 5, .c 0, [(0, 2)], true⟩,
  ⟨0x2210, 2, 1, 0x04, 1, .u 1, .ro, 9, .c 0, [], false⟩,
  ⟨0x2210, 2, 1, 0x05, 1, .i 8, .ro, 9, .c 0, [], false⟩,
  ⟨0x2210, 2, 1, 0x06, 1, .i 4, .ro, 9, .c 0, [], false⟩,
  ⟨0x2210, 2, 1, 0x07, 1, .u 4, .ro, 9, .c 0, [], false⟩,
  ⟨0x2210, 2, 1, 0x08, 1, .u 8, .ro, 9, .c 0, [], false⟩,
  ⟨0x2210, 2, 1, 0x09, 1, .u 1, .ro, 9, .c 248, [], false⟩,
  ⟨0x2210, 2, 1, 0x0A, 1, .u 8, .ro, 9, .c 0, [], false⟩,
  ⟨0x2210, 2, 1, 0x0B, 1, .u 4, .ro, 9, .c 0, [], false⟩,
  ⟨0x2210, 2, 1, 0x0D, 1, .u 1, .rws, 5, .c 0, [(0, 1)], true⟩,
  ⟨0x2220, 2, 1, 0x01, 1, .u 1, .rws, 5, .c 1, [(0, 1)], true⟩,
  ⟨0x2222, 2, 1, 0x01, 1, .u 1, .rws, 5, .c 0, [(0, 1)], true⟩,
  ⟨0x2220, 4, 1, 0x02, 1, .u 1, .rws, 5, .c 0, [(0, 1)], true⟩,
  ⟨0x2220, 4, 1, 0x03, 1, .u 1, .rws, 5, .c 0, [(0, 1)], true⟩,
  ⟨0x2220, 4, 1, 0x04, 1, .i 4, .rws, 5, .c 0, [], true⟩,
  ⟨0x2220, 4, 1, 0x05, 1, .i 1, .rws, 5, .c 253, [], true⟩,
  ⟨0x2220, 4, 1, 0x06, 1, .i 1, .rws, 5, .c 0, [], true⟩,
  ⟨0x2220, 4, 1, 0x07, 1, .u 1, .rws, 5, .c 3, [(2, 10)], true⟩,
  ⟨0x2220, 4, 1, 0x08, 1, .u 1, .rws, 5, .c 1, [(0, 1)], true⟩,
  ⟨0x2220, 4, 1, 0x09, 1, .u 1, .ro, 9, .c 1, [], false⟩,
  ⟨0x2220, 4, 1, 0x0A, 1, .u 2, .ro, 9, .factory, [], false⟩,
  ⟨0x2220, 4, 1, 0x0B, 1, .u 2, .ro, 9, .factory, [], false⟩,
  ⟨0x2220, 4, 1, 0x0C, 1, .u 4, .ro, 9, .c 0, [], false⟩,
  ⟨0x2230, 1, 1, 0x01, 1, .u 2, .rws, 5, .c 100, [(1, 900)], true⟩,
  ⟨0x2230, 1, 1, 0x02, 1, .u 1, .rws, 5, .c 1, [(0, 3)], true⟩,
  ⟨0x2231, 4, 1, 0x01, 1, .u 1, .rws, 5, .c 0, [(0, 5)], true⟩,
  ⟨0x2235, 1, 1, 0x01, 1, .u 1, .ro, 5, .c 1, [], false⟩,
  ⟨0x2231, 5, 1, 0x02, 1, .u 8, .rws, 5, .c 0, [], true⟩,
  ⟨0x2231, 5, 1, 0x03, 1, .u 4, .rws, 5, .c 0xF4240, [], true⟩,
  ⟨0x2231, 5, 1, 0x04, 1, .u 4, .rws, 5, .c 0x2710, [], true⟩,
  ⟨0x2231, 5, 1, 0x05, 1, .u 1, .ro, 9, .c 0, [], false⟩,
  ⟨0x2231, 5, 1, 0x06, 1, .dom 9 9, .ro, 9, .c 0, [], false⟩,
  ⟨0x2231, 5, 1, 0x07, 1, .u 4, .ro, 9, .c 0, [], false⟩,
  ⟨0x2231, 5, 1, 0x08, 1, .u 4, .ro, 9, .c 0, [], false⟩,
  ⟨0x2240, 1, 1, 0x01, 1, .u 1, .rws, 5, .c 0, [(0, 127)], true⟩,
  ⟨0x2240, 1, 1, 0x02, 2, .u 1, .rws, 5, .c 128, [], true⟩,
  ⟨0x2240, 1, 1, 0x04, 1, .u 1, .ro, 9, .c 248, [], false⟩,
  ⟨0x2240, 1, 1, 0x05, 1, .u 4, .rws, 5, .c 3600, [], true⟩,
  ⟨0x2241, 1, 1, 0x01, 1, .u 1, .rws, 5, .c 0, [(0, 15)], true⟩,
  ⟨0x2241, 1, 1, 0x02, 1, .u 2, .rws, 5, .c 1, [(0, 2047)], true⟩,
  ⟨0x2241, 1, 1, 0x03, 1, .u 1, .rws, 5, .c 1, [(1, 64)], true⟩,
  ⟨0x2241, 1, 1, 0x04, 1, .u 2, .rws, 5, .c 0, [], true⟩,
  ⟨0x2241, 1, 1, 0x05, 1, .u 1, .ro, 9, .c 0, [], false⟩]

/-- Objects of the tables of chapter 16. -/
def rowsAccess : List Entry := [
  ⟨0x2001, 1, 1, 0x01, 1, .u 8, .wo, 9, .c 0, [], false⟩,
  ⟨0x2010, 9, 1, 0x01, 1, .u 1, .ro, 9, .c 0, [], false⟩,
  ⟨0x2010, 9, 1, 0x02, 1, .u 1, .ro, 9, .c 0, [], false⟩,
  ⟨0x2010, 9, 1, 0x03, 1, .u 1, .ro, 9, .c 0, [], false⟩,
  ⟨0x2010, 9, 1, 0x04, 1, .u 2, .ro, 9, .c 50, [], false⟩,
  ⟨0x2010, 9, 1, 0x05, 1, .u 4, .ro, 9, .c 0, [], false⟩,
  ⟨0x2010, 9, 1, 0x06, 1, .u 2, .ro, 9, .c 0, [], false⟩,
  ⟨0x2010, 9, 1, 0x07, 1, .u 1, .ro, 9, .c 0, [], false⟩,
  ⟨0x2010, 9, 1, 0x08, 1, .u 4, .ro, 9, .c 0, [], false⟩,
  ⟨0x2010, 9, 1, 0x09, 1, .u 4, .ro, 9, .c 0, [], false⟩,
  ⟨0x2010, 9, 1, 0x0A, 1, .u 4, .ro, 9, .c 0, [], false⟩,
  ⟨0x2010, 9, 1, 0x0B, 1, .u 2, .ro, 9, .c 0, [], false⟩,
  ⟨0x2C00, 1, 1, 0x01, 1, .u 1, .ro, 9, .c 0, [], false⟩,
  ⟨0x2C00, 1, 1, 0x10, 1, .dom 0 1024, .rws, 7, .c 0, [], true⟩,
  ⟨0x2C00, 1, 1, 0x11, 1, .dom 0 128, .rws, 7, .c 0, [], true⟩,
  ⟨0x2C00, 1, 1, 0x12, 1, .dom 0 128, .rws, 7, .c 0, [], true⟩,
  ⟨0x2C00, 1, 1, 0x13, 1, .dom 0 256, .rws, 7, .c 0, [], true⟩,
  ⟨0x2C00, 1, 1, 0x14, 1, .u 2, .rws, 7, .c 60, [(5, 3600)], true⟩,
  ⟨0x2C10, 8, 1, 0x01, 1, .u 1, .ro, 9, .c 0, [], false⟩,
  ⟨0x2C10, 8, 1, 0x02, 1, .u 1, .ro, 9, .c 255, [], false⟩,
  ⟨0x2C10, 8, 1, 0x03, 1, .u 8, .ro, 9, .c 0, [], false⟩,
  ⟨0x2C10, 8, 1, 0x04, 1, .u 4, .ro, 9, .c 0, [], false⟩,
  ⟨0x2C10, 8, 1, 0x05, 1, .u 4, .ro, 9, .c 0, [], false⟩,
  ⟨0x2C40, 1, 1, 0x01, 1, .u 1, .rws, 7, .c 16, [(1, 127)], true⟩,
  ⟨0x2C40, 1, 1, 0x02, 1, .u 1, .rws, 7, .c 0, [(0, 2)], true⟩,
  ⟨0x2C40, 1, 1, 0x03, 1, .u 1, .rws, 7, .c 255, [(0, 3), (255, 255)], true⟩,
  ⟨0x2C80, 1, 1, 0x01, 1, .u 1, .rws, 7, .c 0, [(0, 3)], true⟩,
  ⟨0x2C80, 1, 1, 0x02, 1, .u 1, .ro, 9, .c 0, [], false⟩,
  ⟨0x2C80, 1, 1, 0x03, 1, .u 4, .rws, 7, .c 0x2710, [], true⟩,
  ⟨0x2C80, 1, 1, 0x04, 1, .u 1, .rws, 7, .c 0, [(0, 1)], true⟩,
  ⟨0x2C80, 1, 1, 0x10, 1, .dom 80 80, .ro, 9, .c 0, [], false⟩,
  ⟨0x2C90, 32, 1, 0x01, 1, .u 8, .rws, 7, .c 0, [], true⟩,
  ⟨0x2C90, 32, 1, 0x02, 1, .u 1, .ro, 9, .c 0, [], false⟩,
  ⟨0x2C90, 32, 1, 0x03, 1, .u 1, .ro, 9, .c 255, [], false⟩,
  ⟨0x2C90, 32, 1, 0x04, 1, .u 4, .ro, 9, .c 0, [], false⟩,
  ⟨0x2C90, 32, 1, 0x05, 1, .u 4, .ro, 9, .c 0, [], false⟩,
  ⟨0x2C90, 32, 1, 0x06, 1, .dom 80 80, .ro, 9, .c 0, [], false⟩]

/-- Objects of the tables of chapter 17. -/
def rowsCommon : List Entry := [
  ⟨0x2000, 1, 1, 0x07, 1, .u 1, .rws, 8, .c 0, [(90, 90)], false⟩,
  ⟨0x2000, 1, 1, 0x08, 1, .u 2, .rws, 10, .c 0, [(0, 511)], true⟩,
  ⟨0x1000, 1, 1, 0x00, 1, .u 4, .ro, 9, .c 0, [], true⟩,
  ⟨0x1008, 1, 1, 0x00, 1, .str 16, .ro, 9, .c 0, [], true⟩,
  ⟨0x1009, 1, 1, 0x00, 1, .str 8, .ro, 9, .c 0, [], true⟩,
  ⟨0x100A, 1, 1, 0x00, 1, .str 16, .ro, 9, .c 0, [], true⟩,
  ⟨0x1018, 1, 1, 0x01, 1, .u 4, .ro, 9, .factory, [], true⟩,
  ⟨0x1018, 1, 1, 0x02, 1, .u 4, .ro, 9, .c 0x6516, [], true⟩,
  ⟨0x1018, 1, 1, 0x03, 1, .u 4, .ro, 9, .factory, [], true⟩,
  ⟨0x1018, 1, 1, 0x04, 1, .u 4, .ro, 9, .factory, [], true⟩,
  ⟨0x1020, 1, 1, 0x00, 1, .u 8, .ro, 9, .factory, [], true⟩,
  ⟨0x1021, 1, 1, 0x00, 1, .u 2, .ro, 9, .factory, [], true⟩,
  ⟨0x1030, 1, 1, 0x01, 1, .u 1, .ro, 9, .c 0, [], true⟩,
  ⟨0x1030, 1, 1, 0x02, 2, .u 4, .ro, 9, .c 0, [], true⟩,
  ⟨0x1030, 1, 1, 0x04, 2, .u 1, .ro, 9, .c 0, [], true⟩,
  ⟨0x1030, 1, 1, 0x06, 1, .u 1, .rws, 8, .c 0, [(0, 1)], true⟩,
  ⟨0x1040, 1, 1, 0x01, 1, .u 4, .ro, 9, .c 0, [], true⟩,
  ⟨0x1040, 1, 1, 0x02, 1, .u 4, .ro, 9, .c 0, [], true⟩,
  ⟨0x1040, 1, 1, 0x03, 1, .u 4, .ro, 9, .c 0, [], true⟩,
  ⟨0x2C20, 4, 1, 0x01, 1, .u 1, .ro, 9, .c 0, [], false⟩,
  ⟨0x2C20, 4, 1, 0x02, 1, .u 1, .rws, 7, .c 0, [(0, 1)], true⟩,
  ⟨0x2C20, 4, 1, 0x03, 1, .u 8, .ro, 9, .factory, [], false⟩,
  ⟨0x2C20, 4, 1, 0x04, 1, .u 4, .rws, 7, .c 0, [], true⟩,
  ⟨0x2C20, 4, 1, 0x05, 1, .u 1, .rws, 7, .c 24, [(8, 30)], true⟩,
  ⟨0x2C20, 4, 1, 0x06, 1, .u 4, .rws, 7, .c 0, [], true⟩,
  ⟨0x2C20, 4, 1, 0x07, 1, .u 2, .rws, 7, .c 0, [(0, 4094)], true⟩,
  ⟨0x2C20, 4, 1, 0x08, 1, .u 4, .ro, 9, .c 0, [], false⟩,
  ⟨0x2C20, 4, 1, 0x09, 1, .u 4, .ro, 9, .c 0, [], false⟩,
  ⟨0x2C20, 4, 1, 0x0A, 1, .u 4, .ro, 9, .c 0, [], false⟩,
  ⟨0x2C20, 4, 1, 0x0B, 1, .u 4, .ro, 9, .c 0, [], false⟩,
  ⟨0x4000, 1024, 1, 0x00, 1, .u 1, .ro, 9, .c 22, [], false⟩,
  ⟨0x4000, 1024, 1, 0x01, 16, .u 2, .ro, 9, .c 0, [], false⟩,
  ⟨0x4000, 1024, 1, 0x11, 4, .i 2, .ro, 9, .c 0x8000, [], false⟩,
  ⟨0x4000, 1024, 1, 0x15, 1, .u 4, .ro, 9, .c 0, [], false⟩,
  ⟨0x4000, 1024, 1, 0x16, 1, .u 4, .ro, 9, .c 0x40000000, [], false⟩,
  ⟨0x6020, 1, 1, 0x01, 1, .i 2, .ro, 9, .c 0, [], false⟩,
  ⟨0x6020, 1, 1, 0x02, 1, .i 2, .ro, 9, .c 0, [], false⟩,
  ⟨0x6020, 1, 1, 0x03, 1, .u 2, .ro, 9, .c 0, [], false⟩,
  ⟨0x6020, 1, 1, 0x04, 1, .u 2, .ro, 9, .c 0, [], false⟩,
  ⟨0x6020, 1, 1, 0x05, 1, .u 2, .ro, 9, .c 0, [], false⟩,
  ⟨0x6020, 1, 1, 0x06, 1, .u 2, .ro, 9, .c 0, [], false⟩,
  ⟨0x6020, 1, 1, 0x07, 1, .u 2, .ro, 9, .c 0, [], false⟩,
  ⟨0x6020, 1, 1, 0x08, 1, .i 2, .ro, 9, .c 0, [], true⟩,
  ⟨0x6020, 1, 1, 0x09, 1, .i 2, .ro, 9, .c 0, [], true⟩,
  ⟨0x6020, 1, 1, 0x0A, 1, .u 4, .ro, 9, .c 0, [], true⟩]

/-- Objects of the tables of chapter 18. -/
def rowsCan : List Entry := [
  ⟨0x2D10, 4, 1, 0x01, 1, .u 1, .rws, 7, .c 0, [(0, 3)], true⟩,
  ⟨0x2D10, 4, 1, 0x02, 1, .u 1, .rws, 7, .c 0, [(0, 1)], true⟩,
  ⟨0x2D10, 4, 1, 0x03, 1, .u 1, .rws, 7, .c 4, [(1, 32)], true⟩,
  ⟨0x2D10, 4, 1, 0x04, 1, .u 1, .rws, 7, .c 31, [(2, 128)], true⟩,
  ⟨0x2D10, 4, 1, 0x05, 1, .u 1, .rws, 7, .c 8, [(2, 64)], true⟩,
  ⟨0x2D10, 4, 1, 0x06, 1, .u 1, .rws, 7, .c 8, [(1, 64)], true⟩,
  ⟨0x2D10, 4, 1, 0x07, 1, .u 1, .rws, 7, .c 1, [(1, 8)], true⟩,
  ⟨0x2D10, 4, 1, 0x08, 1, .u 1, .rws, 7, .c 29, [(1, 32)], true⟩,
  ⟨0x2D10, 4, 1, 0x09, 1, .u 1, .rws, 7, .c 10, [(1, 16)], true⟩,
  ⟨0x2D10, 4, 1, 0x0A, 1, .u 1, .rws, 7, .c 10, [(1, 16)], true⟩,
  ⟨0x2D10, 4, 1, 0x0B, 1, .u 1, .rws, 7, .c 0, [], true⟩,
  ⟨0x2D10, 4, 1, 0x0C, 1, .u 1, .rws, 7, .c 32, [(1, 255)], true⟩,
  ⟨0x2D10, 4, 1, 0x0D, 1, .u 1, .rws, 7, .c 1, [(0, 1)], true⟩,
  ⟨0x2D10, 4, 1, 0x0E, 1, .u 2, .rws, 7, .c 100, [(10, 10000)], true⟩,
  ⟨0x2D10, 4, 1, 0x0F, 1, .u 1, .ro, 9, .c 3, [], false⟩,
  ⟨0x2D10, 4, 1, 0x10, 2, .u 2, .ro, 9, .c 0, [], false⟩,
  ⟨0x2D10, 4, 1, 0x12, 1, .u 1, .ro, 9, .c 0, [], false⟩,
  ⟨0x2D10, 4, 1, 0x13, 2, .u 4, .ro, 9, .c 0, [], false⟩,
  ⟨0x2D10, 4, 1, 0x15, 1, .u 4, .ro, 9, .c 0, [], false⟩,
  ⟨0x2D10, 4, 1, 0x16, 1, .u 4, .ro, 9, .c 0, [], false⟩,
  ⟨0x2D10, 4, 1, 0x17, 1, .u 1, .ro, 9, .c 0, [], false⟩,
  ⟨0x2D10, 4, 1, 0x18, 1, .u 1, .rws, 7, .c 0, [(0, 1)], true⟩,
  ⟨0x2D10, 4, 1, 0x19, 1, .u 1, .rws, 7, .c 0, [(0, 1)], true⟩,
  ⟨0x2D10, 4, 1, 0x1A, 1, .u 2, .rws, 7, .c 384, [(0, 2047)], true⟩,
  ⟨0x2D10, 4, 1, 0x1B, 1, .u 1, .rws, 7, .c 10, [(1, 255)], true⟩,
  ⟨0x2D10, 4, 1, 0x1C, 1, .u 4, .ro, 9, .c 0, [], false⟩,
  ⟨0x2D10, 4, 1, 0x1E, 9, .u 2, .rws, 7, .c 100, [], true⟩,
  ⟨0x2D20, 4, 1, 0x01, 9, .dom 0 960, .ro, 9, .c 0, [], false⟩,
  ⟨0x2D20, 4, 1, 0x0A, 9, .u 4, .ro, 9, .c 0, [], false⟩,
  ⟨0x2D30, 4, 1, 0x0B, 22, .record 72, .wo, 9, .c 0, [], false⟩,
  ⟨0x2D30, 4, 1, 0x21, 1, .u 4, .wo, 9, .c 0, [], false⟩,
  ⟨0x2D40, 4, 1, 0x01, 32, .u 1, .ro, 9, .c 0, [], false⟩]

/-- Objects of the tables of chapter 19. -/
def rowsRecorder : List Entry := [
  ⟨0x2B00, 1, 1, 0x01, 1, .u 1, .ro, 9, .c 0, [], false⟩,
  ⟨0x2B00, 1, 1, 0x02, 1, .u 2, .ro, 9, .c 0, [], false⟩,
  ⟨0x2B00, 1, 1, 0x03, 1, .u 2, .ro, 9, .c 0, [], false⟩,
  ⟨0x2B00, 1, 1, 0x04, 1, .u 2, .rws, 6, .c 10, [(1, 3600)], true⟩,
  ⟨0x2B00, 1, 1, 0x05, 1, .u 2, .rws, 6, .c 205, [(10, 2047)], true⟩,
  ⟨0x2B00, 1, 1, 0x06, 1, .u 8, .ro, 9, .c 0, [], false⟩,
  ⟨0x2B00, 1, 1, 0x07, 1, .u 4, .ro, 9, .c 0, [], false⟩,
  ⟨0x2B00, 1, 1, 0x08, 1, .u 4, .ro, 9, .c 0, [], false⟩,
  ⟨0x2B00, 1, 1, 0x09, 1, .u 4, .ro, 9, .c 0, [], false⟩,
  ⟨0x2B00, 1, 1, 0x0A, 1, .u 4, .ro, 9, .c 0, [], false⟩,
  ⟨0x2B00, 1, 1, 0x0B, 1, .u 4, .ro, 9, .c 0, [], false⟩,
  ⟨0x2B00, 1, 1, 0x0C, 1, .u 2, .ro, 9, .c 0, [], false⟩,
  ⟨0x2B00, 1, 1, 0x0D, 1, .u 4, .ro, 9, .c 0, [], false⟩,
  ⟨0x2B21, 31, 1, 0x00, 1, .dom 0 128, .rws, 6, .c 0, [], true⟩,
  ⟨0x2B40, 16, 1, 0x01, 16, .u 8, .rws, 6, .row, [], true⟩,
  ⟨0x5000, 1, 1, 0x01, 1, .u 1, .ro, 9, .c 0, [], true⟩,
  ⟨0x5000, 1, 1, 0x02, 1, .u 8, .ro, 9, .c 0, [], true⟩,
  ⟨0x5000, 1, 1, 0x03, 1, .u 8, .ro, 9, .c 0, [], true⟩,
  ⟨0x5000, 1, 1, 0x04, 1, .u 2, .ro, 9, .c 0, [], true⟩,
  ⟨0x5000, 1, 1, 0x05, 1, .u 2, .ro, 9, .c 0, [], true⟩,
  ⟨0x5000, 1, 1, 0x06, 1, .u 8, .rws, 6, .c 0, [], false⟩,
  ⟨0x5000, 1, 1, 0x07, 1, .u 2, .ro, 9, .c 2047, [], true⟩,
  ⟨0x5000, 1, 1, 0x08, 1, .u 4, .ro, 9, .c 0, [], true⟩,
  ⟨0x5000, 1, 1, 0x09, 1, .u 2, .ro, 9, .c 0xFFFF, [], true⟩,
  ⟨0x5100, 2048, 1, 0x01, 64, .record 64, .ro, 9, .c 0, [], false⟩]

/-- Objects of the tables of chapter 20. -/
def rowsStartup : List Entry := [
  ⟨0x1031, 1, 1, 0x01, 1, .u 1, .ro, 9, .c 0, [], true⟩,
  ⟨0x1031, 1, 1, 0x02, 1, .dom 0 1048576, .rws, 8, .c 0, [], true⟩,
  ⟨0x1031, 1, 1, 0x03, 1, .u 4, .ro, 9, .c 0, [], true⟩,
  ⟨0x1031, 1, 1, 0x04, 1, .u 1, .ro, 9, .c 0, [], true⟩,
  ⟨0x1031, 1, 1, 0x05, 1, .u 4, .ro, 9, .factory, [], true⟩,
  ⟨0x1031, 1, 1, 0x06, 1, .u 1, .ro, 9, .c 0, [], true⟩,
  ⟨0x1031, 1, 1, 0x07, 1, .u 1, .rws, 8, .c 3, [(1, 15)], true⟩]

/-- The catalogue. -/
def catalogue : List Entry :=
  rowsArchitecture ++
  rowsScheduler ++
  rowsRingLink ++
  rowsPopulation ++
  rowsMeasurement ++
  rowsProtection ++
  rowsEstimation ++
  rowsLearning ++
  rowsLimits ++
  rowsChannels ++
  rowsTines ++
  rowsSparing ++
  rowsArbitration ++
  rowsLockstep ++
  rowsTime ++
  rowsAccess ++
  rowsCommon ++
  rowsCan ++
  rowsRecorder ++
  rowsStartup

/-- Dictionary key of an index and a subindex (R7). -/
def okey (idx sub : Nat) : Nat := idx * 256 + sub

/-- Does the entry define index `idx`? -/
def Entry.hasIdx (e : Entry) (idx : Nat) : Bool :=
  e.base ≤ idx && (idx - e.base) % e.stride == 0 && (idx - e.base) / e.stride < e.count

/-- Does it define that subindex of it? -/
def Entry.has (e : Entry) (idx sub : Nat) : Bool :=
  e.hasIdx idx && e.sub ≤ sub && sub < e.sub + e.n

/-- The tables that can define an index, by its high byte. -/
def rowsAt (idx : Nat) : List Entry :=
  match idx / 256 with
  | 0x10 => rowsCommon ++ rowsStartup
  | 0x20 => rowsArchitecture ++ rowsAccess ++ rowsCommon
  | 0x21 => rowsScheduler ++ rowsSparing
  | 0x22 => rowsTime
  | 0x23 => rowsProtection
  | 0x24 => rowsChannels
  | 0x25 | 0x26 | 0x27 | 0x32 => rowsLimits
  | 0x28 | 0x44 | 0x45 | 0x46 | 0x47 => rowsEstimation
  | 0x29 | 0x48 | 0x49 | 0x4A | 0x4B => rowsLearning
  | 0x2A => rowsSparing
  | 0x2B => rowsRecorder
  | 0x2C => rowsAccess ++ rowsCommon
  | 0x2D => rowsCan
  | 0x2E => rowsTines
  | 0x30 => rowsRingLink ++ rowsMeasurement
  | 0x31 => rowsPopulation
  | 0x33 => rowsMeasurement
  | 0x40 | 0x41 | 0x42 | 0x43 => rowsCommon
  | 0x60 => rowsArchitecture ++ rowsArbitration ++ rowsLockstep ++ rowsCommon
  | 0x61 => rowsArbitration
  | n => if 0x50 ≤ n && n ≤ 0x58 then rowsRecorder else []

/-- The entry of an object. -/
def entryOf (idx sub : Nat) : Option Entry := (rowsAt idx).find? (·.has idx sub)

/-- An index exists where an entry defines it (R567). -/
def idxExists (idx : Nat) : Bool := (rowsAt idx).any (·.hasIdx idx)

/-- The highest subindex of an index, its subindex 00 (R568). -/
def highestSub (idx : Nat) : Nat :=
  ((rowsAt idx).filter (·.hasIdx idx)).foldl (fun m e => Nat.max m (e.sub + e.n - 1)) 0

/-- The action objects of R574 and the two of Event recorder and Tine slots that act when written. -/
def isAction (idx sub : Nat) : Bool :=
  (idx == 0x2000 && (sub == 0x02 || sub == 0x07)) || (idx == 0x2200 && sub == 0x10) ||
  (idx == 0x2300 && sub == 0x06) || (idx == 0x2800 && sub == 0x02) ||
  (0x2920 ≤ idx && idx ≤ 0x293F && sub == 0x0B) ||
  (0x3100 ≤ idx && idx ≤ 0x31FF && idx % 16 == 7 && sub == 0x0E) ||
  (0x6064 ≤ idx && idx ≤ 0x6067 && sub == 0x08) || (idx == 0x5000 && sub == 0x06)

/-- Default action of a trip source (R222): [33] ALERT, [32] LATCH, [31:16] RINGS, [15:0] CHANNELS. -/
def defaultAction (src : Nat) : Nat :=
  if src < 16 then 2 ^ 33 + 2 ^ 32 + 2 ^ (16 + src)
  else if src < 24 || src == 47 then 2 ^ 33 + 2 ^ 32 + 0xFFFF * 2 ^ 16
  else if src == 35 || src == 36 || src == 44 || src == 45 then 2 ^ 33
  else 0

/-- The event codes of the manual in ascending order, as runs of consecutive codes (R622 and the event tables). -/
def codeRuns : List (Nat × Nat) :=
  [(0x1001, 9), (0x1010, 15), (0x2001, 14), (0x3001, 13), (0x3010, 4), (0x4001, 14), (0x4010, 15), (0x4020, 1),
   (0x4022, 2), (0x5001, 7), (0x500A, 5), (0x5020, 9), (0x502A, 2), (0x6001, 11), (0x6020, 2), (0x6030, 12),
   (0x6040, 5), (0x6050, 4), (0x6060, 9), (0x7001, 16), (0x8001, 8), (0x800A, 1), (0x8020, 5), (0x8040, 9),
   (0x9001, 7), (0xA001, 1), (0xA003, 4), (0xA008, 2), (0xA010, 6), (0xA020, 2), (0xA030, 3), (0xB001, 12)]

/-- The code of default row `i`; 0 beyond the last code. -/
def rowCode (i : Nat) : List (Nat × Nat) → Nat
  | [] => 0
  | (c, n) :: rs => if i < n then c + i else rowCode (i - n) rs

/-- Codes whose default row is EXEMPT (R608, R624). -/
def exemptCode (c : Nat) : Bool :=
  c == 0x3001 || c == 0x3002 || c == 0x7003 || c == 0x7008 || c == 0xA010 || c == 0xA011 || c == 0xA014 ||
  (0x9001 ≤ c && c ≤ 0x9007) || c == 0xA031

/-- The default event matrix (R608): one row per code, DEPTH 16 and RATE 4; row 255 is the catch-all. -/
def defaultRow (i : Nat) : Nat :=
  let c := rowCode i codeRuns
  if i == 255 then 16 * 2 ^ 8 + 4
  else if c == 0 then 0
  else c * 2 ^ 48 + 0xFFFF * 2 ^ 32
    + (if 0x3001 ≤ c && c ≤ 0x3013 then 2 ^ 27 + 2 ^ 26 else 0)
    + (if exemptCode c then 2 ^ 25 else 0)
    + (if c == 0x7003 || c == 0x7008 || c == 0xA031 then 2 ^ 24 else 0)
    + 16 * 2 ^ 8 + 4

/-- The default of an object by its entry. -/
def Entry.default (e : Entry) (idx sub : Nat) : Nat :=
  match e.dflt with
  | .c v => v
  | .per vs => vs.getD (sub - e.sub) 0
  | .factory => Config.factory (okey idx sub)
  | .action => defaultAction (sub - 1)
  | .row => defaultRow ((idx - 0x2B40) * 16 + (sub - 1))

/-- The default of the object with key `k`; 0 where no entry defines it. -/
def dflt (k : Nat) : Nat :=
  match entryOf (k / 256) (k % 256) with
  | some e => e.default (k / 256) (k % 256)
  | none => 0

/-- Size in bytes of a value of a type with a fixed size. -/
def Ty.size : Ty → Nat
  | .u n | .i n | .str n | .record n => n
  | .r32 => 4
  | .dom _ hi => hi

end Sys2Proof.Machine
end

