-- ==== Sys2Proof/Machine/State.lean ====
section
/-!
DEFINITION. Sys2Proof/Machine/State.lean: everything the spec gives the machine, as plain data, and State.reset. Objects
of the dictionary that are nothing but a setting, a count or a measured value live in `od` and `dom` under their key
(index × 256 + subindex); the state machines of the chapters have fields of their own. Reset is the state of a first
power-on, in BOOT (R28), before POWER_ON has run.
-/

namespace Sys2Proof.Machine

/-- Why the machine stops with a fault: no command of this block does (the spec gives every command an effect). -/
inductive Fault where
  /-- raised by no command; safe -/
  | none
  deriving DecidableEq, Repr

/-- Why a command has no meaning. -/
inductive Refusal where
  /-- raised by an arm of exec that has no meaning yet; safe -/
  | notModelled (mnemonic : String)
  deriving DecidableEq, Repr

/-- Dictionary access statuses (R536); codes 0x00–0x0F in this order. -/
inductive Status where
  | ok | noObj | noSub | access | notOwner | notEdit | range | type | busy | refused | hwErr | role | segment | state
  | tooBig | stale
  deriving DecidableEq, Repr

/-- A dictionary status with its detail byte (R536), and the bytes that a read or a response carries. -/
structure Answer where
  status : Status := .ok
  detail : Nat := 0
  bytes  : List Byte := []
  deriving DecidableEq, Repr

/-- An event at the recorder's ingest port (R601). -/
structure Event where
  code   : Nat
  src    : Nat
  detail : List Byte
  pwrdie : Bool := false
  deriving DecidableEq, Repr

/-- Device modes (R28); their codes in 2000:01 are 1 to 6 in this order. -/
inductive Mode where
  | boot | discover | ready | active | safeHold | shutdown
  deriving DecidableEq, Repr

/-- The transition in progress (R31). -/
inductive Trans where
  | none | toActive | toReady | toShutdown
  deriving DecidableEq, Repr

/-- Section time (R42–R45): the tick edge in force and how far into the tick the block is. -/
structure Clock where
  /-- tick period P in force, ms: 1, 2 or 4 (R42) -/
  p       : Nat := 1
  /-- section time of the last tick edge, ns (2200:01) -/
  edge    : Nat := 0
  /-- ns since that edge -/
  off     : Nat := 0
  /-- a step of section time waiting for the next edge, ns (R513, R517) -/
  step    : Option Int := none
  /-- a committed tick period waiting for its 4 ms multiple (R46): 1, 2 or 4 -/
  newP    : Option Nat := none
  /-- TICKP and BOFS have been written to the slices for it -/
  told    : Bool := false
  /-- ticks since the last whole second of operating time -/
  subSec  : Nat := 0
  /-- ms since POR (0xA009) -/
  sincePor : Nat := 0
  deriving DecidableEq, Repr

/-- The die link (R9–R11, R41). -/
structure DieLink where
  /-- consecutive frames of each lane that failed their CRC -/
  failRun : Map Nat := []
  /-- loss declared in the downward (compute to power) and the upward direction -/
  lostDown : Bool := false
  lostUp   : Bool := false
  /-- ticks since the loss was declared -/
  lossTicks : Nat := 0
  deriving DecidableEq, Repr

/-- What a trip record of the power die holds (R237). -/
inductive TripRecKind where
  | edge (src : Nat) (rise : Bool) (word : Nat) (latched : Bool) (duration : Nat)
  | short (ring : Nat)
  | heartbeat (ring : Nat)
  | parity (item : Nat)
  deriving DecidableEq, Repr

structure TripRec where
  /-- timestamp of the 32.768 kHz clock -/
  time : Nat
  kind : TripRecKind
  deriving DecidableEq, Repr

/-- The trip matrix of the power die (R222–R237). Sources 0–47. -/
structure Trip where
  asserted : BitVec 48 := 0
  latched  : BitVec 48 := 0
  /-- the action word that each latch keeps -/
  latchWord : Map Nat := []
  /-- when each asserted source asserted, ns of the AON domain -/
  since : Map Nat := []
  /-- the active matrix by object key (2302, 2300:03, 2300:08–0A, 2304); unlisted items hold their default -/
  act : Map Nat := []
  /-- items whose word failed parity -/
  parity : List MatrixItem := []
  /-- the actions in force before the last swap, during its overlap -/
  oldAct : Option (Map Nat) := none
  /-- items written while the link was lost, which the shadow does not hold, by object key: what it holds instead (R233) -/
  unseen : Map Nat := []
  /-- a commit waits for the link (R234) -/
  swapDue : Bool := false
  /-- records kept while undelivered, oldest first, at most 16; of those lost, as many as 0x300D has reported (R237) -/
  recs : List TripRec := []
  lostTold : Nat := 0
  /-- ns that the AON domain had run at the last compute-die reset -/
  base : Nat := 0
  deriving DecidableEq, Repr

/-- Channel states (R367); codes 0–8 in this order. -/
inductive ChState where
  | off | ramp | inrush | on | limit | pause | latched | tripped | idle
  deriving DecidableEq, Repr

/-- One load channel (R358–R381), in the AON domain. -/
structure Channel where
  state : ChState := .off
  /-- the command in force -/
  cmd   : Bool := false
  /-- level of the IN pin after its 2 µs filter -/
  inPin : Bool := false
  /-- held off until a new on-command or IN rising edge (R226, R376) -/
  hold  : Bool := false
  fault : Nat := 0
  /-- causes of the faults counted, in their order: 1 short, 2 limit time, 3 ramp timeout, 4 over-temperature (R372) -/
  causes : List Nat := []
  /-- the state LIMIT was entered from -/
  from_ : ChState := .on
  /-- the inrush window has ended during LIMIT -/
  windowOver : Bool := false
  /-- the ramp is held for a supply dip -/
  dipHeld : Bool := false
  /-- the ramp resumed after 5 ms of a dip; no new hold until the supply has recovered (R375) -/
  dipDone : Bool := false
  /-- when the ramp was held, ns of the AON domain: every held ramp has its own 5 ms -/
  dipAt : Nat := 0
  /-- the inrush window of the ramp under way, ms: a change of 241k:09 applies from the next ramp (R385) -/
  window : Nat := 0
  /-- length of the pause under way, ms; 0 outside PAUSE (R372) -/
  pauseMs : Nat := 0
  /-- the pause has run out but the group is above 130 °C -/
  otHeld : Bool := false
  /-- when the last accepted on-command came, ns of the AON domain -/
  lastOn : Option Nat := none
  /-- tick of the last off-command (R555) -/
  offTick : Option Nat := none
  /-- both segments conduct, for 1 ms -/
  handover : Bool := false
  /-- a swap to the spare segment has been decided and waits -/
  swapWait : Bool := false
  /-- the spare segment is in use -/
  spare : Bool := false
  /-- consecutive measurements of the segment above the commissioning reference × 2A00:13 (R443) -/
  fetRun : Nat := 0
  deriving DecidableEq, Repr

/-- What the IS output of a channel carries (R367). -/
inductive IsLevel where
  | zero | current | fault
  deriving DecidableEq, Repr

/-- A group of four channels (R359, R375–R377). -/
structure ChGroup where
  /-- the supply is below 16.0 V and ramps are held -/
  dip : Bool := false
  /-- the temperature is above 130 °C after an over-temperature -/
  hot : Bool := false
  /-- it has fallen below 130 °C since the group was measured last -/
  fell : Bool := false
  deriving DecidableEq, Repr

/-- An entry of the power die's change record (R382): channel and the state it was put into. -/
structure Change where
  chan : Nat
  state : ChState
  deriving DecidableEq, Repr

/-- The channel image in eMRAM (R383). -/
structure ChanImage where
  g    : Nat := 0
  crc  : Word := 0
  cmds : Nat := 0
  deriving DecidableEq, Repr

/-- The adopt block that the compute die has read (R383). -/
structure AdoptBlock where
  g : Nat
  d : Nat
  cold : Bool
  crc : Word
  consistent : Bool
  /-- first unexplained difference: channel, 0xFF none -/
  diff : Nat
  deriving DecidableEq, Repr

/-- The handshake and hold state of the AON domain (R36, R382–R384). -/
structure Adopt where
  g        : Nat := 0
  d        : Nat := 0
  cold     : Bool := true
  /-- 2400:05: 0 pending, 1 complete, 2 opens only -/
  status   : Nat := 0
  opensOnly : Bool := false
  changes  : List Change := []
  overflow : Bool := false
  block    : Option AdoptBlock := none
  /-- the last compute-die restart was clean (R39) -/
  clean    : Bool := true
  /-- 0xA005 with cause LINK has been recorded for this wait -/
  waited   : Bool := false
  image    : ChanImage := {}
  /-- the SAFE-HOLD latch -/
  safeHold : Bool := false
  deriving DecidableEq, Repr

/-- String switching states (32nn:05); codes 0–7 in this order. -/
inductive SwState where
  | open | testing | closing | closed | held | ramping | opening | welded
  deriving DecidableEq, Repr

/-- The switching side of one string (R331–R355). -/
structure Str where
  sw : SwState := .open
  /-- waiting to close -/
  wait : Bool := false
  /-- to be opened by the ramp in progress or being opened -/
  toOpen : Bool := false
  /-- both paths are welded (R355) -/
  weldBoth : Bool := false
  /-- the tick in which it became CLOSED; the section counts it from the next one (R342, R353) -/
  closedTick : Option Nat := none
  emergency : Bool := false
  /-- tick of the last opening command (R555) -/
  openTick : Option Nat := none
  /-- policy factor in force, % of limits kept (R334) -/
  derate : Nat := 100
  /-- current and voltage of the last fresh KH2 slot without OPENED, mA and mV (R339) -/
  lastI : Int := 0
  lastV : Int := 0
  /-- ms for which C0 and C1 have shown closed with their coils off (R343) -/
  offMs0 : Nat := 0
  offMs1 : Nat := 0
  /-- its opening has been commanded and is not confirmed yet (R336), and the energy of that opening, mJ (0x5006) -/
  ordered : Bool := false
  openE  : Nat := 0
  deriving DecidableEq, Repr

/-- Section switching state (2500:01); codes 0–5. -/
inductive SecState where
  | open | precharge | closed | ramping | opening | fault
  deriving DecidableEq, Repr

/-- The step of the closing sequence in progress (R342, R346–R349). -/
inductive SeqStep where
  /-- solo test of C0 or C1 of a string -/
  | solo (s : Nat) (c1 : Bool) (dv0 : Int)
  /-- C1 energised, contact time running (step 3) -/
  | c1 (s : Nat)
  /-- C0 energised, contact time running (step 5) -/
  | c0 (s : Nat)
  /-- main negative on, contact time running -/
  | mainNeg
  /-- pre-charge running; τm passed -/
  | precharge (tauSeen : Bool)
  /-- main positive on, contact time running -/
  | mainPos (pre : Bool)
  /-- waiting out the retry pause -/
  | retryPause
  /-- opening in order: C1 of the strings after C0's contact time -/
  | opening
  /-- every opening is ordered; the KH2 slots have to confirm it (R336) -/
  | confirming
  deriving DecidableEq, Repr

/-- Section switching (R335–R354). -/
structure Switching where
  sec   : SecState := .open
  step  : Option SeqStep := none
  /-- the closing sequence of a transition to ACTIVE is running -/
  running : Bool := false
  /-- the first string's closing has R344 not applied -/
  first : Bool := false
  /-- strings the pass of R345 has still to try -/
  tries : Nat := 0
  /-- a ramp-down is in progress; the disconnect is of the section -/
  ramp  : Bool := false
  rampSection : Bool := false
  /-- consecutive fresh ticks, up to 3, in which the currents of the ramp have stayed low (R336) -/
  lowTicks : Nat := 0
  /-- the main positive contactor is welded -/
  mainWeld : Bool := false
  durationMs : Nat := 0
  tauMs : Nat := 0
  v0    : Int := 0
  deriving DecidableEq, Repr

/-- Run state of a function group (201g:03). -/
inductive Run where
  | run | hold | edit | check
  deriving DecidableEq, Repr

/-- How a claim goes on at the next tick edge (R546–R550). -/
inductive ClaimNext where
  | stay | commit | rollback
  deriving DecidableEq, Repr

/-- A semaphore claim (R545): one owner, all its groups, its staged writes. -/
structure Claim where
  id     : Nat
  owner  : Master
  edit   : Bool
  groups : Nat
  run    : Run
  /-- lease and what remains of it, ms -/
  lease  : Nat
  left   : Nat
  staged : Map Nat := []
  stagedDom : Map (List Byte) := []
  next   : ClaimNext := .stay
  deriving DecidableEq, Repr

/-- A record of the recorder (R606): the header fields and its snapshot slots. -/
structure Record where
  seq    : Nat
  ver    : Nat := 0
  optime : Nat
  tick   : Nat
  pcycle : Nat
  stime  : Nat
  flags  : Nat
  code   : Nat
  src    : Nat
  repeats : Nat := 0
  lost   : Nat
  lastOpt : Nat := 0
  lastTick : Nat := 0
  snapSet : Nat
  detail : List Byte
  snaps  : List (List Byte)
  deriving DecidableEq, Repr

/-- A record in the ingest FIFO with its place in the log, sector × 64 + slot (R605, R616, R620). -/
structure FifoRec where
  r   : Record
  at_ : Nat
  written : Bool := false
  /-- its header has changed since it was written -/
  dirty : Bool := false
  deriving DecidableEq, Repr

/-- The event recorder (R601–R621). -/
structure Recorder where
  nextSeq : Nat := 1
  fifo    : List FifoRec := []
  /-- tokens taken from each row's bucket, in 1/1,000 token; unlisted buckets are full -/
  spent   : Map Nat := []
  pendingLost : Nat := 0
  limiting : Bool := false
  /-- a loss since the last time with free slots has been recorded -/
  losing  : Bool := false
  /-- events suppressed while the limiting in force lasted -/
  supp    : Nat := 0
  /-- SEQ of the last record created in this power cycle -/
  last    : Option Nat := none
  /-- that record, once it has left the FIFO -/
  gone    : Option FifoRec := none
  flushing : Bool := false
  /-- eMRAM priority of the flush in progress (R614) -/
  flushPrio : Nat := 5
  /-- the log: slots by sector × 64 + slot; [] free -/
  log     : Map (List Byte) := []
  oldest  : Nat := 0
  /-- open sector: the one that the next slot is written to -/
  open_   : Nat := 0
  /-- sector and slot of the next record's place -/
  planSec : Nat := 0
  planSlot : Nat := 0
  /-- closing sector and its next slot (R618) -/
  closing : Option Nat := none
  closingSlot : Nat := 0
  /-- former closing sectors, passed over until released (R619) -/
  former  : List Nat := []
  /-- 0 RECORDING, 1 NEARFULL, 2 FULL -/
  full    : Nat := 0
  /-- SEQ of the last closing record -/
  closedSeq : Option Nat := none
  /-- slots written since SHUTDOWN was entered (R638) -/
  downSlots : Nat := 0
  /-- outcome of the trigger program for the event being ingested: snapshot set and flush (R610) -/
  trig    : Option (Nat × Bool) := none
  deriving DecidableEq, Repr

/-- The sample instant a slice has taken from a SAMPLE frame of one direction (R105, R109, R110). -/
structure Armed where
  instant : Nat
  seq     : Nat
  /-- burst entries that name this slice: element and burst slot index -/
  bursts  : List (Nat × Nat)
  deriving DecidableEq, Repr

/-- Module-tag operations of a slice (R306, R307). -/
structure TagUnit where
  /-- IDCTL status: 0 idle, 1 busy, 2 done, 3 error -/
  status : Nat := 0
  op     : Nat := 0
  buf    : List Byte := []
  nonce  : List Byte := []
  /-- response segment waiting for the next exchange slot -/
  resp   : List Byte := []
  deriving DecidableEq, Repr

/-- A KS16 or KH2 (R88–R128, R661). Its word registers are `regs`, by address; `eff` holds what is in effect (R116). -/
structure Slice where
  kh2    : Bool := false
  serial : BitVec 64 := 0
  /-- hardware revision and firmware version, TYPEVER [23:0] -/
  ver    : BitVec 24 := 0
  epoch  : Nat := 0
  /-- ROLE [15:8] and [7:3]: position, HEAD, HALF, TSRC, ORIENT, ADMIT -/
  posn   : Nat := 0
  flags  : Nat := 0
  cumA   : Nat := 0
  cumB   : Nat := 0
  str    : Nat := 0xFF
  regs   : Map Nat := []
  eff    : Map Nat := []
  /-- ring-time at its last correction, 48 bits, ns -/
  rtime  : Nat := 0
  /-- valid SAMPLE received for the next instant, from the down and the up direction -/
  armA   : Option Armed := none
  armB   : Option Armed := none
  /-- the last INSTANT and SEQ sampled at -/
  instant : Nat := 0
  seq    : Nat := 0
  /-- consecutive ticks without a valid SAMPLE -/
  missed : Nat := 0
  /-- bursts to take at the current instant -/
  todo   : List (Nat × Nat) := []
  /-- bursts taken in this tick, and those the tick's SWEEP carries: burst slot index and 44 bytes -/
  taken  : List (Nat × List Byte) := []
  bursts : List (Nat × List Byte) := []
  /-- content of the regular slot of the latest sample instant, 44 bytes; [] none (R161) -/
  slot   : List Byte := []
  opened : Bool := false
  tsync  : Bool := false
  /-- an OPEN-ALL symbol was removed from the down and from the up direction since its last SAMPLE (R108) -/
  openRecA : Bool := false
  openRecB : Bool := false
  /-- direction in which the last OPEN-ALL symbols were forwarded (true: up), and whether they were sent back as well (R123) -/
  openOut : Option Bool := none
  openBack : Bool := false
  /-- taps to inject at the next instant, and the elements whose balancing is held off in this tick: by the last injection (R196),
  and privileged ones that burst (R113) -/
  inject : Nat := 0
  holdOff : Nat := 0
  /-- lock of the receivers on the A and the B side, and "receiving you" from those hops -/
  lockA  : Bool := true
  lockB  : Bool := true
  peerA  : Bool := true
  peerB  : Bool := true
  /-- folding towards a broken hop on the A or the B side -/
  foldA  : Bool := false
  foldB  : Bool := false
  /-- the pairs of the connector facing that side are exchanged (R139) -/
  exchA  : Bool := false
  exchB  : Bool := false
  /-- duties in effect and duties of the next instant, by element -/
  duty   : Map Nat := []
  dutyNext : Option (Map Nat) := none
  dutyAge : Nat := 0
  /-- comparator states by channel -/
  ovt    : BitVec 16 := 0
  uvt    : BitVec 16 := 0
  loopBrk : Bool := false
  /-- coils energised -/
  c0     : Bool := false
  c1     : Bool := false
  /-- an accepted CLOSE whose 10 µs run: contactor mask -/
  close  : Option Nat := none
  /-- a self-test runs, and its ticks so far -/
  selftest : Bool := false
  selfTicks : Nat := 0
  alarms : Nat := 0
  /-- the KH2 opened its coils itself and the device has not yet recorded it -/
  localOpen : Bool := false
  rxerrA : Nat := 0
  rxerrB : Nat := 0
  lockCnt : Nat := 0
  stack  : Nat := 0
  /-- raw thermistor resistances of the latest sample, 10 Ω (R306) -/
  thraw  : List Nat := []
  tag    : TagUnit := {}
  /-- the frame it last sent, and whether it went back where it came from -/
  out    : Option Frame := none
  turned : Bool := false
  deriving DecidableEq, Repr

/-- A slice at power-up (R661). -/
def Slice.powerUp (kh2 : Bool) (serial : BitVec 64) (ver : BitVec 24) : Slice :=
  { kh2 := kh2, serial := serial, ver := ver, opened := kh2 }

/-- The slice at ring × 64 + position before anything else is known of it: a KH2 at positions 0 and 32 (R16). -/
def sliceDefault (k : Nat) : Slice :=
  Slice.powerUp (k % 32 == 0) (Config.sliceSerial k) (Config.sliceVersion k)

/-- An addressed request of a ring controller (R129, R130, R150). -/
structure Req where
  type    : Nat
  pos     : Nat
  payload : List Byte
  epoch   : Nat
  /-- serial number the herd table held at the position when it was issued -/
  serial  : Nat := 0
  /-- already sent again once after STALE_ROLE -/
  again   : Bool := false
  /-- it leaves on logical B whatever reaches its position (R169) -/
  viaB    : Bool := false
  /-- posted in this tick after the sweep program was stopped (R406) -/
  late    : Bool := false
  deriving DecidableEq, Repr

structure Tx where
  tag : Nat
  req : Req
  age : Nat := 0
  deriving DecidableEq, Repr

/-- An entry of the persistent herd table (R134). `state`: 0 EMPTY, 2 ADMITTED, 3 VACANT. -/
structure Herd where
  serial : Nat := 0
  type   : Nat := 0
  flags  : Nat := 0
  cumA   : Nat := 0
  cumB   : Nat := 0
  str    : Nat := 0xFF
  state  : Nat := 0
  epoch  : Nat := 0
  deriving DecidableEq, Repr

/-- How far the exchange with a fawn has come (R104, R307): the segment requested last, 0 where its answer was BUSY, the answers
by segment, and the nonce of CHAL. -/
structure Exch where
  asked : Nat := 0
  got   : Map (List Byte) := []
  nonce : List Byte := []
  deriving DecidableEq, Repr

/-- A ring controller and its two master ports (R129–R171). -/
structure Ring where
  nextTag : Nat := 0
  queue   : List Req := []
  txs     : List Tx := []
  /-- responses delivered to the issuers: tag, status, payload -/
  resps   : List (Nat × Nat × List Byte) := []
  /-- frames sent in this tick on the A and the B port -/
  sentA   : List Frame := []
  sentB   : List Frame := []
  /-- pairs of the physical ports exchanged -/
  crossA  : Bool := false
  crossB  : Bool := false
  /-- the slices on logical A and B idle "receiving you" (R126, R132) -/
  peerA   : Bool := false
  peerB   : Bool := false
  /-- discovery is running -/
  disc    : Bool := false
  /-- the ring has been discovered or has timed out since DISCOVER -/
  done    : Bool := false
  portx   : Bool := false
  /-- slots that arrived in this tick, by position -/
  got     : BitVec 64 := 0
  /-- fawns in the order of their discovery -/
  fawns   : List Nat := []
  /-- causes reported for waiting fawns (R82) -/
  fawnCause : Map Nat := []
  /-- exchanges with the fawns, by position -/
  exch    : Map Exch := []
  /-- frames of the sweep program that wait for a tag (R130) -/
  held    : List Frame := []
  /-- consecutive ticks each slot has been missing -/
  missing : Map Nat := []
  /-- vacancy holds: slice type and 16 × the privileged mask held, by position (R83) -/
  hold    : Map Nat := []
  /-- break: the number of slices last seen to be reached from logical A and from logical B -/
  brk     : Option (Nat × Nat) := none
  /-- sending on logical B is stopped after a population mismatch -/
  stopB   : Bool := false
  /-- positions that the recovery SWEEPs of this tick are to bring, per port, one mask for each that is not back -/
  recA    : List Nat := []
  recB    : List Nat := []
  /-- positions whose slots the regular SWEEP of this tick is still to bring, per port (R163) -/
  dueA    : Nat := 0
  dueB    : Nat := 0
  /-- bursts and the exchange slot of a folded side are stopped -/
  noExtraA : Bool := false
  noExtraB : Bool := false
  /-- counts whose bursts the latest SAMPLE names, and those of the SAMPLE before it, per port -/
  burstA  : List Nat × List Nat := ([], [])
  burstB  : List Nat × List Nat := ([], [])
  /-- counts whose burst slots the SWEEP of this tick carries, per port -/
  sweptA  : List Nat := []
  sweptB  : List Nat := []
  brkTicks : Nat := 0
  /-- a break has been seen by a frame that stopped, and counted, and its place is not known yet (R157) -/
  brkSeen : Bool := false
  /-- the break has been found or has moved in this tick, and its slots have not been looked for at 0.25P yet (R163) -/
  brkNew  : Bool := false
  /-- positions without a path at the last 0.25P, and those without one at the last two (R166) -/
  cut     : Nat := 0
  cut2    : Nat := 0
  /-- the UNFOLD of the last probe was answered OK (R169); the ring was restored in this tick (R156) -/
  unfoldOk : Bool := false
  restored : Bool := false
  /-- positions to be enumerated and assigned again after STALE_ROLE (R150) -/
  reenum  : Nat := 0
  /-- latency L of logical A and B, 0.125 ns, as calibrated (R145) -/
  latA    : Nat := 0
  latB    : Nat := 0
  /-- number of slices last reported by a mismatch -/
  mismatch : Option Nat := none
  /-- taps that the background injection has done in its round, by position (R206) -/
  bgDone  : Map Nat := []
  /-- its block could not field four healthy lanes at the start (R29) -/
  unfit   : Bool := false
  /-- LOOPn: heartbeat or short seen -/
  short   : Bool := false
  hbLost  : Bool := false
  /-- the sweep program was stopped; only privileged frames are sent (R406) -/
  limited : Bool := false
  deriving DecidableEq, Repr

/-- The scheduler (R42–R85). -/
structure Sched where
  /-- an overrun of this tick -/
  overrun : Bool := false
  /-- consecutive ticks without an overrun -/
  calm    : Nat := 0
  /-- highest measured cycles per job, where they exceed the declared figure, by job number -/
  raised  : Map Nat := []
  /-- admissions decided in this guard phase: ring × 64 + position -/
  admits   : List Nat := []
  /-- a boundary move decided: block × 4 + boundary, new first position -/
  move    : Map Nat := []
  /-- spare lane takeovers decided, by block: 8 × cause + the physical lane replaced, 5 for one already out of service -/
  takeover : Map Nat := []
  /-- the spread of a block that its boundaries are moving to, one a tick: four first positions, half-rate positions, positions
  without estimation (R73, R77) -/
  spread   : Map (List Nat) := []
  /-- physical lane of each logical lane, where not its own -/
  phys    : Map Nat := []
  /-- slot + 1 of the kernel that a block's lanes hold for a code, by block × 256 + code, where a broadcast has put it there (R419) -/
  loaded  : Map Nat := []
  /-- consecutive stale ticks of each logical lane (R319) -/
  staleFor : Map Nat := []
  published : Bool := true
  /-- lanes whose protection or estimation ended in a fault in this tick -/
  protFail : BitVec 64 := 0
  estFail  : BitVec 64 := 0
  /-- positions without estimation, by ring (R78) -/
  noEst   : Map Nat := []
  deriving DecidableEq, Repr

/-- The latest slot content of a position, 44 bytes, its SEQ, its stale age and whether it was untimed (R175, R395); the slot before
it (R195), and each element's last fresh code before it with its CHINV bit, as a slot (R199). -/
structure SlotRec where
  bytes   : List Byte := []
  seq     : Nat := 0
  age     : Nat := 0
  untimed : Bool := false
  last    : List Byte := []
  lastSeq : Nat := 0
  prev    : List Byte := []
  deriving DecidableEq, Repr

/-- Front-end counts of R187–R193. -/
structure Front where
  /-- 0xFFFF FFFE results in a row, results below and above the alarm threshold in a row, and the last valid result, by
  bus -/
  invalid : Map Nat := []
  below   : Map Nat := []
  above   : Map Nat := []
  prev    : Map Nat := []
  /-- with the buses connected, the bus whose channel measures in this period (R191): true for B -/
  imB     : Bool := false
  /-- consecutive ticks of disagreement, and whether the disagreement has been recorded -/
  disagree : Nat := 0
  disSaid : Bool := false
  /-- consecutive ticks in which the string current sum disagrees with the section current (R252) -/
  sumDis  : Nat := 0
  /-- channels that have shown an over-range and not left it: CSA, CSB, HLA, HLB, HV0–HV7 -/
  overs   : Nat := 0
  /-- HV values before this tick's sample, the tick of the sample and the tick of the last divider test, plus 1 -/
  hvPrev  : List Nat := []
  hvAt    : Nat := 0
  hvTest  : Nat := 0
  /-- burst samples of CSA, CSB, HLA, HLB: those of this tick, and those the fast tier works with (R182) -/
  burstsNew : List (List Int) := []
  bursts  : List (List Int) := []
  /-- ms above 105 °C since the last whole hour (6020:0A) -/
  hotMs   : Nat := 0
  deriving DecidableEq, Repr

/-- What the lane keeps of a slice under observation (R199–R206). -/
structure Suspect where
  /-- the observation: 0 none, 1 + e for an opposite pair at e, e + 1, 17 + e for element e alone -/
  obs   : Nat := 0
  count : Nat := 0
  /-- taps whose injection is awaited, and attempts made -/
  taps  : Nat := 0
  tries : Nat := 0
  /-- taps whose INJECT has left for the next sample instant, and those injected at the latest one (R196) -/
  injNext : Nat := 0
  inj   : Nat := 0
  /-- the last STACK reading -/
  stack : Nat := 0
  /-- its temperature is substituted, and the entry has been recorded (R259) -/
  tempSub : Bool := false
  /-- 1 + the larger shift of the last injection of each tap, 100 µV -/
  shift : Map Nat := []
  /-- fresh ticks for which each classified item of 302n has been absent -/
  absent : Map Nat := []
  deriving DecidableEq, Repr

/-- What a lane keeps of an element beside its fast record (R255–R271, R279, R295, R316, R328). -/
structure Elem where
  /-- cause of an initialisation still to be made: 0 none, 1 admission or no saved state, 2 change of profile, 3 R261 or
  a stale period, 4 new identity -/
  want    : Nat := 0
  /-- innovation of the last update, and whether that update was made without gating in the last tick -/
  nuPrev  : F32 := 0
  updated : Bool := false
  /-- modelled voltage of the last update (R260) -/
  y       : F32 := 0
  /-- stale ticks since its admission of an element that is not initialised yet, saturating at 255 (R262) -/
  wait    : Nat := 0
  /-- a rest point anchors it in its next fresh tick (R272) -/
  anchorDue : Bool := false
  /-- ticks since the last gated update, saturating at 16 -/
  sinceGate : Nat := 16
  /-- the next update uses vscale 1 (R261) -/
  reacq   : Bool := false
  /-- sum and number of the ratios RSF / Rs0 since the last fold -/
  rsSum   : F32 := 0
  rsN     : Nat := 0
  /-- sums of true SoC and temperature over the ticks since the last hourly job, and their number (R296) -/
  hourSoc : Nat := 0
  hourT   : Int := 0
  hourN   : Nat := 0
  /-- relaxation reference, and the least and greatest TUSED since SETTLING began -/
  ref     : Nat := 0
  tLo     : Int := 0
  tHi     : Int := 0
  /-- limits of the tick, mA: discharge then charge, four horizons each; [] none -/
  lims    : List Nat := []
  /-- vrel and the resistance sum of each of them (R318) -/
  vrel    : List F32 := []
  rsum    : List F32 := []
  /-- which of them temperature derates, and which the SoC margin bounds -/
  thermal : Nat := 0
  sigma   : Nat := 0
  /-- Σ duty × VUSED over the balancing interval's ticks -/
  drained : Nat := 0
  /-- the string's charge counters as far as the hourly job has folded them, µC -/
  foldIn  : Nat := 0
  /-- balancing charge since the last rest point, µC -/
  balUc   : Nat := 0
  foldOut : Nat := 0
  /-- tick count, plus 1, at which its last rest point was logged (R311) -/
  logged  : Nat := 0
  /-- sum and number of the daily mean ratios since the last history entry -/
  daySum  : F32 := 0
  dayN    : Nat := 0
  deriving DecidableEq, Repr

/-- What the block keeps of a string beside its objects (R249–R254, R277, R281, R318–R322, R325). -/
structure EStr where
  bias    : F32 := 0
  /-- bias written in this tick and in force from the next (R254) -/
  biasNext : F32 := 0
  /-- sums of q·Δs and element counts of the last tick, and whether a lane of the string was stale -/
  sum     : F32 := 0
  cnt     : Nat := 0
  laneStale : Bool := false
  share   : F32 := 0
  /-- the host has cancelled the rest request since the last tick edge (R288) -/
  cancelled : Bool := false
  /-- CNTEST ticks since BOOT -/
  cntEst  : Nat := 0
  /-- most consecutive ticks for which a lane's entries have stood in for it (R319), and the cause of the zero state in force -/
  stale   : Nat := 0
  zero    : Nat := 0
  /-- cause and worst element of the last failed check of R279 (0 none yet) -/
  restCause : Nat := 0
  restWorst : Nat := 0
  /-- that element's relaxation in the check, 100 µV (R314) -/
  restRelax : Nat := 0
  /-- time quiet, ms -/
  quietMs : Nat := 0
  /-- rest id of the last rest point since BOOT, 0 none -/
  restId  : Nat := 0
  /-- operating time of the last verified rest point or of the string's admission -/
  sinceRest : Option Nat := none
  /-- string voltage sums by limit: Σvrel and Σ of the resistances -/
  vrel    : List F32 := []
  rsum    : List F32 := []
  /-- computed limits of the tick, before the rise rate (R320, R322) -/
  comp    : List Nat := []
  /-- cause for which balancing is stopped, 0 none -/
  balStop : Nat := 0
  /-- the least SOCTRUE of its eligible elements in the first tick of the update interval (R326) -/
  balMin  : Option Nat := none
  /-- update intervals for which the last duties have stood while the slow tier is shed -/
  balShed : Nat := 0
  /-- operating time at which the string's DISAGREE was set (R334) -/
  disAt   : Option Nat := none
  /-- the largest SoC loss beyond the median at the last rest point, 0.01 % a day (R334) -/
  drift   : Nat := 0
  deriving DecidableEq, Repr

/-- States of a cache page (R427); an EMPTY page is not listed. -/
inductive PageState where
  | fetching | clean | soft | dirty | writing
  deriving DecidableEq, Repr

/-- The areas of the eMRAM (R19). -/
inductive MramArea where
  | slow | log | pool | imageA | imageB | tines | config
  deriving DecidableEq, Repr

/-- A slow-record page in the cache (R425–R436). -/
structure Page where
  st    : PageState := .fetching
  /-- its place among the 512 cache pages -/
  frame : Nat := 0
  /-- the four records -/
  recs  : List (List Byte) := []
  /-- granted to a job -/
  grant : Bool := false
  /-- when it was last granted, ms since POR -/
  granted : Nat := 0
  /-- change while WRITING: 0 none, 1 SOFT, 2 DIRTY -/
  changed : Nat := 0
  /-- start of the write-back in progress -/
  started : Nat := 0
  deriving DecidableEq, Repr

inductive MramKind where
  | fetch | write | read
  deriving DecidableEq, Repr

/-- A request that waits for the eMRAM controller (R437, R458): its class 1–7, the page, or for a read the element, and whether it bleats. -/
structure MramReq where
  cls  : Nat
  kind : MramKind
  unit : Nat
  loud : Bool := false
  deriving DecidableEq, Repr

/-- The pager, the eMRAM behind it and the spare manager's tables (R424–R448). -/
structure Pager where
  /-- slow records in eMRAM by global element; [] never written -/
  slow    : Map (List Byte) := []
  /-- cached pages by page number, in the order of their numbers -/
  cache   : List (Nat × Page) := []
  /-- pages that deferred jobs have asked for -/
  wanted  : List Nat := []
  /-- previous write-back by page, ms since POR, 0 none -/
  wb      : Map Nat := []
  /-- pages whose sector is to be moved (R441) -/
  move    : List Nat := []
  /-- pool sectors in use, the pool sector of each page moved there, and that which a page is moving to (R441) -/
  pool    : List Nat := []
  remap   : Map Nat := []
  moveTo  : Map Nat := []
  /-- HOLDUP is low: the dirty count is held at 0 (R641) -/
  hold    : Bool := false
  /-- pages the flush in progress has to write, where one runs, and those of the last one (R638) -/
  flush   : Option Nat := none
  flushed : Nat := 0
  /-- sectors whose flush left a row unverified (R440) -/
  bad     : List Nat := []
  /-- units of a class without a spare that have been reported worn, class + 8 × unit (R448) -/
  worn    : List Nat := []
  /-- elements whose record a read waits for until 0.95P, oldest first (R432) -/
  reads   : List Nat := []
  /-- records changed since the last slow phase ended, as they stood then (R301, R432) -/
  before  : Map (List Byte) := []
  /-- requests that the eMRAM controller has not started yet, oldest first (R426, R437) -/
  reqs    : List MramReq := []
  /-- log sectors that a log flush is writing, until LOG_FLUSH_COMPLETE (R426, R614) -/
  logW    : List Nat := []
  /-- operating time of the errors in a lane's local memories, by block × 5 + physical lane, over 24 h (R388, R443) -/
  errs    : Map (List Nat) := []
  /-- the same of the corrected errors in a row of the SRAM, by macro × 65536 + row (R443) -/
  rowErrs : Map (List Nat) := []
  /-- SRAM rows that the last guard phase has copied, for the next edge, and those spared by macro × 65536 + row (R443, R447) -/
  rowDue  : List Nat := []
  rowGone : List Nat := []
  /-- row writes of a page's sector, and the rows of its last 1,000 that needed retries: their number and their retries (R443) -/
  rows    : Map (Nat × List (Nat × Nat)) := []
  /-- write-backs of a bank over 24 h: operating time and the retries of their 128 rows (2A40+b:02) -/
  bankRows : Map (List (Nat × Nat)) := []
  deriving DecidableEq, Repr

/-- The registers of a job of a Tine (R389–R391, R405). V registers are kept by halves. -/
structure Job where
  g     : Map Word := []
  vl    : Map F32 := []
  vh    : Map F32 := []
  stat  : Nat := 0
  pc    : Nat := 0
  cyc   : Nat := 0
  /-- cycle at which a result becomes usable: G by number, low halves of V at 32 + number, high halves at 48 + number -/
  ready : Map Nat := []
  /-- JOB (R391): kind 1 protection, 2 estimator, 3 slow; 0 outside lanes -/
  kind  : Nat := 0
  entry : Nat := 0
  lim   : Nat := 0
  /-- slot of the image it runs -/
  image : Nat := 0
  /-- pages granted to it -/
  pages : List Nat := []
  deriving DecidableEq, Repr

/-- A Tine (R387–R412). -/
structure Tine where
  /-- an invocation is in progress -/
  run   : Bool := false
  /-- the invocation for the event at the ingest port has ended (recorder) -/
  ended : Bool := false
  /-- the last invocation ended in a fault (R408) -/
  bad   : Bool := false
  /-- events waited for in WFE -/
  wait  : Option Nat := none
  job   : Job := {}
  /-- cause and pc of the last fault of each job, by `Job.key` (CAUSE, R391) -/
  causes : Map Nat := []
  wake  : Nat := 0
  timer : Nat := 0
  /-- disposition set by CDISP -/
  disp  : Option Nat := none
  /-- suspended slow-job contexts, by number (R403) -/
  ctxs  : Map Job := []
  /-- the protection program has ended in this tick (R49) -/
  protRan : Bool := false
  /-- estimator jobs started in this tick: one for each kernel of the lane's strings (R49, R400) -/
  estRan : Nat := 0
  /-- cycles of the slow jobs placed in this tick, and the due tick of the last of them (R58) -/
  slow  : Nat := 0
  due   : Nat := 0
  /-- status of the last request addressed to the lane (R75): 0, or STALE_ROLE -/
  reply : Nat := 0
  /-- placements of an image in a row that ended in a fault, by its slot (R410) -/
  faults : Map Nat := []
  /-- halted by a debugger (R493) -/
  halted : Bool := false
  /-- a halted core that executes one instruction: a single step (R493) -/
  once  : Bool := false
  /-- stopped by a mismatch or a checker fault, or retired without a spare (R484, R490) -/
  stopped : Bool := false
  retired : Bool := false
  deriving DecidableEq, Repr

/-- Program images: slots 0–7 hold the resident images of the firmware (R416); 32 and 33 stand for the firmware images A
and B of R631. -/
def imageDefault (k : Nat) : List Byte := if k < 8 || k == 32 || k == 33 then Config.residentImage k else []

/-- A CAN mailbox (R591–R593). -/
structure Mailbox where
  /-- 0 EMPTY, 1 PENDING, 2 TRANSMITTING, 3 SENT, 4 CANCELLED, 5 TOOLATE, 6 FAILED -/
  state  : Nat := 0
  /-- the 72-byte record -/
  data   : List Byte := []
  /-- a cancel is registered for the attempt in progress -/
  cancel : Bool := false
  /-- a frame of the next process-data set or reference message that waits for the mailbox -/
  next   : Option (List Byte) := none
  deriving DecidableEq, Repr

/-- A CAN port (R585–R598). -/
structure CanPort where
  /-- 80-byte entries the filter program has not disposed of yet, oldest first -/
  ring    : List (List Byte) := []
  /-- entries in host queues 0–7 and in the unsorted queue, 8 -/
  queues  : Map (List (List Byte)) := []
  /-- entries for the USDO server -/
  usdo    : List (List Byte) := []
  /-- frames have been dropped since the last entry was written -/
  dropped : Bool := false
  boxes   : Map Mailbox := []
  /-- mailbox whose attempt is in progress -/
  attempt : Option Nat := none
  /-- attempts failed while lone -/
  loneFails : Nat := 0
  /-- reference mark of the attempt in progress in mailbox 0, and that of the last reference message sent (R527, R598) -/
  refMark : Nat := 0
  refSent : Nat := 0
  deriving DecidableEq, Repr

/-- The servo of a PTP domain beside its objects 221d (R511–R516). -/
structure Domain where
  /-- consecutive discarded samples, residuals within and beyond the lock threshold, offsets within the agreement threshold -/
  streak : Nat := 0
  good   : Nat := 0
  bad    : Nat := 0
  near   : Nat := 0
  /-- of the grandmaster's last announce -/
  timeSource : Nat := 0xA0
  utc    : Int := 0
  flags  : Byte := 0
  arb    : Bool := false
  deriving DecidableEq, Repr

/-- What the device last advertised on a D port (R524). -/
structure Advert where
  domain : Nat := 0
  prio1  : Nat := 0
  prio2  : Nat := 0
  class_ : Nat := 0
  source : Nat := 0
  utc    : Int := 0
  flags  : Byte := 0
  arb    : Bool := false
  oneStep : Bool := false
  time   : Nat := 0
  deriving DecidableEq, Repr

/-- A delay request answered on a D port: the slave's identity, the receive timestamp and whether it was peer-to-peer
(R507, R508). -/
structure DelayResp where
  ident : Nat := 0
  time  : Nat := 0
  peer  : Bool := false
  deriving DecidableEq, Repr

/-- The time unit beside the objects 2200–2241 (R502–R527). -/
structure TimeUnit where
  dom    : Map Domain := []
  /-- the selected domain -/
  sel    : Option Nat := none
  /-- a step that waits for the tick edge: its domain and the issuing master's code, 0 at first lock -/
  pend   : Option (Nat × Nat) := none
  /-- time in holdover, ms -/
  holdMs : Nat := 0
  /-- changes of the rate word, newest first: ms since POR and ppb -/
  rates  : List (Nat × Int) := []
  /-- capture FIFO of each input: section time and quality -/
  fifo   : Map (List (Nat × Nat)) := []
  /-- the time, plus 1, whose single pulse each TRIG output has emitted or missed; the rise, plus 1, and the fall of its last pulse -/
  fired  : Map Nat := []
  pulse  : Map (Nat × Nat) := []
  /-- section times at which PPS_OUT last rose and falls again -/
  pps    : Option (Nat × Nat) := none
  /-- flags of the UTC offset 2200:0F, as last taken from a selected domain -/
  flags  : Byte := 0
  /-- foreign identities seen on the D ports -/
  foreign : List (Nat × Nat) := []
  adv    : Map Advert := []
  delays : Map DelayResp := []
  deriving DecidableEq, Repr

/-- Starts, restarts and the way down (R625–R645). -/
structure Power where
  /-- POWER_ON has run in this BOOT -/
  started : Bool := false
  /-- mode code before the start in progress; 0 at the first -/
  from_   : Nat := 0
  /-- cause of a start that has not reached READY yet; 0 once it has -/
  booting : Nat := 0
  /-- code of the master whose commanded restart waits for the tick edge (R579) -/
  restart : Option Nat := none
  /-- both firmware images failed (R631) -/
  recovery : Bool := false
  /-- cause of the way down in progress: 0 none, 1 VAUX drop, 2 mode request SHUTDOWN (R638) -/
  cause   : Nat := 0
  /-- mode before SHUTDOWN -/
  before  : Nat := 0
  /-- the closing record is written and the compute die is held in reset -/
  closed  : Bool := false
  /-- VAUX has been below 17.0 V since the way down began -/
  dropped : Bool := false
  /-- a supply of the compute die, VCORE, VIO or V33, has been lost and no start has run since (R651) -/
  noRail  : Bool := false
  /-- time VAUX spent below 17.0 V, ms, for the next start to record (R642) -/
  below   : Option Nat := none
  /-- section time of the last closing record (R503), and HOLDUP in it, mV (R635) -/
  closeTime : Option Nat := none
  holdup  : Option Nat := none
  /-- duration of the debug session that the reset ended, s, for the next start to record (R499) -/
  ended   : Option Nat := none
  deriving DecidableEq, Repr

/-- Lockstep pairs and the debug port (R475–R499). Pairs are numbered as their Tines; 101 and 102 are the supervisor pair in
service and its spare. -/
structure Lockstep where
  /-- operating times of the mismatches of each pair, s (R487, R490) -/
  times   : Map (List Nat) := []
  /-- pairs with a checker fault -/
  checker : List Nat := []
  /-- the injection of R482 that the next guard phase makes, 0–334 (R483) -/
  inj     : Nat := 0
  /-- the supervisor pair in service has failed in this tick (R489) -/
  supFault : Bool := false
  /-- lanes whose results of the tick are discarded, by logical lane (R461, R485) -/
  stale   : BitVec 64 := 0
  /-- the nonce drawn for the challenge, its request word, and when it was issued, ms since POR (R496) -/
  nonce   : List Byte := []
  request : Nat := 0
  issued  : Nat := 0
  /-- the challenge has had its response (R497) -/
  used    : Bool := false
  /-- start of the session, ms since POR, and the target of a single-pair session -/
  since   : Nat := 0
  target  : Nat := 0
  /-- a single-pair session waits for the spare to take the lane's range (R492) -/
  waiting : Bool := false
  /-- swaps already reported as deferred, by block (R446) -/
  deferred : List Nat := []
  /-- comparison is broken in the whole chip, the pairs without a bit in 604b:03 included (R494) -/
  chipOff : Bool := false
  deriving DecidableEq, Repr

/-- A Sweram session (R530–R540). -/
structure Session where
  /-- role granted by the lists: 0 closed, 1 A, 2 B, 3 observer -/
  role   : Nat := 0
  /-- the peer is the parent that sent DISCOVER on the port -/
  parent : Bool := false
  port   : Nat := 0
  /-- fingerprint of the peer's certificate -/
  print  : List Byte := []
  /-- responses to the last 16 SEQ values, oldest first (R538) -/
  store  : List (Nat × Answer) := []
  /-- subscription: period in ticks, 0 none, and items (R540) -/
  period : Nat := 0
  items  : List (Nat × Nat) := []
  deriving DecidableEq, Repr

/-- A child slot beside its objects 2C9k (R557–R563). -/
structure Child where
  serial : Nat := 0
  /-- age of the last summary at its receipt with the link delay, ns, and when it arrived, ns since POR -/
  age    : Nat := 0
  at_    : Nat := 0
  /-- a summary has arrived on this connection -/
  heard  : Bool := false
  deriving DecidableEq, Repr

/-- A segmented USDO transfer (R541): the object, its direction, the bytes received or the value sent, and the position. -/
structure Transfer where
  idx : Nat
  sub : Nat
  up  : Bool
  buf : List Byte
  pos : Nat := 0
  deriving DecidableEq, Repr

/-- Everything but the command queue, the event recorder and the Tines' memories. -/
structure Chip where
  /-- number of free values drawn; a field of the model, not of the spec (log entry 1) -/
  fresh   : Nat := 0
  /-- answer to the latest access or request -/
  ans     : Answer := {}
  /-- dictionary objects of a fixed size, by key, where they differ from their default -/
  od      : Map Nat := []
  /-- domain objects -/
  dom     : Map (List Byte) := []
  mode    : Mode := .boot
  trans   : Trans := .none
  /-- tick of the last mode request READY (R33) -/
  readyTick : Option Nat := none
  /-- issuer of a mode request ACTIVE of this tick, which is taken at the tick edge unless READY follows it (R33), and what
  became of the last one -/
  actReq  : Option Nat := none
  actAns  : Option Status := none
  clk     : Clock := {}
  /-- the compute die runs; false while it is held in reset (R640) -/
  up      : Bool := true
  link    : DieLink := {}
  trip    : Trip := {}
  chan    : Map Channel := []
  group   : Map ChGroup := []
  adopt   : Adopt := {}
  strs    : Map Str := []
  swi     : Switching := {}
  claims  : List Claim := []
  nextClaim : Nat := 1
  port    : List Event := []
  slices  : Map Slice := []
  rings   : Map Ring := []
  /-- persistent herd tables, by ring × 64 + position -/
  herd    : Map Herd := []
  sched   : Sched := {}
  front   : Front := {}
  /-- latest slot of each position, by ring × 64 + position -/
  slotData : Map SlotRec := []
  /-- the copies of them that reads deliver: that of the last publish phase and the one before it (R64, R575) -/
  slotPub : Map SlotRec := []
  slotOld : Map SlotRec := []
  /-- burst slots of the tick: by (ring × 64 + position) × 16 + element, 44 bytes -/
  burstData : Map (List Byte) := []
  /-- balancing duties staged for the DUTY frames, by global element (R326) -/
  duty    : Map Nat := []
  suspects : Map Suspect := []
  /-- halves whose filter is settling, by ring × 2 + half -/
  settling : Map Nat := []
  /-- conditions of the protection program that act (R331): condition × 16384 + element; 1 where it acts -/
  acting  : Map Nat := []
  /-- consecutive fresh ticks for which each of them has held, those before this tick, and the temperatures of each element over the
  last 10 s, newest first: ms since POR and 0.01 °C (R331) -/
  prot    : Map Nat := []
  protOld : Map Nat := []
  tHist   : Map (List (Nat × Int)) := []
  /-- fast records by global element, 128 bytes (R273); [] none -/
  fast    : Map (List Byte) := []
  /-- the fast records and the lanes' own data as they stood before this tick's fast tier (R21, R62) -/
  fastOld : Map (List Byte) := []
  elemOld : Map Elem := []
  /-- the copy taken at the publish phase (R274) -/
  pub     : Map (List Byte) := []
  /-- the copy before it and the published objects before this tick's, which stand where the publish phase overruns (R64) -/
  pubOld  : Map (List Byte) := []
  limOld  : Map Nat := []
  /-- the flags 2840+n:0E before this tick's, plus 1, and plus 131,072 while they stand (R64) -/
  flagsOld : Map Nat := []
  elem    : Map Elem := []
  estr    : Map EStr := []
  pager   : Pager := {}
  tines   : Map Tine := []
  /-- program images by slot (R416) -/
  images  : Map (List Byte) := []
  /-- kernels to be broadcast in the next guard phase, by slot (R419) -/
  kernels : List Nat := []
  cans    : Map CanPort := []
  /-- a reserve release written for the next tick edge: the value and the issuing master's code (R266) -/
  release : Option (Nat × Nat) := none
  /-- committed values of profile objects that wait for their PROFILE_APPLY (R246) -/
  profPend : Map Nat := []
  profPendDom : Map (List Byte) := []
  /-- learned capacities that the fast records take at the next tick edge, by global element (R284) -/
  newQ    : Map F32 := []
  power   : Power := {}
  lock    : Lockstep := {}
  /-- operating times of each region's last faults, s, and how far the region is through its reset (R461, R462) -/
  regions : Map (List Nat) := []
  /-- arbiters by number: the input of the last grant plus 1, and the inputs that bleat (R453, R454) -/
  arbLast : Map Nat := []
  bleats  : Map Nat := []
  /-- pulses that the last handshake of each crossing delivered, and the generation bits of its two sides, 2 × receiver + sender (R466,
  R469) -/
  pulses  : Map Nat := []
  gens    : Map Nat := []
  /-- rings whose working herd table is reloaded at the next tick edge (R460) -/
  reload  : List Nat := []
  time    : TimeUnit := {}
  sessions : Map Session := []
  /-- fingerprint in the last DISCOVER received on ETA and on ETB -/
  parents : Map (List Byte) := []
  children : Map Child := []
  usdo    : Option Transfer := none
  deriving DecidableEq, Repr

/-- The state of the block. -/
structure State where
  /-- commands waiting, first in, first out -/
  pending : List Instr
  chip    : Chip
  /-- the event recorder (R601–R624) -/
  rcd     : Recorder
  /-- data memories of the Tines and shared SRAM, by space and address (R403) -/
  mem     : Memory
  deriving DecidableEq, Repr

/-- The machine at its first power-on: in BOOT, AON domain cleared with COLD set (R382), nothing discovered, no command
waiting, memory with nothing listed. -/
def State.reset : State := { pending := [], chip := {}, rcd := {}, mem := [] }

end Sys2Proof.Machine
end

