-- ==== Sys2Proof/Machine/Flags.lean ====
section
/-!
DEFINITION. Sys2Proof/Machine/Flags.lean: reading and writing dictionary objects of `od`, the W1C status words and
their occurrence counters (R471, R472), counters, and free values.
-/

namespace Sys2Proof.Machine

/-- The stored value of an object of `od`. -/
def Chip.rd (s : Chip) (idx sub : Nat) : Nat := Map.read (dflt (okey idx sub)) s.od (okey idx sub)

/-- Store a value. -/
def Chip.wr (s : Chip) (idx sub v : Nat) : Chip :=
  { s with od := Map.write (dflt (okey idx sub)) s.od (okey idx sub) v }

/-- The stored value as a signed number of `w` bits (R569). -/
def Chip.rdI (s : Chip) (w idx sub : Nat) : Int := toInt w (s.rd idx sub)

/-- Store a signed number, saturated to `w` bits. -/
def Chip.wrI (s : Chip) (w idx sub : Nat) (v : Int) : Chip := s.wr idx sub (ofInt w (satInt w v))

/-- Count up by `n` modulo 2^w. A counter wraps at its width (log entry 10). -/
def Chip.add (s : Chip) (w idx sub n : Nat) : Chip := s.wr idx sub ((s.rd idx sub + n) % 2 ^ w)

def Chip.inc (s : Chip) (w idx sub : Nat) : Chip := s.add w idx sub 1

/-- Bit `b` of an object. -/
def Chip.rdBit (s : Chip) (idx sub b : Nat) : Bool := bit (s.rd idx sub) b

/-- Put bit `b` of an object. -/
def Chip.wrBit (s : Chip) (idx sub b : Nat) (v : Bool) : Chip := s.wr idx sub (putBit (s.rd idx sub) b v)

/-- The W1C status objects (R472): number k of the counter index and the mask of the W1C bits. -/
def w1cOf (idx sub : Nat) : Option (Nat × Nat) :=
  if idx == 0x6010 && sub == 0x01 then some (0x00, 0x10)
  else if idx == 0x2100 && sub == 0x05 then some (0x01, 0x1F1)
  else if idx == 0x2110 && sub == 0x0A then some (0x02, 0x0C)
  else if idx == 0x2300 && sub == 0x0B then some (0x03, 0x18)
  else if 0x2404 ≤ idx && idx ≤ 0x2407 && sub == 0x04 then some (0x04 + (idx - 0x2404), 0x0F)
  else if 0x2410 ≤ idx && idx ≤ 0x241F && sub == 0x0F then some (0x08 + (idx - 0x2410), 0x2FC)
  else if idx == 0x2500 && sub == 0x1B then some (0x18, 0x70)
  else if idx == 0x2800 && sub == 0x01 then some (0x19, 0xE0)
  else if idx == 0x2900 && sub == 0x01 then some (0x1A, 0x20)
  else if idx == 0x2A00 && sub == 0x01 then some (0x1B, 0x03)
  else if idx == 0x2E00 && sub == 0x01 then some (0x1C, 0x07)
  else if idx == 0x3300 && sub == 0x63 then some (0x1D, 0x3F)
  else if 0x3000 ≤ idx && idx ≤ 0x300F && sub == 0x01 then some (0x1E + (idx - 0x3000), 0x18)
  else if idx == 0x6061 && sub == 0x01 then some (0x2E, 0x07)
  else none

/-- Hardware sets W1C bit `b` of a status object: the bit is set and its occurrence counter counts (R471). -/
def Chip.flag (s : Chip) (idx sub b : Nat) : Chip :=
  match w1cOf idx sub with
  | some (k, _) => (s.wrBit idx sub b true).inc 8 (0x6100 + k) (b + 1)
  | none => s.wrBit idx sub b true

/-- A free value and the state that has drawn it (log entry 1). -/
def Chip.draw (s : Chip) : Nat × Chip := (Config.free s.fresh, { s with fresh := s.fresh + 1 })

/-- A domain object's bytes; unlisted ones hold their default. -/
def domDefault (k : Nat) : List Byte :=
  let idx := k / 256
  let sub := k % 256
  if 0x2810 ≤ idx && idx ≤ 0x2817 && sub == 0x06 then
    -- −20, −10, 0, 10, 25, 35, 45, 55 °C in 0.01 °C
    [-2000, -1000, 0, 1000, 2500, 3500, 4500, 5500].flatMap (fun t => le 2 (ofInt 16 t))
  else if 0x2810 ≤ idx && idx ≤ 0x2817 && (sub == 0x07 || sub == 0x08) then Config.factoryDomain k
  else if 0x2810 ≤ idx && idx ≤ 0x2817 && sub == 0x0A then
    -- 1e−10, 1e−8, 1e−8, 1e−6
    [0x2EDBE6FF, 0x322BCC77, 0x322BCC77, 0x358637BD].flatMap (fun v => le 4 v)
  else if (idx == 0x2C00 && sub == 0x10) || (idx == 0x1009 && sub == 0) then Config.factoryDomain k
  else if idx == 0x2B21 && sub == 0 then
    [0x2300, 0x2300, 0x2400, 0x2000].zip [0x04, 0x05, 0x01, 0x01] |>.flatMap (fun x => le 2 x.1 ++ le 1 x.2 ++ le 1 0)
  else if 0x2920 ≤ idx && idx ≤ 0x293F && sub == 0x13 then zeros 32
  else []

def Chip.rdDom (s : Chip) (idx sub : Nat) : List Byte := Map.read (domDefault (okey idx sub)) s.dom (okey idx sub)

def Chip.wrDom (s : Chip) (idx sub : Nat) (v : List Byte) : Chip :=
  { s with dom := Map.write (domDefault (okey idx sub)) s.dom (okey idx sub) v }

end Sys2Proof.Machine
end

