-- ==== Sys2Proof/Machine/Ops.lean ====
section
/-!
DEFINITION. Sys2Proof/Machine/Ops.lean: the operations that the commands of several chapters share: events, claims,
trip sources and their actions, load channels, the closing sequence's abort, SAFE-HOLD, mode changes and the reset of
the compute die.
-/

namespace Sys2Proof.Machine

/-! ## Events and answers -/

/-- The code of an issuing master in events (R659). -/
def masterCode : Master → Nat
  | .a => 0x01
  | .b => 0x02
  | .jtag => 0x03
  | .policy => 0x10
  | .sequence => 0x11
  | .observer => 0x00

/-- The code of a mode in 2000:01. -/
def Mode.code : Mode → Nat
  | .boot => 1
  | .discover => 2
  | .ready => 3
  | .active => 4
  | .safeHold => 5
  | .shutdown => 6

def ChState.code : ChState → Nat
  | .off => 0 | .ramp => 1 | .inrush => 2 | .on => 3 | .limit => 4 | .pause => 5 | .latched => 6 | .tripped => 7
  | .idle => 8

def SwState.code : SwState → Nat
  | .open => 0 | .testing => 1 | .closing => 2 | .closed => 3 | .held => 4 | .ramping => 5 | .opening => 6
  | .welded => 7

def SecState.code : SecState → Nat
  | .open => 0 | .precharge => 1 | .closed => 2 | .ramping => 3 | .opening => 4 | .fault => 5

def Run.code : Run → Nat
  | .run => 0 | .hold => 1 | .edit => 2 | .check => 3

/-- Post an event at the recorder's ingest port (R601); EVENT_INGEST takes it from there (log entry 9). -/
def Chip.post (s : Chip) (code src : Nat) (detail : List Byte := []) : Chip :=
  { s with port := s.port ++ [⟨code, src, detail, false⟩] }

/-- Set the answer of an access. -/
def Chip.answer (s : Chip) (st : Status) (detail : Nat := 0) (bytes : List Byte := []) : Chip :=
  { s with ans := ⟨st, detail, bytes⟩ }

/-! ## Structures of the state by number -/

def Chip.ch (s : Chip) (k : Nat) : Channel := Map.read {} s.chan k
def Chip.setCh (s : Chip) (k : Nat) (c : Channel) : Chip := { s with chan := Map.write {} s.chan k c }
def Chip.grp (s : Chip) (g : Nat) : ChGroup := Map.read {} s.group g
def Chip.setGrp (s : Chip) (g : Nat) (c : ChGroup) : Chip := { s with group := Map.write {} s.group g c }
def Chip.st (s : Chip) (n : Nat) : Str := Map.read {} s.strs n
def Chip.setSt (s : Chip) (n : Nat) (x : Str) : Chip := { s with strs := Map.write {} s.strs n x }
def Chip.ring (s : Chip) (n : Nat) : Ring := Map.read {} s.rings n
def Chip.setRing (s : Chip) (n : Nat) (x : Ring) : Chip := { s with rings := Map.write {} s.rings n x }
/-- Slice at ring × 64 + position. -/
def Chip.slice (s : Chip) (k : Nat) : Slice := Map.read (sliceDefault k) s.slices k
def Chip.setSlice (s : Chip) (k : Nat) (x : Slice) : Chip :=
  { s with slices := Map.write (sliceDefault k) s.slices k x }
def Chip.hrd (s : Chip) (k : Nat) : Herd := Map.read {} s.herd k
def Chip.setHrd (s : Chip) (k : Nat) (x : Herd) : Chip := { s with herd := Map.write {} s.herd k x }

/-- Tick period in force, ns (R42). -/
def Chip.periodNs (s : Chip) : Nat := s.clk.p * 1000000

/-- Section time now, ns. -/
def Chip.now (s : Chip) : Nat := s.clk.edge + s.clk.off

/-- The next tick edge (R42, R45): the first multiple of P at least P after the edge in force. -/
def Chip.nextEdge (s : Chip) : Nat := (s.clk.edge + s.periodNs + s.periodNs - 1) / s.periodNs * s.periodNs

/-- ns since POR by the core clock: durations are never differences of section time (R506). -/
def Chip.mono (s : Chip) : Nat := s.clk.sincePor * 1000000 + s.clk.off

/-- ns that the AON domain has run; its 32.768 kHz clock counts them (R237; log entry 133). -/
def Chip.aonNs (s : Chip) : Nat := s.trip.base + s.mono

/-- The tick has reached `pc` hundredths of P (R47). -/
def Chip.atPhase (s : Chip) (pc : Nat) : Chip := { s with clk := { s.clk with off := max s.clk.off (s.periodNs / 100 * pc) } }

/-- Tick count 2100:0A. -/
def Chip.ticks (s : Chip) : Nat := s.rd 0x2100 0x0A

/-! ## Claims and access (R530, R545–R547, R574) -/

/-- The claim that holds group `g`. -/
def Chip.claimOf (s : Chip) (g : Nat) : Option Claim := s.claims.find? (fun c => bit c.groups g)

/-- Run state of group `g` (201g:03); a command claim leaves it in RUN. -/
def Chip.runOf (s : Chip) (g : Nat) : Run :=
  match s.claimOf g with
  | some c => if c.edit then c.run else .run
  | none => .run

/-- The clients of the dictionary that write are masters A and B (R530). -/
def mayWrite : Master → Bool
  | .a | .b => true
  | _ => false

/-- The lease of a claim still runs, or CHECK has ended it (R548, R549): after its expiry the owner's requests are those of
a non-owner. -/
def Claim.live (c : Claim) : Bool := c.left != 0 || c.run == .check

/-- May `m` write an action object of group `g` now: the master's role, a command claim of its own (R574, R570). -/
def Chip.actionGuard (s : Chip) (m : Master) (g : Nat) : Status :=
  if !mayWrite m then .role
  else match s.claimOf g with
    | none => .notOwner
    | some c => if c.owner ≠ m || !c.live then .notOwner else if c.edit then .notEdit else .ok

/-- An accepted write by the owner renews the lease of its claim (R548). -/
def Chip.renew (s : Chip) (g : Nat) : Chip :=
  { s with claims := s.claims.map (fun c => if bit c.groups g then { c with left := c.lease } else c) }

/-- Write an action object: run `f` when the master may, else answer the refusal; a write answered OK renews the lease
(R548). -/
def Chip.action (s : Chip) (m : Master) (g : Nat) (f : Chip → Chip) : Chip :=
  match s.actionGuard m g with
  | .ok =>
    let s' := f (s.answer .ok)
    if s'.ans.status == .ok then s'.renew g else s'
  | st => s.answer st

/-- Ethernet and CAN run: the compute die is up, and not on its way down (R637). -/
def Chip.netUp (s : Chip) : Bool := s.up && s.mode != .shutdown

/-- A process command (R555): open to masters A and B without a semaphore. -/
def Chip.process (s : Chip) (m : Master) (f : Chip → Chip) : Chip :=
  if m = .observer then s.answer .role else f (s.answer .ok)

/-- The code of a status (R536). -/
def Status.code : Status → Nat
  | .ok => 0 | .noObj => 1 | .noSub => 2 | .access => 3 | .notOwner => 4 | .notEdit => 5 | .range => 6 | .type => 7
  | .busy => 8 | .refused => 9 | .hwErr => 10 | .role => 11 | .segment => 12 | .state => 13 | .tooBig => 14 | .stale => 15

/-- A process command without an event of its own is recorded as 0x800A with its master: object, value of `n` bytes and
result (R556). -/
def Chip.commanded (s : Chip) (m : Master) (idx sub n v : Nat) (st : Status) : Chip :=
  s.post 0x800A (masterCode m) (le 2 idx ++ le 1 sub ++ le n v ++ le 1 st.code)

/-! ## The trip matrix (R222–R237) -/

/-- The object of an item of the active matrix. -/
def matrixItemKey : MatrixItem → Nat
  | .action i => okey 0x2302 (i + 1)
  | .loopMask => okey 0x2300 0x03
  | .oc k => okey 0x2304 (0x01 + k)
  | .hwLow k => okey 0x2304 (0x09 + k)
  | .hwHigh k => okey 0x2304 (0x11 + k)
  | .ocDeglitch => okey 0x2300 0x08
  | .hwDeglitch => okey 0x2300 0x09
  | .watchdog => okey 0x2300 0x0A

/-- An item of the active matrix in force: one other than an action word takes its default while its parity is wrong (R235). -/
def Trip.read (t : Trip) (key : Nat) : Nat :=
  if key / 256 != 0x2302 && t.parity.any (fun x => matrixItemKey x == key) then dflt key else Map.read (dflt key) t.act key

/-- The loop enable mask in force. -/
def Trip.loopMask (t : Trip) : Nat := t.read (okey 0x2300 0x03)

/-- The action word in force of source `i` while it is asserted (R234–R236). -/
def Trip.word (t : Trip) (i : Nat) : Nat :=
  let w := Map.read (defaultAction i) t.act (okey 0x2302 (i + 1))
  let w := if t.parity.any (fun x => match x with | .action j => j.val == i | _ => false) then w ||| defaultAction i else w
  let w := match t.oldAct with
    | some m => if t.asserted.getLsbD i then w ||| Map.read (defaultAction i) m (okey 0x2302 (i + 1)) else w
    | none => w
  if i < 16 && bit t.loopMask i then w ||| 2 ^ (16 + i) else w

/-- The OR of the actions in force (R225). -/
def Trip.inForceUpTo (t : Trip) : Nat → Nat
  | 0 => 0
  | n + 1 => t.inForceUpTo n
      ||| (if t.asserted.getLsbD n then t.word n else 0)
      ||| (if t.latched.getLsbD n then Map.read 0 t.latchWord n else 0)

def Trip.inForce (t : Trip) : Nat := t.inForceUpTo 48

/-- Rings under OPEN-ALL, channels held off, and ALERT (R225). -/
def Trip.rings (t : Trip) : Nat := bits t.inForce 31 16
def Trip.channels (t : Trip) : Nat := bits t.inForce 15 0
def Trip.alert (t : Trip) : Bool := bit t.inForce 33

/-- ALERT_N is low: an action in force drives it, or recovery mode (R225, R631). -/
def Chip.alertLow (s : Chip) : Bool := s.trip.alert || s.power.recovery

/-- The power die can deliver its events: link up, compute die running, adopt complete (R237). -/
def Chip.deliverable (s : Chip) : Bool := s.up && !s.link.lostDown && !s.link.lostUp && s.adopt.status != 0

/-- The event of a trip record (R239, R604). -/
def TripRecKind.event (k : TripRecKind) (pwr : Bool) (time : List Byte) : Event :=
  match k with
  | .edge src true w l _ => ⟨0x3001, src, le 8 w ++ le 4 (if l then 1 else 0) ++ time, pwr⟩
  | .edge src false _ _ d => ⟨0x3002, src, le 4 d ++ time, pwr⟩
  | .short r => ⟨0x3007, r, time, pwr⟩
  | .heartbeat r => ⟨0x3008, r, time, pwr⟩
  | .parity i => ⟨0x300C, i, time, pwr⟩

/-- The 32-bit count of the 32.768 kHz clock, which stamps trip records (R237). -/
def Chip.aonClock (s : Chip) : Nat := s.aonNs * 32768 / 1000000000 % 2 ^ 32

/-- Record something the power die detected: as an event, or as a kept trip record of at most 16 (R237). -/
def Chip.tripRecord (s : Chip) (k : TripRecKind) : Chip :=
  if s.deliverable then { s with port := s.port ++ [k.event false []] }
  else if s.trip.recs.length < 16 then
    { s with trip := { s.trip with recs := s.trip.recs ++ [⟨s.aonClock, k⟩] } }
  else (s.inc 32 0x2300 0x0C).flag 0x2300 0x0B 3

/-- After an adopt the kept records become events with PWRDIE set, and records lost since the last report are reported (R237, R604). -/
def Chip.deliverTrips (s : Chip) : Chip :=
  let lost := s.rd 0x2300 0x0C
  let told := s.trip.lostTold
  let s := { s with port := s.port ++ s.trip.recs.map (fun r => r.kind.event true (le 4 r.time)),
                    trip := { s.trip with recs := [], lostTold := lost } }
  if lost ≠ told then s.post 0x300D 0 (le 4 lost) else s

/-! ## Load channels (R358–R384) -/

/-- The other channel of a paralleled pair (R360). -/
def Chip.partner (s : Chip) (k : Nat) : Option Nat :=
  let p := s.rd (0x2410 + k) 0x0B
  if p < 16 then some p else none

/-- The channels a command or a fault of `k` acts on. -/
def Chip.pair (s : Chip) (k : Nat) : List Nat :=
  match s.partner k with
  | some p => [k, p]
  | none => [k]

def ChState.conducts : ChState → Bool
  | .ramp | .inrush | .on | .limit => true
  | _ => false

/-- The IN pin that channel `k` follows: a pair has that of its lower channel (R360). -/
def Chip.pinOf (s : Chip) (k : Nat) : Bool := (s.ch ((s.pair k).foldl min k)).inPin

/-- The on-condition of a channel by its IN mode and the level of its pin (R364). -/
def Channel.wants (c : Channel) (pin : Bool) (mode : Nat) : Bool :=
  !c.hold && (match mode with
    | 0 => c.cmd
    | 1 => pin
    | 2 => c.cmd && pin
    | _ => c.cmd || pin)

/-- The state a channel takes when its on-condition is false (R367, R369). -/
def Channel.rest (c : Channel) (mode : Nat) : ChState :=
  match mode with
  | 0 => .off
  | 2 => if c.cmd then .idle else .off
  | _ => .idle

/-- The power die notes a change of its own (R382): up to 64 entries, then the overflow flag. -/
def Chip.noteChange (s : Chip) (k : Nat) (st : ChState) : Chip :=
  if s.adopt.changes.length < 64 then
    { s with adopt := { s.adopt with changes := s.adopt.changes ++ [⟨k, st⟩] } }
  else { s with adopt := { s.adopt with overflow := true } }

/-- A ramp of channel `k` is held for a dip of its group's supply (R375). -/
def Chip.holdRamp (s : Chip) (k : Nat) : Chip := (s.setCh k { s.ch k with dipHeld := true, dipAt := s.aonNs }).flag (0x2410 + k) 0x0F 6

/-- Channel `k` turns on with a full ramp (R368); during a dip the new ramp is held like any other (R378). -/
def Chip.startRamp (s : Chip) (k : Nat) : Chip :=
  let s := (s.setCh k { s.ch k with state := .ramp, dipHeld := false, dipDone := false, windowOver := false,
                                    window := s.rd (0x2410 + k) 0x09, pauseMs := 0 }).inc 32 (0x2410 + k) 0x12
  let s := s.wrBit (0x2410 + k) 0x0F 8 false
  if (s.grp (k / 4)).dip then (s.inc 32 (0x2404 + k / 4) 0x03).holdRamp k else s

/-- Channel `k` leaves a conducting state whose on-condition has become false, and OFF and IDLE are told apart (R367, R369). -/
def Chip.settleOff (s : Chip) (k : Nat) : Chip :=
  let c := s.ch k
  let mode := s.rd (0x2410 + k) 0x05
  match c.state with
  | .off | .idle | .ramp | .inrush | .on | .limit =>
    if c.wants (s.pinOf k) mode then s else s.setCh k { c with state := c.rest mode, dipHeld := false }
  | _ => s

/-- Channel `k` follows its on-condition from OFF, IDLE or a conducting state (R368, R369). -/
def Chip.follow (s : Chip) (k : Nat) : Chip :=
  let c := s.ch k
  if (c.state == .off || c.state == .idle) && c.wants (s.pinOf k) (s.rd (0x2410 + k) 0x05) then s.startRamp k
  else s.settleOff k

/-- Off-command on one channel (R362, R369): a pause is cancelled and its fault count cleared. It starts no ramp. -/
def Chip.offOne (s : Chip) (k : Nat) : Chip :=
  let c := { s.ch k with cmd := false, offTick := some s.ticks }
  match c.state with
  | .pause => s.setCh k { c with state := .off, fault := 0, causes := [], otHeld := false, pauseMs := 0 }
  | _ => (s.setCh k c).settleOff k

/-- On-command on one channel (R362, R368). -/
def Chip.onOne (s : Chip) (k : Nat) : Chip :=
  (s.setCh k { s.ch k with cmd := true, hold := false, lastOn := some s.aonNs }).follow k

def Chip.chOff (s : Chip) (k : Nat) : Chip := (s.pair k).foldl Chip.offOne s
def Chip.chOn (s : Chip) (k : Nat) : Chip := (s.pair k).foldl Chip.onOne s

/-- The settings of the channels whose CRC the adopt block carries (R383). -/
def Chip.chanCrc (s : Chip) : Word :=
  crc32c ((List.range 16).flatMap (fun k =>
    ([0x03, 0x04, 0x05, 0x06, 0x07, 0x08, 0x09, 0x0A, 0x0B].map (fun j => BitVec.ofNat 8 (s.rd (0x2410 + k) j)))
      ++ le 2 (s.rd (0x2410 + k) 0x13)))

/-- Write the channel image with the G in force (R383). -/
def Chip.saveImage (s : Chip) : Chip :=
  { s with adopt := { s.adopt with
      image := ⟨s.adopt.g, s.chanCrc, maskOf 16 (fun k => (s.ch k).cmd)⟩ } }

/-- 0x502A: master, old and new command, and the refusal where there is one (log entry 52). -/
def Chip.chanEvent (s : Chip) (k : Nat) (m : Master) (old : Bool) (new why : Nat) : Chip :=
  s.post 0x502A k (le 1 (masterCode m) ++ le 1 (if old then 1 else 0) ++ le 1 new ++ (if why = 0 then [] else le 1 why))

/-- An off-command of the closing sequence or of a policy, recorded with its issuer (R362); the power die takes none while the
adopt handshake is not complete (R13, R25). -/
def Chip.seqOff (s : Chip) (k : Nat) (m : Master) : Chip :=
  if k < 16 then
    let why := if s.adopt.status = 0 then 1 else 0
    let s := s.chanEvent k m (s.ch k).cmd 0 why
    if why ≠ 0 then s else (s.chOff k).saveImage
  else s

/-- Is channel `k` named by an action in force, itself or through its pair (R225, R360)? -/
def Chip.heldOff (s : Chip) (k : Nat) : Bool := (s.pair k).any (fun j => bit s.trip.channels j)

/-- Closings of string `n` are refused under R230: its ring's loop is not enabled, or a latch names the ring or a channel of the
string. -/
def Chip.tripRefused (s : Chip) (n : Nat) : Bool :=
  let r := s.rd (0x3200 + n) 0x01
  if 16 ≤ r then false
  else
    !bit s.trip.loopMask r ||
    (List.range 48).any (fun i => s.trip.latched.getLsbD i &&
      (bit (Map.read 0 s.trip.latchWord i) (16 + r) ||
       (List.range 16).any (fun k => bit (Map.read 0 s.trip.latchWord i) k && s.rd (0x2410 + k) 0x03 != 0 &&
         s.rd (0x2410 + k) 0x04 == n)))

/-- Is a new closing refused to a contactor or pre-charge channel (R27, R36, R230)? -/
def Chip.closingRefused (s : Chip) (k : Nat) : Bool :=
  let n := s.rd (0x2410 + k) 0x04
  let active := (s.mode == .active && s.trans == .none) || s.trans == .toActive
  !active || s.adopt.safeHold || (n < 32 && s.tripRefused n)

/-- The first row of the table of R363 that applies to an on-command, 1–6; 0 none. The fifth is for the commands of masters. -/
def Chip.onRefusal (s : Chip) (m : Master) (k : Nat) : Nat :=
  if s.adopt.status ≠ 1 then 1
  else if s.heldOff k then 2
  else if (s.ch k).state == .latched then 3
  else if s.rd (0x2410 + k) 0x03 ≠ 0 && !(s.ch k).cmd && s.closingRefused k then 4
  else if m != .sequence && (s.pair k).any (fun j => [0x02, 0x03, 0x04].any (fun x => s.rd 0x2500 x == j)) then 5
  else if (match (s.ch k).lastOn with | some t => decide (s.aonNs < t + 10000000) | none => false) ||
      (s.ch k).offTick == some s.ticks then 6
  else 0

/-- An on-command of the closing sequence, refused like any other (R362, R363); 0x300A where a trip refuses it (R229). -/
def Chip.seqOn (s : Chip) (k : Nat) : Chip :=
  if k < 16 then
    let why := s.onRefusal .sequence k
    let s := s.chanEvent k .sequence (s.ch k).cmd 1 why
    if why = 0 then (s.chOn k).saveImage
    else if why = 2 then s.post 0x300A k (le 8 (s.trip.asserted ||| s.trip.latched).toNat)
    else s
  else s

/-! ## Wear of the main contactors (R339, R340) -/

/-- HV input voltage, mV (3300:18–1F); link and section bus (2500:05, 06). -/
def Chip.hv (s : Chip) (k : Nat) : Int := s.rdI 32 0x3300 (0x18 + k)
def Chip.vLink (s : Chip) : Int := s.hv (s.rd 0x2500 0x05)
def Chip.vBus (s : Chip) : Int := s.hv (s.rd 0x2500 0x06)

/-- The section current in use: primary unless 2800:14 says secondary (3300:09, 0A). -/
def Chip.secCurrent (s : Chip) : Int :=
  if s.rd 0x2800 0x14 == 1 then s.rdI 32 0x3300 0x0A else s.rdI 32 0x3300 0x09

/-- E = ½·L·I² + ½·V·|I|·t_arc in mJ, from mA, mV, µH and 0.1 ms, rounded down. -/
def Chip.energy (s : Chip) (i v : Int) : Nat :=
  (s.rd 0x2500 0x17 * i.natAbs * i.natAbs + 100 * v.natAbs * i.natAbs * s.rd 0x2500 0x18) / 2000000000

/-- Charge an accumulated energy with `e` mJ; 80 % and 100 % of the rating are recorded as they are passed. Contactors are
coded 1 C0, 2 C1, 3 main positive, 4 main negative (R659; log entry 79). -/
def Chip.wear (s : Chip) (idx sub e src contactor : Nat) : Chip :=
  let old := s.rd idx sub
  let new := old + e
  let rated := s.rd 0x2500 0x19 * 1000
  let s := s.wr idx sub (new % 2 ^ 64)
  let s := if old * 100 ≤ rated * 80 && new * 100 > rated * 80 then
      (s.flag 0x2500 0x1B 5).post 0x500B src (le 1 contactor) else s
  if old ≤ rated && new > rated then s.post 0x500C src (le 1 contactor) else s

/-- Is a channel commanded on? -/
def Chip.chanOn (s : Chip) (k : Nat) : Bool := k < 16 && (s.ch k).cmd

/-- The main contactor channels are charged with the section current in use and the section bus voltage. -/
def Chip.wearMain (s : Chip) (positive : Bool) (e : Nat) : Chip :=
  let k := s.rd 0x2500 (if positive then 0x03 else 0x04)
  s.wear 0x2500 (if positive then 0x1C else 0x1D) e k (if positive then 3 else 4)

/-- Is the main positive or the main negative channel conducting? -/
def Chip.mainShut (s : Chip) (positive : Bool) : Bool :=
  let k := s.rd 0x2500 (if positive then 0x03 else 0x04)
  k < 16 && (s.ch k).state.conducts

/-- Charge the main contactors that have opened since `b`: one alone takes all of the energy, both together take half each (R339). -/
def Chip.mainsOpened (s b : Chip) : Chip :=
  let pos := b.mainShut true && !s.mainShut true
  let neg := b.mainShut false && !s.mainShut false
  let e := b.energy b.secCurrent b.vBus
  let e := if pos && neg then e / 2 else e
  let s := if pos then s.wearMain true e else s
  if neg then s.wearMain false e else s

/-- Actions in force move named channels to TRIPPED; channels no longer named enter OFF and stay off (R369, R226). -/
def Chip.tripOne (s : Chip) (k : Nat) : Chip :=
  let c := s.ch k
  if s.heldOff k then
    if c.state = .tripped then s
    else (s.setCh k { c with state := .tripped, cmd := false, hold := true, fault := 0, causes := [], dipHeld := false,
                             otHeld := false, handover := false, pauseMs := 0 }).noteChange k .tripped
  else if c.state = .tripped then (s.setCh k { c with state := .off }).noteChange k .off
  else s

/-! ## The ring side of actions -/

/-- The string of a position: two strings share a ring by halves, one owns it all (R16). DESIGN CHOICE (log entry 130): R1 and R16 give a
ring at most two strings, one for each half; where more name it, or two the same head, the lowest-numbered one with a half's head
owns that half and the others own no position. -/
def Chip.stringOf (s : Chip) (r p : Nat) : Option Nat :=
  let on := (List.range 32).filter (fun n => s.rd (0x3200 + n) 0x01 == r)
  if on.length ≤ 1 then on.head?
  else on.find? (fun n => s.rd (0x3200 + n) 0x02 == (if p < 32 then 0 else 32))

/-- Ring and head position of a string; none where no ring is configured. -/
def Chip.headOf (s : Chip) (n : Nat) : Option (Nat × Nat) :=
  let r := s.rd (0x3200 + n) 0x01
  if r < 16 then some (r, s.rd (0x3200 + n) 0x02) else none

/-- Positions of a string on its ring (R16). -/
def Chip.positionsOf (s : Chip) (n : Nat) : List Nat :=
  match s.headOf n with
  | none => []
  | some (r, _) => (List.range 64).filter (fun p => s.stringOf r p == some n)

/-- Objects 31n0–31n6 of position `p`. -/
def Chip.hT (s : Chip) (r j p : Nat) : Nat := s.rd (0x3100 + 16 * r + j) (p + 1)
def Chip.setHT (s : Chip) (r j p v : Nat) : Chip := s.wr (0x3100 + 16 * r + j) (p + 1) v

/-- N (31n7:02), the ring state (31n7:01), and the count of a position from a port (R136). -/
def Chip.nOf (s : Chip) (r : Nat) : Nat := s.rd (0x3107 + 16 * r) 0x02
def Chip.ringState (s : Chip) (r : Nat) : Nat := s.rd (0x3107 + 16 * r) 0x01
def Chip.setRingState (s : Chip) (r v : Nat) : Chip := s.wr (0x3107 + 16 * r) 0x01 v
def countOf (n : Nat) (up : Bool) (p : Nat) : Nat := if up then n - 1 - p else p

/-- How many slices each port reaches: all of them on an intact ring. -/
def Chip.reach (s : Chip) (r : Nat) : Nat × Nat := ((s.ring r).brk).getD (s.nOf r, s.nOf r)

/-- Does a port reach position `p`: A, B, either (R166)? -/
def Chip.reachA (s : Chip) (r p : Nat) : Bool := decide (p < (s.reach r).1)
def Chip.reachB (s : Chip) (r p : Nat) : Bool := decide (s.nOf r ≤ p + (s.reach r).2)
def Chip.hasPath (s : Chip) (r p : Nat) : Bool := s.reachA r p || s.reachB r p

/-- Is the position collected in its HALF direction now? -/
def Chip.isUp (s : Chip) (r p : Nat) : Bool := bit (s.hT r 1 p) 6

/-- The port a request leaves on: that which reaches its position, its HALF direction first (R136). -/
def Chip.reqUp (s : Chip) (r p : Nat) : Bool :=
  if s.isUp r p then s.reachB r p || !s.reachA r p else !(s.reachA r p || !s.reachB r p)

/-- A frame of the master, with both checks right (R93–R95). -/
def mkFrame (type : Nat) (up : Bool) (hop seq epoch : Nat) (pl : List Byte) : Frame :=
  Frame.seal ⟨type, up, false, false, hop, 0, seq % 65536, epoch, 0, pl, 0, 0⟩

/-- Symbols of a frame on the line, ns: 19 overhead symbols and the payload, 80 ns each (R93, R130). -/
def frameNs (f : Frame) : Nat := (19 + f.payload.length) * 80

/-- An addressed request with the epoch and serial number that the herd table holds (R129, R150). -/
def Chip.mkReq (s : Chip) (r p type : Nat) (payload : List Byte) : Req :=
  ⟨type, p, payload, s.rd (0x3102 + 16 * r) (p + 1), s.rd (0x3100 + 16 * r) (p + 1), false, false, (s.ring r).limited⟩

def Chip.request (s : Chip) (r p type : Nat) (payload : List Byte) : Chip :=
  s.setRing r { s.ring r with queue := (s.ring r).queue ++ [s.mkReq r p type payload] }

/-- Is a request a CTRL OPEN, which overtakes every other (R129); is it a CTRL CLOSE? -/
def Req.isOpen (q : Req) : Bool := q.type == 6 && beAt q.payload 0 1 == 1
def Req.isClose (q : Req) : Bool := q.type == 6 && beAt q.payload 0 1 == 2

/-- Queue a request ahead of every other but the CTRL OPENs queued before it (R129). -/
def Chip.queueFirst (s : Chip) (r : Nat) (q : Req) : Chip :=
  let qs := (s.ring r).queue
  s.setRing r { s.ring r with queue := qs.takeWhile Req.isOpen ++ q :: qs.dropWhile Req.isOpen }
def Chip.requestFirst (s : Chip) (r p type : Nat) (payload : List Byte) : Chip := s.queueFirst r (s.mkReq r p type payload)

def Chip.sus (s : Chip) (k : Nat) : Suspect := Map.read {} s.suspects k
def Chip.setSus (s : Chip) (k : Nat) (x : Suspect) : Chip := { s with suspects := Map.write {} s.suspects k x }

/-- A CTRL INJECT that leaves for position `p` injects its tap at the next sample instant (R196). -/
def Chip.noteInject (s : Chip) (r p type : Nat) (pl : List Byte) : Chip :=
  let k := r * 64 + p
  if type == 6 && beAt pl 0 1 == 5 && decide (beAt pl 1 1 ≤ 16) then
    s.setSus k { s.sus k with injNext := (s.sus k).injNext ||| 2 ^ beAt pl 1 1 }
  else s

/-- Place a frame on a port whose frames start from `t` on: behind those that have started at `off` and those that `pass` lets go
first, ahead of the rest. -/
def insertFrame (pass : Frame → Bool) (off : Nat) (f : Frame) (t : Nat) : List Frame → List Frame
  | [] => [f]
  | g :: gs => if pass g || decide (t ≤ off) then g :: insertFrame pass off f (t + frameNs g) gs else f :: g :: gs

/-- When such a frame starts. -/
def freeAt (pass : Frame → Bool) (off t : Nat) : List Frame → Nat
  | [] => max off t
  | g :: gs => if pass g || decide (t ≤ off) then freeAt pass off (t + frameNs g) gs else max off t

/-- A CTRL OPEN on the line. -/
def frameOpens (f : Frame) : Bool := f.type == 6 && beAt f.payload 0 1 == 1

/-- A port of a ring with another list of frames sent in this tick. -/
def Ring.sendOn (g : Ring) (up : Bool) (k : List Frame → List Frame) : Ring :=
  if up then { g with sentB := k g.sentB } else { g with sentA := k g.sentA }

/-- A request leaves on its port, `place` among the frames of the tick. It holds its tag while fewer than 16 are in flight, which
only the CTRL OPEN of an emergency can find taken (R129, R130; log entry 124). -/
def Chip.leaveAt (s : Chip) (r : Nat) (q : Req) (place : Frame → List Frame → List Frame) : Chip :=
  let g := s.ring r
  let up := q.viaB || s.reqUp r q.pos
  let f := mkFrame q.type up (countOf (s.nOf r) up q.pos) g.nextTag q.epoch q.payload
  let g' : Ring := { g with nextTag := (g.nextTag + 1) % 65536, txs := if g.txs.length < 16 then g.txs ++ [⟨g.nextTag, q, 0⟩] else g.txs }
  (s.noteInject r q.pos q.type q.payload).setRing r (g'.sendOn up (place f))
def Chip.leave (s : Chip) (r : Nat) (q : Req) : Chip := s.leaveAt r q (fun f fs => fs ++ [f])

/-- CTRL with an operation and an argument. -/
def ctrlPayload (op arg : Nat) : List Byte := [BitVec.ofNat 8 op, BitVec.ofNat 8 arg, 0#8, 0#8]

/-- Take every CTRL CLOSE that has not left yet out of the queues: no further contact closes (R32, R36, R350). -/
def Chip.dropCloses (s : Chip) : Chip :=
  (List.range 16).foldl (fun s r => s.setRing r { s.ring r with queue := (s.ring r).queue.filter (fun q => !q.isClose) }) s

/-- Queue a CTRL; a CLOSE is refused while the SAFE-HOLD latch is set (R36). -/
def Chip.ctrl (s : Chip) (r p op arg : Nat) : Chip :=
  if op = 0x01 then s.requestFirst r p 6 (ctrlPayload op arg)
  else if op = 0x02 && s.adopt.safeHold then s
  else s.request r p 6 (ctrlPayload op arg)

/-- CTRL to the head of a string. -/
def Chip.ctrlHead (s : Chip) (n op arg : Nat) : Chip :=
  match s.headOf n with
  | some (r, p) => s.ctrl r p op arg
  | none => s

/-- The CTRL OPEN of a string emergency: it leaves at the first frame boundary of its port, ahead of every frame that has not begun
(R129, R332), where the ring controller runs. The first frame of a tick has begun once it is sent, at 10 µs. -/
def Chip.openNow (s : Chip) (n arg : Nat) : Chip :=
  match s.headOf n with
  | some (r, p) => 
    if s.up then s.leaveAt r (s.mkReq r p 6 (ctrlPayload 0x01 arg)) (fun f => insertFrame (fun _ => false) (max s.clk.off 10000) f 10000)
    else s
  | none => s

/-- The compute die has power: no supply of its own is lost (R651), and it runs, or it is held in reset and VAUX has not dropped
(R26, R640). -/
def Chip.powered (s : Chip) : Bool := !s.power.noRail && (s.up || !s.power.dropped)

/-- The ring PHYs inject an OPEN-ALL burst on both ports (R122) while the compute die has power, in reset too (R26). -/
def Chip.injectOpenAll (s : Chip) (r src : Nat) : Chip :=
  if s.powered then
    ((s.flag (0x3000 + r) 0x01 4).inc 32 (0x3000 + r) 0x08).post 0x1007 r (le 4 src)
  else s

/-! ## The closing sequence's end (R350) -/

/-- The step number of R659 and the string or section (0xFF) it concerns. -/
def SeqStep.ref : SeqStep → Nat × Nat
  | .solo n _ _ => (2, n)
  | .c1 n => (3, n)
  | .c0 n => (5, n)
  | .mainNeg => (7, 0xFF)
  | .precharge _ => (8, 0xFF)
  | .mainPos _ => (9, 0xFF)
  | .retryPause => (8, 0xFF)
  | .opening => (0, 0xFF)
  | .confirming => (0, 0xFF)

/-- An orderly opening is in progress: it is not of the closing sequence. -/
def SeqStep.opens (x : SeqStep) : Bool := x == .opening || x == .confirming

/-- The coils of string `n` that a closing step has energised: 1 C0, 2 C1. -/
def SeqStep.coils (x : SeqStep) (n : Nat) : Nat :=
  match x with
  | .solo m second _ => if m = n then (if second then 2 else 1) else 0
  | .c1 m => if m = n then 2 else 0
  | .c0 m => if m = n then 3 else 0
  | _ => 0

/-- A string in its closing steps leaves them. -/
def Chip.dropString (s : Chip) (n : Nat) : Chip :=
  let x := s.st n
  if x.sw = .testing ∨ x.sw = .closing then s.setSt n { x with sw := .open, wait := false }
  else s.setSt n { x with wait := false }

/-- Abort the closing sequence with a cause of R659: the pre-charge channel is switched off, contacts already closed
stay closed, and no queued CLOSE leaves; outside SAFE-HOLD a transition to ACTIVE ends in READY with 0xA015 (R28, R350). An
orderly opening in progress goes on. -/
def Chip.abortSeq (s : Chip) (cause : Nat) : Chip :=
  let opens := (s.swi.step.map (·.opens)).getD false
  if s.swi.running || (s.swi.step.isSome && !opens) then
    let (step, src) := match s.swi.step with | some st => st.ref | none => (6, 0xFF)
    let pre := s.rd 0x2500 0x02
    let s := if pre < 16 && (s.ch pre).cmd then s.seqOff pre .sequence else s
    let s := s.dropCloses.post 0x500E src (le 1 step ++ le 1 cause)
    let s := if s.swi.running && cause ≠ 4 then s.post 0xA015 0 (le 1 step ++ le 1 cause) else s
    let s := { s with trans := if s.swi.running && s.trans = .toActive then .none else s.trans }
    let s := (List.range 32).foldl Chip.dropString s
    { s with swi := { s.swi with step := if opens then s.swi.step else none, running := false, first := false, tries := 0,
                                 sec := if s.swi.sec = .precharge then .open else s.swi.sec } }
  else s

/-- Is one of the sequence's channels held off by a trip? -/
def Chip.seqTripped (s : Chip) : Bool :=
  [0x02, 0x03, 0x04].any (fun j => let k := s.rd 0x2500 j; k < 16 && s.heldOff k)

/-- Bring actions into force: OPEN-ALL on the rings newly named, channels to TRIPPED, the sequence's abort. -/
def Chip.applyTrips (s : Chip) (ringsBefore src : Nat) : Chip :=
  let new := (List.range 16).filter (fun r => bit s.trip.rings r && !bit ringsBefore r)
  let s := new.foldl (fun s r => s.injectOpenAll r src) s
  let s := ((List.range 16).foldl Chip.tripOne s).mainsOpened s
  if s.seqTripped then s.abortSeq 3 else s

/-- Trip source `i` asserts (R225, R227, R236). DESIGN CHOICE: where ETRIP is asserted already, a renewed assertion starts the time that
0x3002 gives again and is neither counted nor recorded as another 0x3001 (R224; log entry 162). -/
def Chip.tripAssert (s : Chip) (i : Nat) : Chip :=
  if i < 16 && !bit s.trip.loopMask i then s
  else if s.trip.asserted.getLsbD i then
    { s with trip := { s.trip with since := if i = 47 then Map.insert i s.aonNs s.trip.since else s.trip.since } }
  else
    let before := s.trip.rings
    let t := { s.trip with asserted := s.trip.asserted ||| BitVec.twoPow 48 i,
                           since := Map.insert i s.aonNs s.trip.since }
    let w := t.word i
    let t := if bit w 32 then
        { t with latched := t.latched ||| BitVec.twoPow 48 i,
                 latchWord := if t.latched.getLsbD i then t.latchWord else Map.write 0 t.latchWord i w }
      else t
    let s := { s with trip := t }.inc 32 0x2303 (i + 1)
    (s.tripRecord (.edge i true w (bit w 32) 0)).applyTrips before i

/-- Trip source `i` deasserts; an action without LATCH ends (R226). The duration is recorded in µs. -/
def Chip.tripDeassert (s : Chip) (i : Nat) : Chip :=
  if s.trip.asserted.getLsbD i then
    let d := (s.aonNs - Map.read 0 s.trip.since i) / 1000
    let s := { s with trip := { s.trip with asserted := s.trip.asserted &&& ~~~ BitVec.twoPow 48 i,
                                            since := Map.erase i s.trip.since } }
    let s := s.tripRecord (.edge i false 0 false d)
    (List.range 16).foldl Chip.tripOne s
  else s

/-- The power die takes command writes: the adopt handshake is complete (R13, R25). -/
def Chip.adopted (s : Chip) : Bool := s.adopt.status != 0

/-- ETRIP commanded (R224): event 0x300B with the issuer, and source 47 asserts; not before the adopt handshake is complete
(R13). -/
def Chip.etrip (s : Chip) (m : Master) : Chip := if s.adopted then (s.post 0x300B (masterCode m)).tripAssert 47 else s

/-! ## Modes (R28–R40) -/

/-- Change mode with event 0xA010, the old and the new code in the source field (R28). -/
def Chip.setMode (s : Chip) (m : Mode) : Chip :=
  { (s.post 0xA010 (s.mode.code * 256 + m.code)) with mode := m }

/-- The device is in ACTIVE or in its transition to it. -/
def Chip.activeish (s : Chip) : Bool := s.mode = .active || s.trans = .toActive

/-- SAFE-HOLD switches a pre-charge channel off (R36), a change of the power die's own (R382). -/
def Chip.holdPrecharge (s : Chip) (k : Nat) : Chip :=
  if s.rd (0x2410 + k) 0x03 == 2 && ((s.ch k).state.conducts || (s.ch k).state == .pause) then
    (s.pair k).foldl (fun s j => s.noteChange j .off) (s.chOff k)
  else s

/-- Set the SAFE-HOLD latch and the cause bit; the transition in progress ends, but for a disconnect towards SHUTDOWN
(R31, R36, R40). -/
def Chip.latchSafeHold (s : Chip) (causeBit : Nat) : Chip :=
  { ((s.wrBit 0x2000 0x03 causeBit true).wrBit 0x2000 0x03 0 true) with
    adopt := { s.adopt with safeHold := true }
    trans := if s.trans == Trans.toShutdown then Trans.toShutdown else Trans.none }

/-- Entry to SAFE-HOLD for a cause bit of 2000:03 (R28, R31, R36, R38): the closing sequence stops, the latch is set,
pre-charge channels are switched off, and the event carries 2000:03. SHUTDOWN stays in force. -/
def Chip.enterSafeHold (s : Chip) (causeBit : Nat) : Chip :=
  let s := ((s.abortSeq 4).latchSafeHold causeBit).dropCloses
  let s := (List.range 16).foldl Chip.holdPrecharge s
  let s := if s.mode == .safeHold || s.mode == .shutdown then s else s.setMode .safeHold
  s.post 0xA011 0 (le 2 (s.rd 0x2000 0x03))

/-- Roll a claim back (R550): staged writes are discarded, the shadow matrix among them (R232), the groups return to RUN at the next
edge. -/
def Chip.rollback (s : Chip) (c : Claim) (code : Nat) (detail : List Byte) : Chip :=
  let s := s.post code (masterCode c.owner) detail
  let s := (bitsSet 9 c.groups).foldl (fun s g =>
      if c.edit then (s.inc 32 (0x2010 + g) 0x0A) else s) s
  let s := if c.edit && bit c.groups 0 then { s with trip := { s.trip with unseen := [] } } else s
  if c.edit then
    { s with claims := s.claims.map (fun x => if x.id = c.id then
        { x with staged := [], stagedDom := [], next := .rollback } else x) }
  else { s with claims := s.claims.filter (fun x => x.id ≠ c.id) }

/-- Entry to SHUTDOWN: pre-empts any transition (R31), rolls every claim back (R550) and begins the way down, whose cause
is a mode request unless VAUX_DROP says otherwise (R638). -/
def Chip.enterShutdown (s : Chip) : Chip :=
  if s.mode == .shutdown then s
  else
    let s := s.claims.foldl (fun s c => s.rollback c 0x8008 (le 2 c.groups ++ le 1 3)) s
    let s := if s.trans == .toActive then s.abortSeq 0 else s
    let before := s.mode.code
    { s.setMode .shutdown with trans := .none, power := { s.power with cause := 2, before := before, dropped := false } }

/-- A restart is clean when no debug session is open: 6050:01 reads 0, 1 or 6 (R39). -/
def Chip.cleanNow (s : Chip) : Bool :=
  s.rd 0x6050 0x01 == 0 || s.rd 0x6050 0x01 == 1 || s.rd 0x6050 0x01 == 6

/-- A command whose effect is on the chip alone. -/
def lift (f : Chip → Chip) (s : State) : Host.Outcome State Fault Refusal := .next { s with chip := f s.chip }

end Sys2Proof.Machine
end

