-- ==== Sys2Proof/Machine/Operands.lean ====
section
/-!
DEFINITION. Sys2Proof/Machine/Operands.lean: the forms in which dictionary objects are read and written (R566–R576):
values kept outside `od`, and the checks of a read and of a write in the order of R570.
-/

namespace Sys2Proof.Machine

/-! ## Values -/

/-- The bytes that a matrix CRC covers, from a reading of its items: actions, loop mask, thresholds, deglitch times and
the watchdog timeout, in index order (R232; the order is the model's, log entry 12). -/
def matrixBytes (f : Nat → Nat → Nat) : List Byte :=
  ((List.range 48).flatMap (fun i => le 8 (f 0x2302 (i + 1)))) ++ le 2 (f 0x2300 0x03) ++ le 1 (f 0x2300 0x08) ++
  le 1 (f 0x2300 0x09) ++ le 2 (f 0x2300 0x0A) ++ ((List.range 24).flatMap (fun i => le 4 (f 0x2304 (i + 1))))

/-- The staged value of an object, of whichever claim holds it. -/
def Chip.stagedVal (s : Chip) (key : Nat) : Option Nat :=
  s.claims.findSome? (fun c => if c.next == ClaimNext.rollback then none else (c.staged.find? (fun x => x.1 == key)).map (·.2))

/-- The shadow matrix: staged values of PROT over the committed ones (R232), but for those that a lost link kept from it. -/
def Chip.shadow (s : Chip) (idx sub : Nat) : Nat :=
  let idx' := if idx == 0x2302 then 0x2301 else idx
  match s.trip.unseen.find? (fun x => x.1 == okey idx' sub) with
  | some x => x.2
  | none => match s.stagedVal (okey idx' sub) with
    | some v => v
    | none => s.rd idx' sub

def Chip.activeCrc (s : Chip) : Word := crc32c (matrixBytes (fun i j => s.trip.read (okey i j)))
def Chip.shadowCrc (s : Chip) : Word := crc32c (matrixBytes s.shadow)

/-- Channel status with its RO bits [8] OPENLOAD, which only ON shows, [1] LATCHED, [0] TRIPPED (241k:0F). -/
def Chip.chanStatus (s : Chip) (k : Nat) : Nat :=
  setBits (putBit (s.rd (0x2410 + k) 0x0F) 8 (s.rdBit (0x2410 + k) 0x0F 8 && (s.ch k).state == .on)) 1 0
    ((if (s.ch k).state == .latched then 2 else 0) + (if (s.ch k).state == .tripped then 1 else 0))

/-- Trip status 2300:0B: the W1C bits with OVERLAP, ANYLATCH and ANYACT. -/
def Chip.tripStatus (s : Chip) : Nat :=
  setBits (s.rd 0x2300 0x0B) 2 0
    ((if s.trip.oldAct.isSome then 4 else 0) + (if s.trip.latched == 0 then 0 else 2) +
      (if s.trip.asserted == 0 then 0 else 1))

/-- Switching status 2500:1B: the W1C bits with WELD, HELD, RAMP and PRECHG. -/
def Chip.swiStatus (s : Chip) : Nat :=
  setBits (s.rd 0x2500 0x1B) 3 0
    ((if s.swi.mainWeld || (List.range 32).any (fun n => (s.st n).sw == .welded) then 8 else 0) +
     (if (List.range 32).any (fun n => (s.st n).sw == .held) then 4 else 0) +
     (if s.swi.ramp then 2 else 0) + (if s.swi.sec == .precharge then 1 else 0))

/-- The slots of the ingest FIFO, and those not yet written (2B00:02, 03). -/
def Record.slots (r : Record) : Nat := 1 + r.snaps.length

def Recorder.fill (r : Recorder) : Nat := r.fifo.foldl (fun n x => n + x.r.slots) 0

def Recorder.unwritten (r : Recorder) : Nat :=
  r.fifo.foldl (fun n x => if x.written then n else n + x.r.slots) 0

/-- Sectors with nothing in them (5000:07), the open sector apart. -/
def Recorder.freeSectors (r : Recorder) : Nat :=
  2048 - (r.open_ + 2048 - r.oldest) % 2048 - 1 - (if r.closing.isSome then 1 else 0) - r.former.length

/-- A record's 64-byte header slot (R606). -/
def Record.header (r : Record) : List Byte :=
  let pre := le 6 r.seq
  let post := le 4 r.optime ++ le 2 r.tick ++ le 4 r.pcycle ++ le 8 r.stime ++ le 1 r.flags ++ le 1 r.snaps.length ++
    le 2 r.code ++ le 2 r.src ++ le 4 r.repeats ++ le 4 r.lost ++ le 4 r.lastOpt ++ le 2 r.lastTick ++ le 1 r.snapSet ++
    le 1 0 ++ fit 12 r.detail
  pre ++ le 2 r.ver ++ post ++ le 4 (crc32c (pre ++ post)).toNat

/-- Group of a setting: its entry's. -/
def groupOf (key : Nat) : Nat := match entryOf (key / 256) (key % 256) with
  | some e => e.grp
  | none => 9

/-- Staged settings of group `g` (201g:06). -/
def Claim.stagedOf (c : Claim) (g : Nat) : Nat :=
  (c.staged.filter (fun x => groupOf x.1 == g)).length + (c.stagedDom.filter (fun x => groupOf x.1 == g)).length

/-- Value of a semaphore object 201g:sub (R564). -/
def Chip.semView (s : Chip) (g sub : Nat) : Nat :=
  let c := s.claimOf g
  match sub, c with
  | 0x01, some c => masterCode c.owner
  | 0x02, some c => if c.edit then 1 else 2
  | 0x03, _ => (s.runOf g).code
  | 0x04, some c => c.lease / 100
  | 0x05, some c => c.left
  | 0x06, some c => c.stagedOf g
  | 0x0B, some c => c.id
  | _, _ => s.rd (0x2010 + g) sub

/-- Value of a recorder object. -/
def State.recView (s : State) (sub : Nat) : Nat :=
  match sub with
  | 0x01 => setBits (s.chip.rd 0x2B00 0x01) 1 0 ((if s.rcd.limiting then 2 else 0) + (if s.rcd.flushing then 1 else 0))
  | 0x02 => s.rcd.fill
  | 0x03 => s.rcd.unwritten
  | 0x06 => s.rcd.nextSeq
  | 0x0D => s.rcd.pendingLost
  | _ => s.chip.rd 0x2B00 sub

/-- SEQ field of a log slot; `none` for a free or pad slot. -/
def slotSeq (b : List Byte) : Option Nat :=
  if b.length = 64 && leAt b 0 6 ≠ 0xFFFFFFFFFFFF then some (leAt b 0 6) else none

def State.logView (s : State) (sub : Nat) : Nat :=
  match sub with
  | 0x01 => s.rcd.full
  | 0x04 => s.rcd.oldest
  | 0x05 => s.rcd.open_
  | 0x07 => s.rcd.freeSectors
  | 0x09 => s.rcd.closing.getD 0xFFFF
  | _ => s.chip.rd 0x5000 sub

/-- Can an object be read (R8, R567)? -/
def readStatus (idx sub : Nat) : Status :=
  if !idxExists idx then .noObj
  else if sub == 0 then .ok
  else match entryOf idx sub with
    | none => .noSub
    | some e => if e.acc == .wo then .access else .ok

/-! ## Checks of a write (R570) -/

/-- Step 4: the value against the range or code list of its entry. -/
def inRange (e : Entry) (v : Nat) : Bool :=
  match e.ty with
  | .i n => e.ok.isEmpty || e.ok.any (fun x => x.1 ≤ toInt (8 * n) v && toInt (8 * n) v ≤ x.2)
  | .u _ => e.ok.isEmpty || e.ok.any (fun x => x.1 ≤ (v : Int) && (v : Int) ≤ x.2)
  | .r32 => bits v 30 23 != 255
  | _ => true

/-- A row word of the event matrix: reserved bits 0, DEPTH and RATE 0 only in an empty row (R608). -/
def rowOk (row v : Nat) : Bool :=
  bits v 23 16 == 0 &&
  ((bits v 15 8 != 0 && bits v 7 0 != 0) || (row != 255 && bits v 63 48 == 0))

/-- Reserved bits of field maps that are refused at the write. -/
def fieldOk (idx sub v : Nat) : Bool :=
  if 0x2B40 ≤ idx && idx ≤ 0x2B4F then rowOk ((idx - 0x2B40) * 16 + sub - 1) v
  else if idx == 0x6050 && sub == 0x02 then bits v 23 16 == 0
  else true

/-- Step 3: length against the type. -/
def lengthStatus (ty : Ty) (n : Nat) : Status :=
  match ty with
  | .dom lo hi => if n > hi then .tooBig else if n < lo then .type else .ok
  | t => if n == t.size then .ok else .type

/-- Steps 3 and 4 for a value. -/
def valueStatus (e : Entry) (idx sub : Nat) (val : List Byte) : Status :=
  match lengthStatus e.ty val.length with
  | .ok => if inRange e (ofLE val) && fieldOk idx sub (ofLE val) then .ok else .range
  | st => st

/-- Step 2 for an RWS object: the master's claim and the run state of the group (R546, R547). -/
def Chip.ownerStatus (s : Chip) (m : Master) (grp : Nat) (act : Bool) : Status :=
  match s.claimOf grp with
  | none => .notOwner
  | some c =>
    if c.owner ≠ m || !c.live then .notOwner
    else if act then (if c.edit then .notEdit else .ok)
    else if c.edit && c.run == .edit && c.next == .stay then .ok else .notEdit

/-- Steps 1 to 4 of R570 for a write of `val` by `m`. -/
def Chip.writeStatus (s : Chip) (m : Master) (idx sub : Nat) (val : List Byte) : Status :=
  if !mayWrite m then .role
  else if !idxExists idx then .noObj
  else match entryOf idx sub with
    | none => if sub == 0 then .access else .noSub
    | some e =>
      match e.acc with
      | .ro => .access
      | .rws =>
        (match s.ownerStatus m e.grp (isAction idx sub) with
         | .ok => valueStatus e idx sub val
         | st => if e.grp == 10 then valueStatus e idx sub val else st)
      | _ => valueStatus e idx sub val

end Sys2Proof.Machine
end

