-- ==== Sys2Proof/Machine/Sequence.lean ====
section
/-!
DEFINITION. Sys2Proof/Machine/Sequence.lean: the shared operations of string switching (09_limits, R329–R355): what a
KH2 slot shows, closability, the steps of closing a string and the section, ramps, openings and contactor wear.
-/

namespace Sys2Proof.Machine

/-! ## What the latest fresh KH2 slot shows -/

def Chip.slotAt (s : Chip) (r p : Nat) : List Byte := (Map.read {} s.slotData (r * 64 + p)).bytes

/-- Slot of the head of string `n`; [] where there is none. -/
def Chip.headSlot (s : Chip) (n : Nat) : List Byte :=
  match s.headOf n with
  | some (r, p) => s.slotAt r p
  | none => []

/-- String current, string voltage and bus-side voltage, mA and mV (R104). -/
def Chip.strI (s : Chip) (n : Nat) : Int := toInt 32 (beAt (s.headSlot n) 0 4)
def Chip.strV (s : Chip) (n : Nat) : Int := toInt 32 (beAt (s.headSlot n) 4 4)
def Chip.busV (s : Chip) (n : Nat) : Int := toInt 32 (beAt (s.headSlot n) 8 4)
/-- Contactor word: [5:4] commanded, [3:2] coil fault, [1:0] feedback closed, C1 then C0 in each pair. -/
def Chip.contactor (s : Chip) (n : Nat) : Nat := beAt (s.headSlot n) 12 2
def slotStatus (b : List Byte) : Nat := beAt b 40 4

/-- Voltage mismatch ΔV: string voltage less bus-side voltage (R342). -/
def Chip.dv (s : Chip) (n : Nat) : Int := s.strV n - s.busV n

/-! ## Closability (R230, R341) -/

def Chip.herdState (s : Chip) (r p : Nat) : Nat := bits (s.rd (0x3101 + 16 * r) (p + 1)) 15 12

/-- The ring of the string is not admitted, or one of its positions is UNREACHABLE (R143, R167). -/
def Chip.ringRefused (s : Chip) (n : Nat) : Bool :=
  match s.headOf n with
  | none => true
  | some (r, _) =>
    let st := s.rd (0x3107 + 16 * r) 0x01
    st == 0 || st == 1 || st == 5 || (s.positionsOf n).any (fun p => s.herdState r p == 4)

/-- Bits of 32nn:06, MATCH apart (R341). -/
def Chip.refusal (s : Chip) (n : Nat) : Nat :=
  (if s.activeish && s.rd (0x3200 + n) 0x03 == 1 then 0 else 1) +
  (if s.runOf 0 == .run && s.runOf 3 == .run then 0 else 2) +
  (if s.tripRefused n then 4 else 0) +
  (if s.ringRefused n then 8 else 0) +
  (if (match s.headOf n with
      | some (r, _) => (s.positionsOf n).any (fun p => s.rd (0x2960 + r) (0x41 + p) == 5)
      | none => false) then 16 else 0) +
  (if (s.st n).sw == .welded then 32 else 0) +
  (if bits (s.contactor n) 3 2 == 0 then 0 else 64) +
  (if s.swi.ramp then 128 else 0)

def Chip.closable (s : Chip) (n : Nat) : Bool := s.refusal n == 0

/-! ## Contactor wear (R339, R340) -/

/-- Charge and count an opening of string `n`: contacts named by `mask`; opened together each takes half, in turn the
first takes all (`first`) and the second nothing. -/
def Chip.wearString (s : Chip) (n mask : Nat) (together first : Bool) : Chip :=
  let x := s.st n
  let e := s.energy x.lastI x.lastV
  let each := if together then e / 2 else if first then e else 0
  let s := s.wrI 32 (0x3200 + n) 0x0B x.lastI
  let s := if bit mask 0 then (s.inc 32 (0x3200 + n) 0x07).wear (0x3200 + n) 0x09 each n 1 else s
  if bit mask 1 then (s.inc 32 (0x3200 + n) 0x08).wear (0x3200 + n) 0x0A each n 2 else s

/-! ## Closing one string (R342–R345) -/

/-- Nominal capacity of the profile of string `n`, mAh. -/
def Chip.qnom (s : Chip) (n : Nat) : Nat := s.rd (0x2810 + s.rd (0x2840 + n) 0x01) 0x02

/-- Is string `n` closed: CLOSED, or WELDED in both paths (R355)? -/
def Chip.isShut (s : Chip) (n : Nat) : Bool := (s.st n).sw == .closed || (s.st n).weldBoth

/-- Is string `n` counted in the section (R320, R355): it is closed, and not only since this tick (R342, R353)? -/
def Chip.counted (s : Chip) (n : Nat) : Bool := s.isShut n && (s.st n).closedTick != some s.ticks

/-- The allowed |ΔV| in mV of R344: I_max × (R_new + R_par), from 0.001 C, mAh and µΩ. R_par is the parallel resistance
of the CLOSED strings. -/
def Chip.allowedDv (s : Chip) (n : Nat) : Nat :=
  let imax := s.rd 0x2500 0x0E * s.qnom n / 1000
  let rnew := s.rd (0x3200 + n) 0x0E
  let g := ((List.range 32).filter s.isShut).foldl (fun g m =>
    let r := s.rd (0x3200 + m) 0x0E
    if r = 0 then g else g + 1000000000000 / r) 0
  let rpar := if g = 0 then 0 else 1000000000000 / g
  imax * (rnew + rpar) / 1000000

def Chip.matches (s : Chip) (n : Nat) : Bool := decide ((s.dv n).natAbs ≤ s.allowedDv n)

/-- Put the switching step in progress. -/
def Chip.setStep (s : Chip) (x : Option SeqStep) : Chip := { s with swi := { s.swi with step := x } }

def Chip.setSw (s : Chip) (n : Nat) (x : SwState) : Chip := s.setSt n { s.st n with sw := x }

/-- CLEAR_OPENED to the head and to every KS16 of the string that reports OPENED (step 1). -/
def Chip.clearOpenedAll (s : Chip) (n : Nat) : Chip :=
  match s.headOf n with
  | none => s
  | some (r, h) => (s.positionsOf n).foldl (fun s p =>
      if p == h || bit (slotStatus (s.slotAt r p)) 22 then s.ctrl r p 0x03 0 else s) s

/-- The coils of string `n` that are energised as the device sees it: those of a CLOSED or RAMPING string, C1 of one that opens in
order, and those of a closing step. -/
def Chip.energised (s : Chip) (n : Nat) : Nat :=
  match (s.st n).sw with
  | .closed | .ramping => 3
  | .opening => if s.swi.step == some .opening && !(s.st n).emergency then 2 else 0
  | .testing | .closing => match s.swi.step with | some x => x.coils n | none => 0
  | _ => 0

/-- The coils `mask` of string `n` are released together, and the contactors that open are charged (R339). -/
def Chip.releaseCoils (s : Chip) (n mask : Nat) : Chip :=
  let on := s.energised n &&& mask
  let s := if on = 0 then s else s.wearString n on (on == 3) true
  s.ctrlHead n 0x01 mask

/-- CLOSEs that have not left yet for the head of string `n` leave no more: an opening wins over a closing (R329). -/
def Chip.dropClosesOf (s : Chip) (n : Nat) : Chip :=
  match s.headOf n with
  | some (r, p) => s.setRing r { s.ring r with queue := (s.ring r).queue.filter (fun q => !(q.isClose && q.pos == p)) }
  | none => s

/-- Start the closing of string `n` (R342 steps 1 to 3). -/
def Chip.startClose (s : Chip) (n : Nat) (first : Bool) : Chip :=
  let s := s.clearOpenedAll n
  let dv := s.dv n
  let s := (s.setSt n { s.st n with wait := false }).wrI 32 (0x3200 + n) 0x0C dv
  let s := { s with swi := { s.swi with first := first } }
  if dv.natAbs ≥ s.rd 0x2500 0x13 then
    ((s.ctrlHead n 0x02 1).setSw n .testing).setStep (some (.solo n false dv))
  else ((s.ctrlHead n 0x02 2).setSw n .closing).setStep (some (.c1 n))

/-- HELD for voltage match, with 0x5005 (R344). -/
def Chip.hold (s : Chip) (n : Nat) : Chip :=
  let was := (s.st n).sw == .held
  let s := ((s.setSt n { s.st n with sw := .held, wait := false }).wrI 32 (0x3200 + n) 0x0C (s.dv n)).wrBit
    (0x3200 + n) 0x06 8 true
  if was then s else s.post 0x5005 n (le 4 (ofInt 32 (s.dv n)) ++ le 4 (s.allowedDv n))

/-- The waiting or HELD string with the least |ΔV|, the lower number on a tie (R345). -/
def Chip.nearest (s : Chip) (ref : Nat → Nat) : List Nat → Option Nat
  | [] => none
  | n :: ns =>
    match s.nearest ref ns with
    | none => some n
    | some m => if ref n ≤ ref m then some n else some m

/-- Do the strings of the pass remain? Those that fail R344 become HELD; the nearest that passes starts to close. The
list is of the strings still waiting. -/
def Chip.pass (s : Chip) : Nat → Chip
  | 0 => s
  | k + 1 =>
    match s.nearest (fun n => (s.dv n).natAbs) ((List.range 32).filter (fun n => (s.st n).wait && s.closable n)) with
    | none => s
    | some n => if s.matches n then s.startClose n false else (s.hold n).pass k

/-- The step that an orderly opening is at; it does not end with the closing sequence. -/
def Chip.openingStep (s : Chip) : Option SeqStep := s.swi.step.filter (·.opens)

/-- The transition to ACTIVE ends in ACTIVE (R352). -/
def Chip.finishActive (s : Chip) : Chip :=
  let s := { s with swi := { s.swi with running := false, step := s.openingStep, first := false }, trans := .none }
  s.setMode .active

/-- The closing sequence fails: the section state becomes FAULT, and a transition ends in READY with 0xA015 (R349). -/
def Chip.failActive (s : Chip) (step cause : Nat) : Chip :=
  let s := (List.range 32).foldl (fun s n => s.setSt n { s.st n with wait := false }) s
  let s := if s.swi.running then { s.post 0xA015 0 (le 1 step ++ le 1 cause) with trans := .none } else s
  { s with swi := { s.swi with running := false, step := s.openingStep, first := false, sec := .fault } }

/-- Go on with the pass of R345; at its end a running transition enters ACTIVE. -/
def Chip.goPass (s : Chip) : Chip :=
  let s := (s.setStep none).pass 33
  if s.swi.step.isNone && s.swi.running then s.finishActive else s

/-- Is |V_bus − V_link| within the completion difference 2500:0A (R347)? -/
def Chip.linkNear (s : Chip) : Bool :=
  decide (1000 * (s.vBus - s.vLink).natAbs ≤ s.rd 0x2500 0x0A * s.vBus.natAbs)

def Chip.noMains (s : Chip) : Bool := s.rd 0x2500 0x03 ≥ 16 && s.rd 0x2500 0x04 ≥ 16

/-- Are both main channels on, or is the section closed without any (R351)? -/
def Chip.mainsOn (s : Chip) : Bool :=
  if s.noMains then s.swi.sec == .closed else s.chanOn (s.rd 0x2500 0x03) && s.chanOn (s.rd 0x2500 0x04)

/-- An on-command of the sequence to channel `k`, and the step that follows it. A trip in force on the channel aborts the sequence
(R350). -/
def Chip.seqStepOn (s : Chip) (k : Nat) (x : SeqStep) : Chip :=
  let s := s.seqOn k
  if k < 16 && s.heldOff k then s.abortSeq 3 else s.setStep (some x)

/-- Continue at R347: main negative, or the pass where the mains are on or not configured. A main channel that is on is not switched on
again (R353). -/
def Chip.goMain (s : Chip) : Chip :=
  let pos := s.rd 0x2500 0x03
  let neg := s.rd 0x2500 0x04
  if s.noMains then ({ s with swi := { s.swi with sec := .closed } }).goPass
  else if s.chanOn pos && s.chanOn neg && s.linkNear then ({ s with swi := { s.swi with sec := .closed } }).goPass
  else
    let s := { s with swi := { s.swi with v0 := s.vLink } }
    if s.chanOn neg then s.setStep (some .mainNeg) else s.seqStepOn neg .mainNeg

/-- Twice the median of a list of numbers. -/
def median2I (xs : List Int) : Int :=
  let ys := sortBy (fun a b => decide (a ≤ b)) xs
  ys.getD ((ys.length - 1) / 2) 0 + ys.getD (ys.length / 2) 0

/-- R346: the closable string nearest the reference closes first; with none configured as main or pre-charge channel
only within the completion difference, else it is refused with MATCH and 0x500D (R354; the issuer is the closing sequence, R659); with
none closable a transition fails. -/
def Chip.goFirst (s : Chip) : Chip :=
  let cs := (List.range 32).filter (fun n => (s.st n).wait && s.closable n)
  let med := median2I (cs.map s.strV)
  let ref := if 20 * s.vLink > med then 2 * s.vLink else med
  match s.nearest (fun n => (2 * s.strV n - ref).natAbs) cs with
  | none => if s.swi.running then s.failActive 6 0 else { s with swi := { s.swi with step := s.openingStep, first := false } }
  | some n =>
    if s.noMains && s.rd 0x2500 0x02 ≥ 16 &&
        decide (1000 * (s.strV n - s.vLink).natAbs > s.rd 0x2500 0x0A * (s.strV n).natAbs) then
      let s := (s.wrBit (0x3200 + n) 0x06 8 true).setSt n { s.st n with wait := false }
      (s.post 0x500D n (le 2 (256 + s.refusal n) ++ le 1 0x11)).failActive 6 0
    else s.startClose n true

/-- The next closing: while no string is CLOSED, the first of R346, else the pass of R345. -/
def Chip.goAhead (s : Chip) : Chip :=
  if s.swi.first || !(List.range 32).any s.isShut then (s.setStep none).goFirst else s.goPass

/-- R353: the contacts found closed at the start of the transition are adopted; a single one is released. -/
def Chip.adoptContacts (s : Chip) (n : Nat) : Chip :=
  let w := s.contactor n
  let x := s.st n
  if s.headSlot n == [] then s
  else if bits w 5 4 == 3 && bits w 1 0 == 3 then
    let since := if x.sw == .closed then x.closedTick else some s.ticks
    (s.setSt n { x with sw := .closed, wait := false, closedTick := since }).post 0x5004 n (le 4 0)
  else if bit w 4 && bit w 0 then ((s.wearString n 1 false true).ctrlHead n 0x01 1).setSw n .open
  else if bit w 5 && bit w 1 then ((s.wearString n 2 false true).ctrlHead n 0x01 2).setSw n .open
  else s

/-- CONTACT_ADOPTION and the start of the closing sequence (R346, R352, R353); a trip in force on a sequence channel ends it at once
(R350). -/
def Chip.startSequence (s : Chip) : Chip :=
  let s := { s with trans := .toActive
                    swi := { s.swi with running := true, step := none, tries := 0, first := false } }
  if s.seqTripped then s.abortSeq 3
  else
    let s := (List.range 32).foldl Chip.adoptContacts s
    let s := (List.range 32).foldl (fun s n =>
      if s.closable n && !s.isShut n then s.setSt n { s.st n with wait := true } else s) s
    if (List.range 32).any s.isShut then s.goMain
    else
      let off (s : Chip) (k : Nat) : Chip := if s.chanOn k then s.seqOff k .sequence else s
      ((off (off s (s.rd 0x2500 0x03)) (s.rd 0x2500 0x04)).mainsOpened s).goFirst

/-- A closing step of string `n` fails: both coils are released, with 0x500E (R343); the sequence goes on. -/
def Chip.stepFailed (s : Chip) (n step cause : Nat) : Chip :=
  (((s.releaseCoils n 3).setSw n .open).post 0x500E n (le 1 step ++ le 1 cause)).goAhead

/-- String `n` is welded (R343). Signatures: 1 current and 2 voltage in a solo test, 3 feedback, 4 link (R659; log
entry 79). -/
def Chip.weld (s : Chip) (n contactor sig : Nat) (both : Bool) : Chip :=
  (s.setSt n { s.st n with sw := .welded, wait := false, weldBoth := both }).post 0x500A n (le 1 contactor ++ le 1 sig)

/-- The string current shows that string `n` conducts with its coils off (2500:14). -/
def Chip.carries (s : Chip) (n : Nat) : Bool := decide (s.rd 0x2500 0x14 < (s.strI n).natAbs)

/-- A feedback that shows closed with its coil off for the contact time (R343), both paths where the current shows it too (R355); a string
in its closing steps is released, and the sequence goes on without it. -/
def Chip.weldByFeedback (s : Chip) (n : Nat) (c0 c1 : Bool) : Chip :=
  let closing := (s.st n).sw == .testing || (s.st n).sw == .closing
  let s := if closing then s.releaseCoils n 3 else s
  let s := s.weld n (if c0 then 1 else 2) 3 (c0 && c1 && s.carries n)
  if closing then s.goAhead else s

/-- String `n` is CLOSED (R342). -/
def Chip.closed (s : Chip) (n : Nat) : Chip :=
  let s := s.setSt n { s.st n with sw := .closed, closedTick := some s.ticks }
  let s := (s.wr (0x3200 + n) 0x06 0).post 0x5004 n (le 4 (s.rd (0x3200 + n) 0x0C))
  if s.swi.first then { s with swi := { s.swi with first := false } }.goMain else s.goPass

/-- A pre-charge fails (R348, R349): channels off, event 0x5003, retry or FAULT. -/
def Chip.prechargeFails (s : Chip) (cause : Nat) : Chip :=
  let s := ((s.seqOff (s.rd 0x2500 0x02) .sequence).seqOff (s.rd 0x2500 0x04) .sequence).mainsOpened s
  let s := { s with swi := { s.swi with tries := s.swi.tries + 1, sec := .open } }
  let s := (s.flag 0x2500 0x1B 4).post 0x5003 0xFF (le 1 cause ++ le 2 s.swi.tauMs ++ le 4 s.swi.tries)
  if s.swi.tries > s.rd 0x2500 0x0D then s.failActive 8 8 else s.setStep (some .retryPause)

/-! ## Ramps and openings (R335–R338, R329, R330) -/

/-- Does string `n` still have a path to open: CLOSED, on its way to open, or welded in both paths? -/
def Chip.engaged (s : Chip) (n : Nat) : Bool :=
  s.isShut n || (s.st n).sw == .ramping || (s.st n).sw == .opening

/-- A string in its closing steps when a ramp begins: its coils are released, and its closing resumes after the ramp, or ends where
the section is disconnected (R335, R338). -/
def Chip.suspendString (s : Chip) (section_ : Bool) (n : Nat) : Chip :=
  let x := s.st n
  if x.sw == .testing || x.sw == .closing then (s.releaseCoils n 3).setSt n { x with sw := .open, wait := !section_ }
  else if section_ then s.setSt n { x with wait := false, sw := if x.sw == .held then .open else x.sw }
  else s

/-- Closing stands still while a ramp is in progress (R338): no queued CLOSE leaves, the pre-charge channel is switched off. -/
def Chip.suspendClosing (s : Chip) (section_ : Bool) : Chip :=
  if (s.swi.step.map (·.opens)).getD false then s
  else
    let pre := s.rd 0x2500 0x02
    let s := if s.chanOn pre then s.seqOff pre .sequence else s
    let s := (List.range 32).foldl (fun s n => s.suspendString section_ n) s.dropCloses
    s.setStep none

/-- Order an orderly disconnect of the strings `ns`, or of the section (R335): a ramp starts, or the one in progress
serves it. Limits are published 0 with RAMP while `swi.ramp` holds. -/
def Chip.orderRamp (s : Chip) (ns : List Nat) (section_ : Bool) : Chip :=
  let ns := if section_ then (List.range 32).filter s.engaged else ns
  let sw (n : Nat) : SwState := if (s.st n).sw == .closed then .ramping else (s.st n).sw
  let s := s.suspendClosing section_
  let s := ns.foldl (fun s n => s.setSt n { s.st n with toOpen := true, wait := false, sw := sw n }) s
  if s.swi.ramp then { s with swi := { s.swi with rampSection := s.swi.rampSection || section_, lowTicks := 0 } }
  else
    let s := { s with swi := { s.swi with ramp := true, rampSection := section_, lowTicks := 0, sec := SecState.ramping } }
    s.post 0x5007 0xFF (leList 1 ((List.range 32).filter (fun n => (s.st n).toOpen)))

/-- The closing steps of string `n` are over: the sequence goes on without it. -/
def Chip.leaveStep (s : Chip) (n : Nat) : Chip :=
  match s.swi.step with
  | some x => if x.coils n = 0 then s else s.goAhead
  | none => s

/-- A string emergency (R330, R332): event 0x3011 with condition and layer, CTRL OPEN of the contactors `mask` at once. No closing of the
string goes on (R329). -/
def Chip.emergencyOf (s : Chip) (n mask cond layer : Nat) : Chip :=
  let s := (s.post 0x3011 n (le 1 cond ++ le 1 layer)).flag 0x2500 0x1B 6
  let on := s.energised n &&& mask
  let s := ((if on = 0 then s else s.wearString n on (on == 3) true).dropClosesOf n).openNow n mask
  let sw : SwState := if (s.st n).sw == .welded then .welded else .opening
  (s.setSt n { s.st n with sw := sw, emergency := true, ordered := true, wait := false }).leaveStep n
def Chip.emergency (s : Chip) (n cond layer : Nat) : Chip := s.emergencyOf n 3 cond layer

/-- A section emergency: ETRIP by policy (R224). -/
def Chip.sectionEmergency (s : Chip) : Chip := (s.flag 0x2500 0x1B 6).etrip .policy

/-- Every opening of the ramp is confirmed: RAMP clears, a transition waiting for the disconnect goes on, and closing resumes (R34,
R336, R338). -/
def Chip.rampDone (s : Chip) : Chip :=
  let s := { s with swi := { s.swi with ramp := false, rampSection := false, step := none,
                                        sec := if (List.range 32).any s.isShut then .closed else .open } }
  match s.trans with
  | .toReady => { s.setMode .ready with trans := .none }
  | .toShutdown => s.enterShutdown
  | .toActive => if (List.range 32).any s.isShut then s.goMain else s.goFirst
  | .none => if s.mode == .active then s.goAhead else s

/-- Where nothing that the ramp has ordered is unconfirmed any more, it ends, or it goes on for what has been ordered since the
openings began (R335, R336). -/
def Chip.settleRamp (s : Chip) : Chip :=
  let mains := s.chanOn (s.rd 0x2500 0x03) || s.chanOn (s.rd 0x2500 0x04)
  if !s.swi.ramp || s.swi.step == some .opening || (List.range 32).any (fun n => (s.st n).toOpen && (s.st n).ordered) then s
  else if (List.range 32).any (fun n => (s.st n).toOpen) || (s.swi.rampSection && mains) then
    { s with swi := { s.swi with step := none, sec := .ramping } }
  else s.rampDone

/-- Begin the opening: mains first for the section, then C0 of every string to open (R336). -/
def Chip.beginOpening (s : Chip) : Chip :=
  let s := if s.swi.rampSection then
      let pos := s.rd 0x2500 0x03
      let neg := s.rd 0x2500 0x04
      let e := s.energy s.secCurrent s.vBus
      let s := if s.chanOn pos then (s.seqOff pos .sequence).wearMain true e else s
      if s.chanOn neg then (s.seqOff neg .sequence).wearMain false 0 else s
    else s
  let s := (List.range 32).foldl (fun s n => if (s.st n).toOpen && !(s.st n).ordered then
      let e := s.energy (s.st n).lastI (s.st n).lastV
      let s := (if bit (s.energised n) 0 then s.wearString n 1 false true else s).ctrlHead n 0x01 1
      s.setSt n { s.st n with sw := if (s.st n).sw == .welded then .welded else .opening, ordered := true, openE := e }
    else s) s
  { s with swi := { s.swi with sec := .opening, step := some .opening } }

/-- After the contact time C1 opens; the slots of the heads confirm it (R336). -/
def Chip.endOpening (s : Chip) : Chip :=
  let s := (List.range 32).foldl (fun s n => if (s.st n).toOpen && (s.st n).ordered && !(s.st n).emergency then
      (if bit (s.energised n) 1 then s.wearString n 2 false false else s).ctrlHead n 0x01 2 else s) s
  (s.setStep (some .confirming)).settleRamp

/-- The head of string `n` shows both coils off and both contacts open: an opening that was ordered is confirmed, with 0x5006 for
that of an orderly disconnect (R336). -/
def Chip.confirmOpen (s : Chip) (n : Nat) : Chip :=
  let x := s.st n
  let s := if x.ordered && x.toOpen && !x.emergency then
      s.post 0x5006 n (le 4 (s.rd (0x3200 + n) 0x0B) ++ le 8 x.openE) else s
  (s.setSt n { s.st n with sw := .open, emergency := false, toOpen := false, ordered := false }).settleRamp

end Sys2Proof.Machine
end

