-- ==== Sys2Proof/Machine/Slice.lean ====
section
/-!
DEFINITION. Sys2Proof/Machine/Slice.lean: the slices KS16 and KH2 at the link (03_kwasel_ring_link R92–R128, R661) and
their comparators and local opening (R212–R219). A frame command names the slice that receives the frame; what the
slice sends on stands in its field `out`.
-/

namespace Sys2Proof.Machine

/-! ## Registers (R115–R117, R195, R306) -/

/-- Power-up value of a writable register (R661). -/
def regDefault (a : Nat) : Nat :=
  match a with
  | 0x07 => 1000000
  | 0x08 => 0x55555555
  | 0x09 => 45000 * 65536 + 10000
  | 0x0B => 0x000FFFFF
  | 0x25 => 20 * 256 + 10
  | 0x26 => 20
  | _ => 0

/-- The value last written, and the value in effect (R116). -/
def Slice.reg (x : Slice) (a : Nat) : Nat := Map.read (regDefault a) x.regs a
def Slice.effReg (x : Slice) (a : Nat) : Nat := Map.read (regDefault a) x.eff a

/-- ROLE (register 0x0003). -/
def Slice.role (x : Slice) : Nat := x.epoch % 65536 * 65536 + x.posn % 256 * 256 + x.flags % 256 / 8 * 8

/-- HALF and TSRC: true is up (R103, R107). -/
def Slice.half (x : Slice) : Bool := bit x.flags 6
def Slice.tsrc (x : Slice) : Bool := bit x.flags 5

/-- Answers of a target (R101). -/
def rOK : Nat := 0x00
def rSTALE : Nat := 0x01
def rBADADDR : Nat := 0x02
def rREADONLY : Nat := 0x03
def rREFUSED : Nat := 0x04
def rBUSY : Nat := 0x05
def rBADLEN : Nat := 0x06
def rUNSUPPORTED : Nat := 0x07
def rBADVALUE : Nat := 0x08

/-- 32-bit word `i` of the 128-byte IDBUF. -/
def TagUnit.word (t : TagUnit) (i : Nat) : Nat := beAt (fit 128 t.buf) (4 * i) 4

/-- The word of an implemented register, or the status that refuses it. -/
def Slice.readReg (x : Slice) (a : Nat) : Except Nat Nat :=
  if a == 0 then .ok (x.serial.toNat / 2 ^ 32)
  else if a == 1 then .ok (x.serial.toNat % 2 ^ 32)
  else if a == 2 then .ok ((if x.kh2 then 2 else 1) * 2 ^ 24 + x.ver.toNat)
  else if a == 3 then .ok x.role
  else if a == 4 then .ok x.cumA
  else if a == 5 then .ok x.cumB
  else if a == 0x0C then .ok (if x.kh2 then x.reg a else 0)
  else if a ≤ 0x0B then .ok (x.reg a)
  else if 0x10 ≤ a && a ≤ 0x17 then .ok (x.reg a)
  else if a == 0x20 then .ok x.alarms
  else if a == 0x21 then .ok x.rxerrA
  else if a == 0x22 then .ok x.rxerrB
  else if a == 0x23 then .ok x.lockCnt
  else if a == 0x24 then (if x.kh2 then .error rBADADDR else .ok x.stack)
  else if a == 0x25 then .ok (if x.kh2 then 0 else x.reg a)
  else if a == 0x26 then .ok (if x.kh2 then x.reg a else 0)
  else if 0x27 ≤ a && a ≤ 0x2A || 0x30 ≤ a && a ≤ 0x4F then
    if x.kh2 then .error rUNSUPPORTED
    else if a == 0x27 then .ok (Config.slicePin x.serial).toNat
    else if a == 0x28 then .ok (x.tag.status * 2 ^ 24 + x.tag.op)
    else if a == 0x29 then .ok (x.thraw.getD 0 0 % 65536 * 65536 + x.thraw.getD 1 0 % 65536)
    else if a == 0x2A then .ok (x.thraw.getD 2 0 % 65536 * 65536 + x.thraw.getD 3 0 % 65536)
    else .ok (x.tag.word (a - 0x30))
  else .error rBADADDR

/-- The words from `a` on, or the first refusal. -/
def Slice.readRegs (x : Slice) (a : Nat) : Nat → Except Nat (List Nat)
  | 0 => .ok []
  | n + 1 =>
    match x.readReg a, x.readRegs (a + 1) n with
    | .ok w, .ok ws => .ok (w :: ws)
    | .error e, _ => .error e
    | _, .error e => .error e

/-- May word `v` be written to register `a`; `tickp` is TICKP after the frame (R117)? -/
def Slice.writeCheck (x : Slice) (tickp a v : Nat) : Nat :=
  if a ≤ 5 || 0x20 ≤ a && a ≤ 0x24 then
    (match x.readReg a with | .ok _ => rREADONLY | .error e => e)
  else if a == 0x07 then if v == 1000000 || v == 2000000 || v == 4000000 then rOK else rBADVALUE
  else if a == 0x0A then if popCount v 16 ≤ 4 then rOK else rBADVALUE
  else if a == 0x0C then if !x.kh2 then rUNSUPPORTED else if v ≤ 3 then rOK else rBADVALUE
  else if a ≤ 0x0B then rOK
  else if 0x10 ≤ a && a ≤ 0x17 then
    if bits v 31 16 * 100 < tickp && bits v 15 0 * 100 < tickp then rOK else rBADVALUE
  else if a == 0x25 then
    if x.kh2 then rUNSUPPORTED
    else if 1 ≤ bits v 15 8 && bits v 15 8 ≤ 100 && 1 ≤ bits v 7 0 && bits v 7 0 ≤ 100 then rOK else rBADVALUE
  else if a == 0x26 then
    if !x.kh2 then rUNSUPPORTED
    else if 1 ≤ bits v 15 0 && (bits v 15 0 ≤ 1000 || bits v 15 0 == 0xFFFF) then rOK else rBADVALUE
  else if 0x27 ≤ a && a ≤ 0x2A || 0x30 ≤ a && a ≤ 0x4F then
    if x.kh2 then rUNSUPPORTED
    else if a == 0x27 || a == 0x29 || a == 0x2A then rREADONLY
    else if a == 0x28 then
      if x.tag.status == 1 then rBUSY else if 1 ≤ bits v 7 0 && bits v 7 0 ≤ 3 then rOK else rBADVALUE
    else rOK
  else rBADADDR

/-- Start a module-tag operation: 1 load identity record, 2 load certificate, 3 sign the nonce in IDBUF (R306). -/
def TagUnit.start (t : TagUnit) (op : Nat) : TagUnit :=
  if t.status == 1 then t
  else { t with status := 1, op := op, nonce := if op == 3 then (fit 128 t.buf).take 32 else t.nonce }

/-- Write one word. -/
def Slice.writeReg (x : Slice) (a v : Nat) : Slice :=
  if a == 0x28 then { x with tag := x.tag.start (bits v 7 0) }
  else if 0x30 ≤ a then { x with tag := { x.tag with buf := splice (fit 128 x.tag.buf) (4 * (a - 0x30)) (be 4 v) } }
  else { x with regs := Map.write (regDefault a) x.regs a v }

def Slice.writeRegs (x : Slice) : Nat → List Nat → Slice
  | _, [] => x
  | a, w :: ws => (x.writeReg a w).writeRegs (a + 1) ws

/-- The status of a WRITE of words from `a` on: the first word that fails refuses it whole (R115). -/
def Slice.writesCheck (x : Slice) (tickp : Nat) : Nat → List Nat → Nat
  | _, [] => rOK
  | a, w :: ws => if x.writeCheck tickp a w == rOK then x.writesCheck tickp (a + 1) ws else x.writeCheck tickp a w

def wordsOf (bs : List Byte) : Nat → List Nat
  | 0 => []
  | n + 1 => beAt bs 0 4 :: wordsOf (bs.drop 4) n

/-! ## Frames passing a slice (R96–R101, R126, R127) -/

/-- Send `g` on in place of the frame `f` received: towards B when it travels down, towards A when it travels up; a folding side
sends it back with FOLD = 1 (R126). The checks follow R96. `back` is a frame on its way back to its own port. -/
def Slice.send (x : Slice) (back : Bool) (f g : Frame) : Slice :=
  let toB := g.up == back
  let turned := if toB then x.foldB else x.foldA
  { x with out := some (f.reseal { g with fold := g.fold || turned }), turned := turned }

/-- A frame on its way back from an ECHO target, whatever its status (R119). -/
def echoBack (f : Frame) : Bool := f.type == 8 && f.resp

/-- HOP on forwarding (R99). -/
def hopOn (f : Frame) : Frame := if 1 ≤ f.hop && f.hop ≤ 63 then { f with hop := f.hop - 1 } else f

def posOn (f : Frame) : Frame := { f with pos := (f.pos + 1) % 256 }

/-- Pass a frame: with a wrong HCRC or FOLD = 1 nothing is done in it, every other frame has POS counted up after `act`
(R97, R98, R127). -/
def Slice.pass (x : Slice) (type : Nat) (act : Slice → Frame → Slice × Frame) (f : Frame) : Slice :=
  if !f.hcrcOk || f.fold then x.send f.fold f f
  else if echoBack f then x.send true f f
  else if f.type ≠ type then x.send false f (posOn (hopOn f))
  else
    let (x', f') := act x f
    if echoBack f' then { x'.send true f f' with turned := true } else x'.send false f (posOn f')

/-- The response of a target (R99); a STALE_ROLE response carries the slice's own epoch (R149). -/
def Slice.respond (x : Slice) (f : Frame) (st : Nat) (pl : List Byte) : Frame :=
  { f with resp := true, status := st, hop := 0xFF, payload := pl, epoch := if st == rSTALE then x.epoch else f.epoch }

/-- An addressed request at a slice: the target checks EPOCH, then performs it (R99, R101). `op` answers the status,
the response payload and the slice afterwards. DESIGN CHOICE: a request whose frame CRC is wrong is performed too; R97 keeps a slice
from acting for a wrong HCRC alone (log entry 118). -/
def Slice.target (x : Slice) (op : Slice → Frame → Nat × List Byte × Slice) (f : Frame) : Slice × Frame :=
  if f.hop == 0 && !f.resp then
    if f.epoch ≠ x.epoch then (x, x.respond f rSTALE f.payload)
    else
      let (st, pl, x') := op x f
      (x', x'.respond f st pl)
  else (x, hopOn f)

/-- Apply `g` to the slice at position `p` of ring `r`. -/
def Chip.onSlice (s : Chip) (r p : Nat) (g : Slice → Slice) : Chip := s.setSlice (r * 64 + p) (g (s.slice (r * 64 + p)))

/-! ## Exchange segments (R305–R307) -/

/-- A segment in an exchange slot: number, flags, length and payload. -/
def exchSlot (seg flags : Nat) (pl : List Byte) : List Byte := be 2 seg ++ be 1 flags ++ be 1 pl.length ++ fit 40 pl

def Slice.setResp (x : Slice) (b : List Byte) : Slice := { x with tag := { x.tag with resp := b } }

/-- IDENT (R307): slice serial, IDPIN, THRAW, tag serial and flags. -/
def Slice.identResp (x : Slice) : List Byte :=
  let pin := (Config.slicePin x.serial).toNat
  let tag := (Config.tagSerial x.serial).toNat
  exchSlot 0x0001 0 (be 8 x.serial.toNat ++ be 4 pin ++ ((List.range 4).flatMap (fun i => be 2 (x.thraw.getD i 0))) ++ be 8 tag ++
    be 1 ((if tag == 0 then 0 else 2) + (if bit pin 16 then 1 else 0)))

/-- CERT (R307): certificate bytes 0–39, 40–79 or 80–119. -/
def Slice.certResp (x : Slice) (part : Nat) : List Byte :=
  exchSlot (0x0010 + part) 0 ((fit 120 (Config.tagCert x.serial)).drop (40 * part) |>.take 40)

/-- CHAL (R307): the nonce is delivered and the tag starts signing; no response payload. -/
def Slice.chal (x : Slice) (nonce : List Byte) : Slice :=
  { x with tag := { x.tag with status := 1, op := 3, nonce := fit 32 nonce, resp := exchSlot 0x0020 0 [] } }

/-- SIG (R307): r, then s of the signature; BUSY while the tag is still signing, ERROR where it failed. -/
def Slice.sigResp (x : Slice) (part : Nat) : List Byte :=
  if x.tag.status == 1 then exchSlot (0x0021 + part) 0x80 []
  else if x.tag.status == 3 then exchSlot (0x0021 + part) 0x40 []
  else exchSlot (0x0021 + part) 0 ((fit 64 x.tag.buf).drop (32 * part) |>.take 32)

/-- POLL (R307): carries the response to the last request, or BUSY. -/
def Slice.poll (x : Slice) : Slice := if x.tag.resp.isEmpty then x.setResp (exchSlot 0x00FF 0x80 []) else x

/-- A request segment at a slice; a KH2 has no module tag. -/
def Slice.exchange (x : Slice) (seg : Nat) (pl : List Byte) : Slice :=
  if x.kh2 then x
  else if seg == 0x0001 then x.setResp x.identResp
  else if 0x0010 ≤ seg && seg ≤ 0x0012 then x.setResp (x.certResp (seg - 0x0010))
  else if seg == 0x0020 then x.chal pl
  else if seg == 0x0021 || seg == 0x0022 then x.setResp (x.sigResp (seg - 0x0021))
  else if seg == 0x00FF then x.poll
  else x

/-! ## SWEEP (R102–R104, R161) -/

/-- A slot of 44 bytes with its CRC over the frame's SEQ and those bytes (R104). -/
def slotWithCrc (seq : Nat) (b : List Byte) : List Byte :=
  let b := fit 44 b
  b ++ be 4 (crc32c (be 2 seq ++ b)).toNat

/-- Is the CRC of a 48-byte slot right? -/
def slotCrcOk (seq : Nat) (b : List Byte) : Bool :=
  crc32c (be 2 seq ++ b.take 44) == BitVec.ofNat 32 (beAt b 44 4)

/-- Number of regular slots before that of count `c`, and in all. -/
def slotsBelow (mask c : Nat) : Nat := popCount mask c

/-- Offset of slot `i` in a SWEEP payload. -/
def slotOff (i : Nat) : Nat := 12 + 48 * i

/-- Fill the regular slot, the burst slots and the exchange slot that are this slice's. The exchange slot brings a request segment and
takes the response to the one before, or BUSY (R104). -/
def Slice.fill (x : Slice) (f : Frame) : Slice × Frame :=
  let c := f.pos
  let mask := beAt f.payload 0 8
  let nReg := popCount mask 64
  let nB := beAt f.payload 8 1
  let mine := f.up == x.half
  let p := if mine && c < 64 && bit mask c && !x.slot.isEmpty then
      splice f.payload (slotOff (slotsBelow mask c)) (slotWithCrc f.seq x.slot)
    else f.payload
  let p := if mine then
      x.bursts.foldl (fun p b => if b.1 < nB then
        splice p (slotOff (nReg + b.1)) (slotWithCrc f.seq (splice b.2 32 [BitVec.ofNat 8 c])) else p) p
    else p
  if beAt f.payload 9 1 == c && c < 64 then
    let o := slotOff (nReg + nB)
    let ask := (f.payload.drop o).take 48
    let resp := if x.tag.resp.isEmpty then exchSlot 0 0x80 [] else x.tag.resp
    let x := { x with tag := { x.tag with resp := [] } }
    let x := if slotCrcOk f.seq ask then x.exchange (beAt ask 0 2) ((ask.drop 4).take (beAt ask 3 1)) else x
    (x, { f with payload := splice p o (slotWithCrc f.seq resp) })
  else (x, { f with payload := p })

/-- SWEEP (R103). -/
def execSweep (r : RingNo) (p : Pos) (f : Frame) : State → Host.Outcome State Fault Refusal :=
  lift (fun s => s.onSlice r p (fun x => x.pass 1 Slice.fill f))

/-! ## SAMPLE (R105–R110) -/

/-- Burst entries of a SAMPLE that name count `c`: element and burst slot index. -/
def burstEntries (pl : List Byte) (c : Nat) : List (Nat × Nat) :=
  ((List.range (min 64 (beAt pl 13 1))).map (fun i => beAt pl (16 + 2 * i) 2)).filterMap
    (fun e => if bits e 15 10 == c then some (bits e 9 6, bits e 5 0) else none)

/-- Difference of two 48-bit ring-times as a signed number. -/
def ringDiff (a b : Nat) : Int := toInt 48 (ofInt 48 ((a : Int) - b))

/-- Take a SAMPLE; `elapsed` is what the slice's own clock has counted since its ring-time was last set, and `near` says that an
OPEN-ALL symbol of the frame's direction was removed not earlier than 16 symbol times before it (R108). DESIGN CHOICE: ring-time is
kept in whole ns, and the eighths of CUMDLY are dropped (log entry 119). -/
def Slice.takeSample (x : Slice) (elapsed : Nat) (near : Bool) (f : Frame) : Slice × Frame :=
  if !f.fcrcOk then (x, f)
  else
    let pl := f.payload
    let arm : Armed := ⟨beAt pl 0 6, f.seq, if f.up == x.half then burstEntries pl f.pos else []⟩
    let x := if f.up == x.tsrc && !(near && (if f.up then x.openRecB else x.openRecA)) then
        let t := (beAt pl 6 6 + (if f.up then x.cumB else x.cumA) / 8) % 2 ^ 48
        let step := bit (beAt pl 12 1) 0 || decide ((ringDiff t (x.rtime + elapsed)).natAbs > 64)
        { x with rtime := t, tsync := x.tsync || step }
      else x
    let x := { x with openRecA := x.openRecA && f.up, openRecB := x.openRecB && !f.up }
    (if f.up then { x with armB := some arm } else { x with armA := some arm }, f)

/-- SAMPLE (R107). -/
def execSample (r : RingNo) (p : Pos) (f : Frame) (elapsed : Nat) (near : Bool) : State → Host.Outcome State Fault Refusal :=
  lift (fun s => s.onSlice r p (fun x => x.pass 2 (fun x f => x.takeSample elapsed near f) f))

/-! ## DUTY (R112, R114) -/

/-- The sixteen duties of count `c`, none where the mask does not name it. -/
def dutyOf (pl : List Byte) (c : Nat) : Option (List Nat) :=
  let mask := beAt pl 0 8
  if c < 64 && bit mask c then
    some ((List.range 16).map (fun e => beAt pl (8 + 16 * popCount mask c + e) 1))
  else none

def dutyMap (xs : List Nat) : Map Nat := (xs.zipIdx).foldl (fun m x => Map.write 0 m x.2 x.1) []

/-- A KS16 obeys DUTY from its HALF direction, and not while OPENED is set (R112, R120, R124). -/
def Slice.takeDuty (x : Slice) (f : Frame) : Slice × Frame :=
  if !x.kh2 && f.up == x.half && !x.opened && f.fcrcOk then
    match dutyOf f.payload f.pos with
    | some d => ({ x with dutyNext := some (dutyMap d), dutyAge := 0 }, f)
    | none => (x, f)
  else (x, f)

/-- DUTY (R112). -/
def execDuty (r : RingNo) (p : Pos) (f : Frame) : State → Host.Outcome State Fault Refusal :=
  lift (fun s => s.onSlice r p (fun x => x.pass 3 Slice.takeDuty f))

/-- Every duty 0. -/
def Slice.noDuty (x : Slice) : Slice := { x with duty := [], dutyNext := none }

/-- DUTY_TIMEOUT (R114): 16 ticks without a DUTY that names the KS16. -/
def execDutyTimeout (r : RingNo) (p : Pos) : State → Host.Outcome State Fault Refusal :=
  lift (fun s => s.onSlice r p (fun x => if !x.kh2 && decide (16 ≤ x.dutyAge) then x.noDuty else x))

/-! ## READ and WRITE (R115, R116) -/

def Slice.doRead (x : Slice) (f : Frame) : Nat × List Byte × Slice :=
  let n := beAt f.payload 2 1
  if f.payload.length ≠ 4 || n = 0 || n > 16 then (rBADLEN, f.payload, x)
  else match x.readRegs (beAt f.payload 0 2) n with
    | .ok ws => (rOK, f.payload ++ ws.flatMap (be 4), x)
    | .error e => (e, f.payload, x)

/-- RING_READ (R115). -/
def execRingRead (r : RingNo) (p : Pos) (f : Frame) : State → Host.Outcome State Fault Refusal :=
  lift (fun s => s.onSlice r p (fun x => x.pass 4 (fun x f => x.target Slice.doRead f) f))

/-- TICKP as it reads after words from `a` on are written. -/
def Slice.tickpAfter (x : Slice) (a : Nat) (ws : List Nat) : Nat :=
  if a ≤ 7 && 7 < a + ws.length then ws.getD (7 - a) 0 else x.reg 7

def Slice.doWrite (x : Slice) (f : Frame) : Nat × List Byte × Slice :=
  let a := beAt f.payload 0 2
  let n := beAt f.payload 2 1
  if n = 0 || n > 16 || f.payload.length ≠ 4 + 4 * n then (rBADLEN, f.payload, x)
  else
    let ws := wordsOf (f.payload.drop 4) n
    let st := x.writesCheck (x.tickpAfter a ws) a ws
    (st, f.payload, if st == rOK then x.writeRegs a ws else x)

/-- RING_WRITE (R115). -/
def execRingWrite (r : RingNo) (p : Pos) (f : Frame) : State → Host.Outcome State Fault Refusal :=
  lift (fun s => s.onSlice r p (fun x => x.pass 5 (fun x f => x.target Slice.doWrite f) f))

/-! ## CTRL (R120, R121, R124, R125, R128, R661) -/

/-- De-energise the coils of a mask; a CLOSE of them that has not run is dropped. -/
def Slice.coilsOff (x : Slice) (mask : Nat) : Slice :=
  { x with c0 := x.c0 && !bit mask 0, c1 := x.c1 && !bit mask 1,
           close := x.close.map (fun m => m - (m &&& mask)) }

/-- The power-up state at a restart; a hop still broken is folded (R126, R661). DESIGN CHOICE: its receivers keep their lock and what
they hear (log entry 120). -/
def Slice.restart (x : Slice) (kh2 : Bool) : Slice :=
  { Slice.powerUp kh2 x.serial x.ver with
    lockA := x.lockA, lockB := x.lockB, peerA := x.peerA, peerB := x.peerB, exchA := x.exchA, exchB := x.exchB,
    foldA := !(x.lockA && x.peerA), foldB := !(x.lockB && x.peerB) }

/-- A CTRL operation: its status and effect. DESIGN CHOICE: a RESET without 0x5A and a tap above 16 are answered BAD_VALUE (log entry
121). -/
def Slice.ctrlOp (x : Slice) (op arg : Nat) : Nat × Slice :=
  match op with
  | 0x01 => if x.kh2 then (rOK, x.coilsOff (arg % 4)) else (rUNSUPPORTED, x)
  | 0x02 =>
    if !x.kh2 then (rUNSUPPORTED, x)
    else if x.opened || x.loopBrk then (rREFUSED, x)
    else (rOK, { x with close := some ((x.close.getD 0) ||| arg % 4) })
  | 0x03 => (rOK, { x with opened := false, alarms := putBit x.alarms 0 false })
  | 0x04 => if x.lockA && x.lockB && x.peerA && x.peerB then (rOK, { x with foldA := false, foldB := false })
            else (rREFUSED, x)
  | 0x05 => if x.kh2 then (rUNSUPPORTED, x) else if arg ≤ 16 then (rOK, { x with inject := x.inject ||| 2 ^ arg }) else (rBADVALUE, x)
  | 0x06 => if x.selftest then (rBUSY, x) else (rOK, { x with selftest := true, selfTicks := 0 })
  | 0x07 => if arg == 0x5A then (rOK, x.restart x.kh2) else (rBADVALUE, x)
  | 0x08 => if x.kh2 then (rUNSUPPORTED, x) else (rOK, x.noDuty)
  | _ => (rUNSUPPORTED, x)

def Slice.doCtrl (x : Slice) (f : Frame) : Nat × List Byte × Slice :=
  if f.payload.length ≠ 4 then (rBADLEN, f.payload, x)
  else
    let (st, x') := x.ctrlOp (beAt f.payload 0 1) (beAt f.payload 1 1)
    (st, f.payload, x')

/-- A CTRL frame at a slice: a broadcast performs OPEN and BALSTOP without a response (R121); an addressed one is a
request. -/
def Slice.takeCtrl (x : Slice) (f : Frame) : Slice × Frame :=
  let op := beAt f.payload 0 1
  if f.hop == 0xFF && !f.resp then
    (if f.payload.length == 4 && (op == 1 || op == 8) then (x.ctrlOp op (beAt f.payload 1 1)).2 else x, f)
  else x.target Slice.doCtrl f

/-- A CTRL frame received by a slice. -/
def Chip.ctrlFrame (s : Chip) (r p : Nat) (f : Frame) : Chip := s.onSlice r p (fun x => x.pass 6 Slice.takeCtrl f)

/-- CTRL_OPEN (R120, R121). -/
def execCtrlOpen (r : RingNo) (p : Pos) (f : Frame) : State → Host.Outcome State Fault Refusal := lift (·.ctrlFrame r p f)

/-- CTRL_CLOSE (R125). -/
def execCtrlClose (r : RingNo) (p : Pos) (f : Frame) : State → Host.Outcome State Fault Refusal := lift (·.ctrlFrame r p f)

/-- CLEAR_OPENED (R124). -/
def execClearOpened (r : RingNo) (p : Pos) (f : Frame) : State → Host.Outcome State Fault Refusal := lift (·.ctrlFrame r p f)

/-- UNFOLD (R128). -/
def execUnfold (r : RingNo) (p : Pos) (f : Frame) : State → Host.Outcome State Fault Refusal := lift (·.ctrlFrame r p f)

/-- INJECT (R196). -/
def execInject (r : RingNo) (p : Pos) (f : Frame) : State → Host.Outcome State Fault Refusal := lift (·.ctrlFrame r p f)

/-- SELFTEST (R120). -/
def execSelftest (r : RingNo) (p : Pos) (f : Frame) : State → Host.Outcome State Fault Refusal := lift (·.ctrlFrame r p f)

/-- CTRL_RESET (R661). -/
def execCtrlReset (r : RingNo) (p : Pos) (f : Frame) : State → Host.Outcome State Fault Refusal := lift (·.ctrlFrame r p f)

/-- BALSTOP (R120). -/
def execBalstop (r : RingNo) (p : Pos) (f : Frame) : State → Host.Outcome State Fault Refusal := lift (·.ctrlFrame r p f)

/-- KH2_COIL_ENERGISE (R125): the named coils of an accepted CLOSE. -/
def execKh2CoilEnergise (r : RingNo) (p : Pos) : State → Host.Outcome State Fault Refusal :=
  lift (fun s => s.onSlice r p (fun x =>
    match x.close with
    | some m => if x.kh2 && !x.opened then { x with c0 := x.c0 || bit m 0, c1 := x.c1 || bit m 1, close := none }
                else { x with close := none }
    | none => x))

/-- SELFTEST_COMPLETE (R120): after 16 ticks the result is placed in ALARMS; bit 0 is of the local opening alone (R219). -/
def execSelftestComplete (r : RingNo) (p : Pos) (result : Word) : State → Host.Outcome State Fault Refusal :=
  lift (fun s => s.onSlice r p (fun x =>
    if x.selftest && decide (16 ≤ x.selfTicks) then
      { x with selftest := false, alarms := putBit result.toNat 0 (bit x.alarms 0) }
    else x))

/-! ## ENUM, ECHO, ASSIGN, unsupported types (R100, R118–R120) -/

/-- The 16-byte descriptor of a slice. DESIGN CHOICE: the flags AUTH capable and identity pin of a KH2, which has no module tag
commands (R306), are the same opaque constants of the slice as a KS16's (log entry 160). -/
def Slice.descriptor (x : Slice) (connector : Nat) : List Byte :=
  be 8 x.serial.toNat ++ be 1 (if x.kh2 then 2 else 1) ++ be 1 (bits x.ver.toNat 23 16) ++ be 2 (bits x.ver.toNat 15 0) ++
  be 1 connector ++
  be 1 ((if Config.tagSerial x.serial == 0 then 0 else 8) + (if (Config.slicePin x.serial).getLsbD 16 then 4 else 0) +
    (if x.foldA || x.foldB then 2 else 0) + (if bit x.flags 3 then 1 else 0)) ++ be 2 0

def Slice.takeEnum (x : Slice) (connector : Nat) (f : Frame) : Slice × Frame :=
  if f.pos < 64 then (x, { f with payload := splice (fit 1024 f.payload) (16 * f.pos) (x.descriptor connector) }) else (x, f)

/-- ENUM (R120). -/
def execEnum (r : RingNo) (p : Pos) (f : Frame) (connector : Fin 2) : State → Host.Outcome State Fault Refusal :=
  lift (fun s => s.onSlice r p (fun x => x.pass 7 (fun x f => x.takeEnum connector f) f))

/-- An ECHO has no payload (R100). -/
def Slice.doEcho (x : Slice) (f : Frame) : Nat × List Byte × Slice := (if f.payload.isEmpty then rOK else rBADLEN, f.payload, x)

/-- RING_ECHO (R119): the target sends the frame back on the opposite pair. -/
def execRingEcho (r : RingNo) (p : Pos) (f : Frame) : State → Host.Outcome State Fault Refusal :=
  lift (fun s => s.onSlice r p (fun x => x.pass 8 (fun x f => x.target Slice.doEcho f) f))

/-- ASSIGN at its target: the serial number is checked in place of EPOCH (R101, R118). -/
def Slice.doAssign (x : Slice) (f : Frame) : Nat × List Byte × Slice :=
  let b := f.payload
  if b.length ≠ 24 then (rBADLEN, b, x)
  else if beAt b 0 8 ≠ x.serial.toNat then (rSTALE, b, x)
  else
    (rOK, b, { x with epoch := beAt b 8 2, posn := beAt b 10 1, flags := beAt b 11 1 / 8 * 8, cumA := beAt b 12 4,
                      cumB := beAt b 16 4, str := beAt b 22 1,
                      regs := Map.write 0 x.regs 6 (beAt b 20 2), eff := Map.write 0 x.eff 6 (beAt b 20 2) })

def Slice.takeAssign (x : Slice) (f : Frame) : Slice × Frame :=
  if f.hop == 0 && !f.resp then
    let (st, pl, x') := x.doAssign f
    (x', x'.respond f st pl)
  else (x, hopOn f)

/-- ASSIGN (R118). -/
def execAssign (r : RingNo) (p : Pos) (f : Frame) : State → Host.Outcome State Fault Refusal :=
  lift (fun s => s.onSlice r p (fun x => x.pass 9 Slice.takeAssign f))

/-- Does the slice type support the frame type (R100)? -/
def Slice.supports (x : Slice) (type : Nat) : Bool := 1 ≤ type && type ≤ 9 && !(type == 3 && x.kh2)

/-- An unsupported type: an addressed frame is answered UNSUPPORTED, a broadcast one forwarded. -/
def Slice.takeUnsupported (x : Slice) (f : Frame) : Slice × Frame :=
  if f.hop == 0 && !f.resp && !x.supports f.type then (x, x.respond f rUNSUPPORTED f.payload) else (x, hopOn f)

/-- UNSUPPORTED_FRAME (R100). -/
def execUnsupportedFrame (r : RingNo) (p : Pos) (f : Frame) : State → Host.Outcome State Fault Refusal :=
  lift (fun s => s.onSlice r p (fun x => x.pass f.type Slice.takeUnsupported f))

/-! ## OPEN-ALL (R123–R125) -/

/-- Recognising OPEN-ALL: the four symbols go on in their direction, and back as well where that side folds (R123, R124). -/
def Slice.openAll (x : Slice) (up : Bool) : Slice :=
  let x := { x with openRecA := x.openRecA || !up, openRecB := x.openRecB || up, openOut := some up,
                    openBack := if up then x.foldA else x.foldB }
  if x.kh2 then { x with c0 := false, c1 := false, close := none, opened := true }
  else { x.noDuty with opened := true }

/-- OPEN_ALL_BURST (R123), received in the down or the up direction. -/
def execOpenAllBurst (r : RingNo) (p : Pos) (up : Bool) : State → Host.Outcome State Fault Refusal :=
  lift (·.onSlice r p (·.openAll up))

/-! ## Sampling (R104, R109, R110, R113, R116, R176, R195, R196) -/

/-- A voltage code from 10 µV: saturated codes and the invalid one (R176). -/
def voltCode (v : Int) : Nat :=
  if v < -10000 then 0xFFFF
  else if v ≤ 15 then 0x0001
  else if v > 655340 then 0xFFFE
  else ((v + 5) / 10).toNat

def tempBytes (x : Slice) (ts : List (Option Int)) (ok : Bool) : List Byte :=
  (List.range 4).flatMap (fun i =>
    be 2 (if ok && bit (x.effReg 0x0B) (16 + i) then (match ts.getD i none with | some t => ofInt 16 t | none => 0x8000) else 0x8000))

/-- Voltage codes of the enabled channels; a disabled one reads 0x0000. -/
def voltCodes (x : Slice) (vs : List Int) (ok : Bool) : List Nat :=
  (List.range 16).map (fun e => if !bit (x.effReg 0x0B) e then 0 else if ok then voltCode (vs.getD e 0) else 0xFFFF)

/-- The status word with a CHINV field (R104). -/
def Slice.status (x : Slice) (smiss balon inj : Bool) (chinv : Nat) : Nat :=
  x.epoch % 16 * 2 ^ 28 + (if x.kh2 then 2 ^ 26 else 0) + (if x.ovt == 0 then 0 else 2 ^ 25) + (if x.uvt == 0 then 0 else 2 ^ 24) +
  (if x.loopBrk then 2 ^ 23 else 0) + (if x.opened then 2 ^ 22 else 0) + (if smiss then 2 ^ 21 else 0) +
  (if x.tsync then 2 ^ 20 else 0) + (if balon then 2 ^ 19 else 0) + (if inj then 2 ^ 18 else 0) +
  (if x.alarms == 0 then 0 else 2 ^ 17) + (if x.foldA || x.foldB then 2 ^ 16 else 0) + chinv % 65536

/-- The contactor word of a KH2 slot. -/
def contactorWord (x : Slice) (i : SliceReading) : Nat :=
  (if x.c1 then 32 else 0) + (if x.c0 then 16 else 0) + (if i.coilFault1 then 8 else 0) + (if i.coilFault0 then 4 else 0) +
  (if i.fb1 then 2 else 0) + (if i.fb0 then 1 else 0)

/-- The 44 bytes of a slot. `cur` are the KH2's current, string voltage and bus voltage; `inv` its CHINV. -/
def Slice.slotBytes (x : Slice) (i : SliceReading) (ok smiss balon inj : Bool) (cur : List Nat) (inv : Nat) : List Byte :=
  if x.kh2 then
    cur.flatMap (be 4) ++ be 2 (contactorWord x i) ++ zeros 18 ++ tempBytes x i.temps ok ++
      be 4 (x.status smiss balon inj (if ok then inv else 7))
  else
    let vs := voltCodes x i.volts ok
    let chinv := maskOf 16 (fun e => bit (x.effReg 0x0B) e && vs.getD e 0 == 0xFFFF)
    vs.flatMap (be 2) ++ tempBytes x i.temps ok ++ be 4 (x.status smiss balon inj (if ok then chinv else 0xFFFF))

/-- What the slice takes for its next instant: the SAMPLE of its TSRC direction, else of the other (R109). -/
def Slice.armed (x : Slice) : Option Armed :=
  match (if x.tsrc then x.armB else x.armA) with
  | some a => some a
  | none => if x.tsrc then x.armA else x.armB

/-- Ticks in a row without a valid SAMPLE, the coming instant included, and does the slice sample at that instant (R109)? -/
def Slice.misses (x : Slice) : Nat := if x.armed.isSome then 0 else x.missed + 1
def Slice.samples (x : Slice) : Bool := decide (x.misses ≤ 16)

/-- Elements that hold their balancing off in the tick of a sample instant: beside an injected tap (R196), and the privileged ones
that burst (R113). -/
def Slice.heldSwitches (x : Slice) (todo : List (Nat × Nat)) : Nat :=
  x.inject ||| x.inject / 2 ||| (bits (x.reg 0x0A) 15 0 &&& maskOf 16 (fun e => todo.any (fun t => t.1 == e)))

/-- Code errors counted, saturating (R116). -/
def satAdd32 (a b : Nat) : Nat := min (2 ^ 32 - 1) (a + b)

/-- Sample at the instant (R109): configuration and duty written before it take effect; from the 17th tick without a SAMPLE nothing
is sampled. TSYNC stands until the slot of an instant that a SAMPLE has announced has shown it (R104; log entry 122). DESIGN CHOICE:
BALON looks at the duties as they stand at the instant, 0 where BALSTOP, OPEN-ALL or the timeout zeroed them (log entry 159). -/
def Slice.sampleAt (x : Slice) (i : SliceReading) (cur : List Nat) (inv : Nat) : Slice :=
  let balon := x.duty.any (fun d => d.2 != 0 && !bit x.holdOff d.1)
  let got := x.armed
  let miss := x.misses
  let ok := x.samples
  let inst := match got with
    | some a => a.instant
    | none => if ok then (x.instant + x.effReg 7) % 2 ^ 48 else x.instant
  let seq := match got with | some a => a.seq | none => (x.seq + 1) % 65536
  let todo := if ok then ((x.armA.map (·.bursts)).getD []) ++ ((x.armB.map (·.bursts)).getD []) else []
  let inj := x.inject != 0
  let x := { x with eff := x.regs, duty := x.dutyNext.getD x.duty, dutyNext := none, dutyAge := x.dutyAge + 1,
                    instant := inst, seq := seq, missed := miss, armA := none, armB := none,
                    todo := todo, bursts := x.taken, taken := [], inject := 0, holdOff := x.heldSwitches todo,
                    thraw := if ok then i.thraw.map (· % 65536) else x.thraw,
                    stack := if ok then i.stack / 2 % 65536 * 65536 + seq % 65536 else x.stack,
                    rxerrA := satAdd32 x.rxerrA i.rxA, rxerrB := satAdd32 x.rxerrB i.rxB,
                    selfTicks := if x.selftest then x.selfTicks + 1 else x.selfTicks }
  { x with slot := x.slotBytes i ok (miss != 0) balon inj cur inv, tsync := x.tsync && got.isNone }

/-- A KH2 value: 32 bits, or a free value where the channel is invalid (log entry 1). -/
def Chip.kh2Value (s : Chip) (v : Option Int) : Nat × Chip :=
  match v with
  | some i => (ofInt 32 i, s)
  | none => let (x, s) := s.draw; (x % 2 ^ 32, s)

/-- SLICE_SAMPLE (R109). A KH2 that does not sample has no value either. -/
def Chip.sliceSample (s : Chip) (r p : Nat) (i : SliceReading) : Chip :=
  let i := if (s.slice (r * 64 + p)).samples then i else { i with current := none, vString := none, vBus := none }
  let (a, s) := s.kh2Value i.current
  let (b, s) := s.kh2Value i.vString
  let (c, s) := s.kh2Value i.vBus
  let inv := (if i.current.isNone then 1 else 0) + (if i.vString.isNone then 2 else 0) + (if i.vBus.isNone then 4 else 0)
  s.onSlice r p (fun x => x.sampleAt i [a, b, c] inv)

def execSliceSample (r : RingNo) (p : Pos) (x : SliceReading) : State → Host.Outcome State Fault Refusal :=
  lift (·.sliceSample r p x)

/-- Number of burst offsets in PRIV [31:28]; the code 0 of the 4-bit field is 16 (log entry 22). -/
def Slice.nOffsets (x : Slice) : Nat :=
  let n := bits (x.effReg 0x0A) 31 28
  if n == 0 then 16 else n

/-- A burst slot without its count and CRC (R104). -/
def Slice.burstBytes (x : Slice) (e : Nat) (xs : List (BitVec 16)) : List Byte :=
  let xs := xs.take x.nOffsets
  fit 32 (xs.flatMap (fun v => be 2 v.toNat)) ++ be 1 0 ++ be 1 e ++ be 1 xs.length ++ zeros 5 ++ x.slot.drop 40

/-- SLICE_BURST (R110): the burst of an element that this tick's SAMPLE named. -/
def execSliceBurst (r : RingNo) (p : Pos) (e : Fin 16) (samples : List (BitVec 16)) :
    State → Host.Outcome State Fault Refusal :=
  lift (fun s => s.onSlice r p (fun x =>
    { x with taken := x.taken ++ (x.todo.filter (fun t => t.1 == e.val)).map (fun t => (t.2, x.burstBytes e samples)),
             todo := x.todo.filter (fun t => t.1 != e.val) }))

/-! ## Lock and folding (R92, R126, R128, R139) -/

/-- A receiver of the slice loses lock: the hop is folded, LOCKCNT counts, and TSYNC is set where it is that of the TSRC direction,
whose frames arrive on the A side when it is down (R104, R126, R128; log entry 123). DESIGN CHOICE: each half of LOCKCNT stops at
65,535, as R116 says of RXERR_A and RXERR_B alone (log entry 158). -/
def Slice.loseLock (x : Slice) (side : Side) : Slice :=
  let a := bits x.lockCnt 31 16
  let b := bits x.lockCnt 15 0
  match side with
  | .a => if x.lockA then { x with lockA := false, foldA := true, lockCnt := min 65535 (a + 1) * 65536 + b, tsync := x.tsync || !x.tsrc } else x
  | .b => if x.lockB then { x with lockB := false, foldB := true, lockCnt := a * 65536 + min 65535 (b + 1), tsync := x.tsync || x.tsrc } else x

/-- SLICE_LOCK_LOSS (R92). -/
def execSliceLockLoss (r : RingNo) (p : Pos) (side : Side) : State → Host.Outcome State Fault Refusal :=
  lift (·.onSlice r p (·.loseLock side))

/-- A receiver regains lock, with TSYNC as at its loss (R128). The slice keeps folding. -/
def Slice.regainLock (x : Slice) (side : Side) : Slice :=
  match side with
  | .a => if x.lockA then x else { x with lockA := true, tsync := x.tsync || !x.tsrc }
  | .b => if x.lockB then x else { x with lockB := true, tsync := x.tsync || x.tsrc }

/-- Lock bits of a master port in 300n:01; PEERB reads 0 while LOCKB is 0 (R132). -/
def Chip.portLock (s : Chip) (r : Nat) (side : Side) (v : Bool) : Chip :=
  match side with
  | .a => s.wrBit (0x3000 + r) 0x01 0 v
  | .b => (s.wrBit (0x3000 + r) 0x01 1 v).wrBit (0x3000 + r) 0x01 2 (v && (s.ring r).peerB)

/-- SLICE_LOCK_REGAIN (R92). -/
def execSliceLockRegain (site : Site) : State → Host.Outcome State Fault Refusal :=
  match site with
  | .slice r p side => lift (·.onSlice r p (·.regainLock side))
  | .master r side => lift (·.portLock r side true)

/-- PAIR_EXCHANGE (R139): a connector without lock exchanges its pairs. -/
def Chip.pairExchange (s : Chip) : Site → Chip
  | .slice r p .a => s.onSlice r p (fun x => if x.lockA then x else { x with exchA := !x.exchA })
  | .slice r p .b => s.onSlice r p (fun x => if x.lockB then x else { x with exchB := !x.exchB })
  | .master r .a =>
    if s.rdBit (0x3000 + r) 0x01 0 then s else s.setRing r { s.ring r with crossA := !(s.ring r).crossA }
  | .master r .b =>
    if s.rdBit (0x3000 + r) 0x01 1 then s else s.setRing r { s.ring r with crossB := !(s.ring r).crossB }

def execPairExchange (site : Site) : State → Host.Outcome State Fault Refusal := lift (·.pairExchange site)

/-- IDLE_NOT_RECEIVING_YOU (R126, R132): a slice folds; at a master port on logical B, PEERB follows. -/
def Chip.idleChange (s : Chip) (receiving : Bool) : Site → Chip
  | .slice r p .a => s.onSlice r p (fun x => { x with peerA := receiving, foldA := x.foldA || !receiving })
  | .slice r p .b => s.onSlice r p (fun x => { x with peerB := receiving, foldB := x.foldB || !receiving })
  | .master r .a => s.setRing r { s.ring r with peerA := receiving }
  | .master r .b =>
    (s.setRing r { s.ring r with peerB := receiving }).wrBit (0x3000 + r) 0x01 2 (receiving && s.rdBit (0x3000 + r) 0x01 1)

def execIdleNotReceivingYou (site : Site) (receiving : Bool) : State → Host.Outcome State Fault Refusal :=
  lift (·.idleChange receiving site)

/-- SLICE_RESTART (R661). -/
def execSliceRestart (r : RingNo) (p : Pos) (kh2 : Bool) : State → Host.Outcome State Fault Refusal :=
  lift (·.onSlice r p (·.restart kh2))

/-! ## Comparators and local opening (R212, R215, R216, R219) -/

/-- A channel beyond its threshold for the deglitch time trips and breaks the loop; a channel disabled in CHEN never
trips. -/
def Slice.trip (x : Slice) (e : Fin 16) (high : Bool) : Slice :=
  if x.kh2 || !bit (x.effReg 0x0B) e then x
  else if high then { x with ovt := x.ovt ||| BitVec.twoPow 16 e, loopBrk := true }
  else { x with uvt := x.uvt ||| BitVec.twoPow 16 e, loopBrk := true }

/-- COMPARATOR_TRIP (R215). -/
def execComparatorTrip (r : RingNo) (p : Pos) (e : Fin 16) (high : Bool) : State → Host.Outcome State Fault Refusal :=
  lift (·.onSlice r p (·.trip e high))

/-- COMPARATOR_RELEASE (R216). -/
def execComparatorRelease (r : RingNo) (p : Pos) (e : Fin 16) : State → Host.Outcome State Fault Refusal :=
  lift (·.onSlice r p (fun x =>
    { x with ovt := x.ovt &&& ~~~ BitVec.twoPow 16 e, uvt := x.uvt &&& ~~~ BitVec.twoPow 16 e }))

/-- LOOP_RELEASE (R216): 10 ms after the last channel has released. -/
def execLoopRelease (r : RingNo) (p : Pos) : State → Host.Outcome State Fault Refusal :=
  lift (·.onSlice r p (fun x => if x.ovt == 0 && x.uvt == 0 then { x with loopBrk := false } else x))

/-- Positions of the slices of ring `r` that break its loop (R212). -/
def Chip.loopBreakers (s : Chip) (r : Nat) : List Nat := (List.range 64).filter (fun q => (s.slice (r * 64 + q)).loopBrk)

/-- The head at position `p` declares its loop broken (R218): the heartbeat source at any break, another head at a break by a slice
between the source and itself. A loop wire that is open or short, which FLKn sees, has no place of its own: where no slice
breaks the loop, any head may lie behind it (log entry 132). -/
def Chip.declaresBroken (s : Chip) (r p : Nat) : Bool :=
  let by_ := s.loopBreakers r
  let wire := (s.ring r).short || (s.ring r).hbLost
  if bit ((s.slice (r * 64 + p)).effReg 0x26) 16 then wire || !by_.isEmpty
  else if by_.isEmpty then wire
  else by_.any (fun q => decide (Config.loopPlace (r * 64 + q) < Config.loopPlace (r * 64 + p)))

/-- Local opening (R219): nothing changes where both coils are de-energised already or the delay is 0xFFFF. -/
def Slice.openLocal (x : Slice) : Slice :=
  if x.kh2 && (x.c0 || x.c1) && bits (x.effReg 0x26) 15 0 != 0xFFFF then
    { x with c0 := false, c1 := false, close := none, opened := true, alarms := putBit x.alarms 0 true, localOpen := true }
  else x

/-- KH2_LOCAL_OPEN (R218, R219): the loop has stayed broken at the head for the local-open delay. -/
def execKh2LocalOpen (r : RingNo) (p : Pos) : State → Host.Outcome State Fault Refusal :=
  lift (fun s => if s.declaresBroken r p then s.onSlice r p Slice.openLocal else s)

/-! ## Module tag and exchange segments (R305–R307) -/

/-- IDENT: the segment at a fawn. -/
def execIdent (r : RingNo) (p : Pos) : State → Host.Outcome State Fault Refusal := lift (·.onSlice r p (·.exchange 0x0001 []))

/-- CERT: one of its three segments. -/
def execCert (r : RingNo) (p : Pos) (part : Fin 3) : State → Host.Outcome State Fault Refusal :=
  lift (·.onSlice r p (·.exchange (0x0010 + part) []))

/-- CHAL, with the nonce. -/
def execChal (r : RingNo) (p : Pos) (nonce : BitVec 256) : State → Host.Outcome State Fault Refusal :=
  lift (·.onSlice r p (·.exchange 0x0020 (be 32 nonce.toNat)))

/-- SIG: r or s. -/
def execSig (r : RingNo) (p : Pos) (part : Fin 2) : State → Host.Outcome State Fault Refusal :=
  lift (·.onSlice r p (·.exchange (0x0021 + part) []))

/-- POLL. -/
def execPoll (r : RingNo) (p : Pos) : State → Host.Outcome State Fault Refusal := lift (·.onSlice r p (·.exchange 0x00FF []))

/-- A module-tag operation written to IDCTL; busy until IDCTL_OPERATION_DONE (R306). -/
def Slice.tagOp (x : Slice) (op : Nat) : Slice := if x.kh2 then x else { x with tag := x.tag.start op }

/-- LOAD_IDENTITY_RECORD (R306). -/
def execLoadIdentityRecord (r : RingNo) (p : Pos) : State → Host.Outcome State Fault Refusal := lift (·.onSlice r p (·.tagOp 1))

/-- LOAD_CERTIFICATE (R306). -/
def execLoadCertificate (r : RingNo) (p : Pos) : State → Host.Outcome State Fault Refusal := lift (·.onSlice r p (·.tagOp 2))

/-- SIGN_NONCE (R306). -/
def execSignNonce (r : RingNo) (p : Pos) : State → Host.Outcome State Fault Refusal := lift (·.onSlice r p (·.tagOp 3))

/-- IDCTL_OPERATION_DONE (R306): state done or error; IDBUF holds the result. The certificate is the tag's own. -/
def Slice.tagDone (x : Slice) (ok : Bool) (data : List Byte) : Slice :=
  if x.tag.status != 1 then x
  else if ok then
    { x with tag := { x.tag with status := 2, buf := fit 128 (if x.tag.op == 2 then fit 120 (Config.tagCert x.serial) else data) } }
  else { x with tag := { x.tag with status := 3 } }

def execIdctlOperationDone (r : RingNo) (p : Pos) (ok : Bool) (data : List Byte) : State → Host.Outcome State Fault Refusal :=
  lift (·.onSlice r p (·.tagDone ok data))

end Sys2Proof.Machine
end

