-- ==== Sys2Proof/Machine/RingOps.lean ====
section
/-!
DEFINITION. Sys2Proof/Machine/RingOps.lean: what the commands of a ring share (04_ring_population): the herd table,
ASSIGN and configuration of a position, fawns, paths and breaks.
-/

namespace Sys2Proof.Machine

/-! ## The herd table (R134–R136) -/

/-- Does any string name the ring (R137)? -/
def Chip.configured (s : Chip) (r : Nat) : Bool := (List.range 32).any (fun n => s.rd (0x3200 + n) 0x01 == r)

/-- Is position `p` a head position (R16)? -/
def Chip.isHead (s : Chip) (r p : Nat) : Bool := (List.range 32).any (fun n => s.headOf n == some (r, p))

/-- Put the state field of 31n1. -/
def Chip.setHerdState (s : Chip) (r p st : Nat) : Chip := s.setHT r 1 p (setBits (s.hT r 1 p) 15 12 st)

/-- Type field of 31n1: 1 KS16, 2 KH2. -/
def Chip.herdType (s : Chip) (r p : Nat) : Nat := bits (s.hT r 1 p) 11 8

/-- Is the position admitted and does it hold a KS16? -/
def Chip.isKs16 (s : Chip) (r p : Nat) : Bool := s.herdState r p == 2 && s.herdType r p == 1

/-- The persistent entry of a position from the working table (R134). -/
def Chip.persist (s : Chip) (r p st : Nat) : Chip :=
  s.setHrd (r * 64 + p)
    { serial := s.hT r 0 p, type := s.herdType r p, flags := bits (s.hT r 1 p) 7 4, cumA := s.hT r 3 p, cumB := s.hT r 4 p,
      str := s.hT r 6 p, state := st, epoch := s.hT r 2 p }

/-- A string that has never rested counts from its first admission (R290). -/
def Chip.noteAdmission (s : Chip) (r p : Nat) : Chip :=
  match s.stringOf r p with
  | none => s
  | some n =>
    let x : EStr := Map.read {} s.estr n
    if x.sinceRest.isSome then s else { s with estr := Map.write {} s.estr n { x with sinceRest := some (s.rd 0x1040 0x01) } }

/-! ## ASSIGN and configuration (R118, R137, R148, R177, R181, R217) -/

/-- The next role epoch of a position; 0x0000 is skipped (R148). -/
def nextEpoch (e : Nat) : Nat := if (e + 1) % 65536 == 0 then 1 else (e + 1) % 65536

/-- The ASSIGN payload of the herd table's entry. -/
def Chip.assignPayload (s : Chip) (r p : Nat) : List Byte :=
  let f := s.hT r 1 p
  be 8 (s.hT r 0 p) ++ be 2 (s.hT r 2 p) ++ be 1 p ++ be 1 (bits f 7 4 * 16 + (if bits f 15 12 == 2 then 8 else 0)) ++
    be 4 (s.hT r 3 p) ++ be 4 (s.hT r 4 p) ++ be 2 (s.hT r 5 p) ++ be 1 (s.hT r 6 p) ++ be 1 0

/-- A new role epoch for a position, counted on from the one kept across power cycles (R148). -/
def Chip.bumpEpoch (s : Chip) (r p : Nat) : Chip :=
  let e := nextEpoch (s.hrd (r * 64 + p)).epoch
  (s.setHT r 2 p e).setHrd (r * 64 + p) { s.hrd (r * 64 + p) with epoch := e }

/-- Queue an ASSIGN with a new epoch (R148). -/
def Chip.assignSlice (s : Chip) (r p : Nat) : Chip :=
  let s := s.bumpEpoch r p
  s.request r p 9 (s.assignPayload r p)

/-- Half of a position for the settings of 301n: 0 for positions 0–31, 1 above. -/
def halfIdx (p : Nat) : Nat := if p < 32 then 0 else 1

/-- Words of the configuration of a position: address and words, for its type. CHEN and BSCALE have no setting and keep
their power-up values (log entry 23). -/
def Chip.configWords (s : Chip) (r p : Nat) (kh2 : Bool) : List (Nat × List Nat) :=
  let h := halfIdx p
  let m := 0x3010 + r
  let corner := s.rd m (0x01 + h)
  let filt := corner * (if kh2 then 0x15 else 0x55555555)
  let vth := s.rd (0x2320 + r) 0x01 * 65536 + s.rd (0x2320 + r) 0x02
  let priv := s.rd m (0x03 + h) % 16 * 2 ^ 28 + s.rd m (0x41 + p)
  let bofs := (List.range 8).map (fun i => s.rd m (0x05 + 16 * h + 2 * i) * 65536 + s.rd m (0x06 + 16 * h + 2 * i))
  let src := p == 0 || (p == 32 && s.herdType r 0 != 2)
  [(0x07, [s.periodNs, filt, vth, priv, 0x000FFFFF] ++ (if kh2 then [0] else [])), (0x10, bofs),
   if kh2 then (0x26, [(if src then 65536 else 0) + s.rd (0x2320 + r) 0x05])
   else (0x25, [s.rd (0x2320 + r) 0x04 * 256 + s.rd (0x2320 + r) 0x03])]

/-- The words that the per-ring protection array gives a position: VTH, and CMPCFG or LOOPCFG (R217). -/
def Chip.protWords (s : Chip) (r p : Nat) (kh2 : Bool) : List (Nat × List Nat) :=
  (0x09, [s.rd (0x2320 + r) 0x01 * 65536 + s.rd (0x2320 + r) 0x02]) ::
    (s.configWords r p kh2).filter (fun w => w.1 == 0x25 || w.1 == 0x26)

def writePayload (a : Nat) (ws : List Nat) : List Byte := be 2 a ++ be 1 ws.length ++ be 1 0 ++ ws.flatMap (be 4)

/-- Queue the WRITEs of a position's configuration. -/
def Chip.configSlice (s : Chip) (r p : Nat) : Chip :=
  (s.configWords r p (s.herdType r p == 2)).foldl (fun s w => s.request r p 5 (writePayload w.1 w.2)) s

/-- Queue the WRITEs of a position's protection words, where the ring has a slice there. -/
def Chip.protSlice (s : Chip) (r p : Nat) : Chip :=
  let st := s.herdState r p
  if st == 1 || st == 2 || st == 5 then
    (s.protWords r p (s.herdType r p == 2)).foldl (fun s w => s.request r p 5 (writePayload w.1 w.2)) s
  else s

/-- Queue one register write to every admitted slice of a ring that `f` gives words for. -/
def Chip.writeAll (s : Chip) (r : Nat) (f : Nat → Option (Nat × List Nat)) : Chip :=
  (List.range (s.nOf r)).foldl (fun s p =>
    if s.herdState r p == 2 then
      match f p with
      | some w => s.request r p 5 (writePayload w.1 w.2)
      | none => s
    else s) s

/-- Twice the median of some measurements. -/
def twiceMedian (xs : List Nat) : Nat :=
  let ys := sortBy (fun a b => decide (a ≤ b)) xs
  ys.getD ((ys.length - 1) / 2) 0 + ys.getD (ys.length / 2) 0

/-- CUMDLY (R145) from round trips, less 1,280 ns and L, in 0.125 ns. -/
def cumDly (lat : Nat) (trips : List Nat) : Nat := (twiceMedian trips - 2 * (10240 + lat)) / 4

/-- Step 3 of discovery at a position: its delays (R145). A direction that was not measured keeps what the table holds. -/
def Chip.measureDelays (s : Chip) (r p : Nat) (x : Found) : Chip :=
  let g := s.ring r
  let s := if x.tripsA.isEmpty then s else s.setHT r 3 p (cumDly g.latA x.tripsA)
  let s := if x.tripsB.isEmpty then s else s.setHT r 4 p (cumDly g.latB x.tripsB)
  s.setHT r 5 p (if p = 0 then s.hT r 3 0 else s.hT r 3 p - s.hT r 3 (p - 1))

/-- A restarted KH2 has opened its string (R153, R661). -/
def Chip.restartSeen (s : Chip) (r p : Nat) : Chip :=
  match (if s.isHead r p then s.stringOf r p else none) with
  | some n => if (s.st n).sw == .closed then ((s.wearString n 3 true true).flag 0x2500 0x1B 6).setSw n .open else s
  | none => s

/-- A slice that has restarted goes through steps 3 to 5 of discovery again (R153). -/
def Chip.reassign (s : Chip) (r p : Nat) (x : Found) : Chip :=
  let s := (((s.restartSeen r p).measureDelays r p x).assignSlice r p).configSlice r p
  s.post 0x1015 r (le 1 p ++ le 2 (s.hT r 2 p))

/-- A position is to be enumerated again (R150): an ENUM from both ports, whose records a scan compares. -/
def Chip.reenumerate (s : Chip) (r p : Nat) : Chip :=
  let g := s.ring r
  s.setRing r { g with reenum := g.reenum ||| 2 ^ p,
                       queue := if g.queue.any (fun q => q.type == 7) then g.queue else g.queue ++ [⟨7, 64, zeros 1024, 0, 0, false, false, g.limited⟩] }

/-! ## Privileged channels (R66, R83, R180) -/

/-- Burst channels of a position named by its privileged mask: KS16 elements, or current and voltage of a KH2 (R180). -/
def Chip.privOf (s : Chip) (r p : Nat) : List Nat :=
  let m := s.rd (0x3010 + r) (0x41 + p)
  bitsSet (if s.herdType r p == 2 then 2 else 16) m

/-- The slice type charged at a position, and its privileged channels: those of the admitted slice, or of a vacancy hold (R83). -/
def Chip.typeCharged (s : Chip) (r p : Nat) : Nat :=
  if s.herdState r p == 2 then s.herdType r p else Map.read 0 (s.ring r).hold p % 16
def Chip.privCharged (s : Chip) (r p : Nat) : List Nat :=
  if s.herdState r p == 2 then s.privOf r p else bitsSet 16 (Map.read 0 (s.ring r).hold p / 16)

/-- Privileged channels of a block in the order in which they are staggered (R66). -/
def Chip.blockBursts (s : Chip) (r : Nat) : List (Nat × Nat) :=
  (List.range 64).flatMap (fun p => (s.privCharged r p).map (fun e => (p, e)))

/-- Those that burst at the instant of tick `t`: with divisor d one tick out of d for each channel. -/
def Chip.burstsAt (s : Chip) (r t : Nat) : List (Nat × Nat) :=
  let d := max 1 (s.rd 0x2100 0x04)
  ((s.blockBursts r).zipIdx).filterMap (fun x => if (x.2 + t) % d == 0 then some x.1 else none)

/-- The most of the positions that `sel` takes that burst in one tick. -/
def Chip.mostBursts (s : Chip) (r : Nat) (sel : Nat → Bool) : Nat :=
  (List.range 16).foldl (fun m t => max m ((s.burstsAt r t).filter (fun x => sel x.1)).length) 0

/-! ## Vacancies and fawns (R83, R154) -/

/-- Hold the figures and credits of a position whose slice has left, for its type and its privileged channels (R83). -/
def Chip.holdFigures (s : Chip) (r p type : Nat) : Chip :=
  let mask := s.rd (0x3010 + r) (0x41 + p) % 2 ^ (if type == 2 then 2 else 16)
  s.setRing r { s.ring r with hold := Map.write 0 (s.ring r).hold p (type + 16 * mask) }

/-- The slot of a position holds nothing any more, and its elements have no fast records: those start at an admission
(R255, R273). -/
def Chip.dropSlot (s : Chip) (r p : Nat) : Chip :=
  { s with slotData := Map.write {} s.slotData (r * 64 + p) {}
           fast := s.fast.filter (fun x => x.1 / 16 != r * 64 + p)
           elem := s.elem.filter (fun x => x.1 / 16 != r * 64 + p)
           prot := s.prot.filter (fun x => x.1 % 16384 / 16 != r * 64 + p || x.1 / 16384 == 6)
           acting := s.acting.filter (fun x => x.1 % 16384 / 16 != r * 64 + p || 6 ≤ x.1 / 16384)
           tHist := s.tHist.filter (fun x => x.1 / 16 != r * 64 + p) }

def Chip.dropFawn (s : Chip) (r p : Nat) : Chip :=
  let g := s.ring r
  s.setRing r { g with fawns := g.fawns.filter (· != p), fawnCause := Map.write 0 g.fawnCause p 0, exch := Map.erase p g.exch }

/-- A fawn joins the others, in the order of their discovery (R79). -/
def Chip.addFawn (s : Chip) (r p : Nat) : Chip :=
  let s := s.dropFawn r p
  (s.setRing r { s.ring r with fawns := (s.ring r).fawns ++ [p] }).wr (0x2960 + r) (0x41 + p) 0

/-- A fawn is never admitted, with 0x101C (R154). -/
def Chip.rejectFawn (s : Chip) (r p cause : Nat) : Chip :=
  ((s.setHerdState r p 5).dropFawn r p).post 0x101C r (le 1 p ++ le 8 (s.hT r 0 p) ++ le 1 cause)

/-- Flags of 31n1 [7:4] for a position reached in its own half's direction, or in the other (R146, R160). -/
def roleFlags (head : Bool) (p : Nat) (other orient : Bool) : Nat :=
  let up := (decide (32 ≤ p)) != other
  (if head then 8 else 0) + (if up then 6 else 0) + (if orient then 1 else 0)

/-- Enter the slice of an ENUM record as a fawn (R152, R154): measured, assigned and configured. `fromB`: it was reached from
logical B. -/
def Chip.enterFawn (s : Chip) (r p : Nat) (f : Found) (fromB : Bool) : Chip :=
  let x := f.enum
  let held := s.herdType r p
  let s := if s.herdState r p == 2 || (s.herdState r p == 4 && (s.hrd (r * 64 + p)).state == 2) then s.holdFigures r p held else s
  let s := (s.dropSlot r p).dropFawn r p
  let orient := if fromB then x.connector == 0 else x.connector == 1
  let flags := roleFlags (s.isHead r p) p (decide (32 ≤ p) != bit (s.hT r 1 p) 6 && s.herdState r p != 0) orient
  let s := (s.setHT r 0 p x.serial).setHT r 1 p (1 * 4096 + x.kind % 16 * 256 + flags * 16 + (if bit x.flags 1 then 8 else 0))
  let s := s.setHT r 6 p ((s.stringOf r p).getD 0xFF)
  if held != 0 && held != x.kind then s.rejectFawn r p 1
  else if x.kind == 1 && s.isHead r p then s.rejectFawn r p 2
  else
    let s := ((s.measureDelays r p f).assignSlice r p).configSlice r p
    (s.addFawn r p).post 0x1014 r (le 1 p ++ le 8 x.serial ++ le 1 x.kind)

/-! ## Paths and breaks (R157–R166) -/

/-- Positions to collect from a port: admitted, with that HALF. -/
def Chip.sidePositions (s : Chip) (r : Nat) (up : Bool) : List Nat :=
  (List.range (s.nOf r)).filter (fun p => s.herdState r p == 2 && s.isUp r p == up)

/-- A re-collection frame goes behind the SAMPLE and earlier re-collection frames, ahead of the DUTY (R162); no CTRL OPEN waits for
it. -/
def beforeRec (g : Frame) : Bool := g.type == 1 || g.type == 2 || g.type == 9 || frameOpens g

/-- Send a re-collection frame. -/
def Chip.recollect (s : Chip) (r : Nat) (f : Frame) : Chip :=
  s.setRing r ((s.ring r).sendOn f.up (insertFrame beforeRec s.clk.off f 10000))

/-- May an addressed frame start now (R129)? Not from 0.95P on; on an admitted ring a frame of more than 20 µs only between 0.65P and
0.95P. -/
def Chip.mayLeave (s : Chip) (r ns : Nat) : Bool :=
  let t := s.clk.off * 100
  decide (t < s.periodNs * 95) &&
    (decide (ns ≤ 20000) || !(s.ringState r == 2 || s.ringState r == 3 || s.ringState r == 4) || decide (s.periodNs * 65 ≤ t))

/-- Does an ASSIGN carry the first epoch of a round? -/
def Req.wraps (q : Req) : Bool := q.type == 9 && beAt q.payload 8 2 == 1

/-- An ASSIGN of R160 with a new epoch, sent as a re-collection frame. One that may not leave now, that finds 16 requests in flight
(R130) or whose epoch completes a wrap while a transaction to its position is in flight (R148) waits at the head of the queue. -/
def Chip.assignNow (s : Chip) (r p : Nat) : Chip :=
  let s := s.bumpEpoch r p
  let g := s.ring r
  let q := s.mkReq r p 9 (s.assignPayload r p)
  if g.limited || 16 ≤ g.txs.length || !s.mayLeave r ((19 + q.payload.length) * 80) || q.wraps && g.txs.any (fun t => t.req.pos == p) then
    s.queueFirst r q
  else s.leaveAt r q (fun f => insertFrame beforeRec s.clk.off f 10000)

/-- Turn HALF and TSRC of each orphaned position to the direction that reaches it (R160); the persistent copy follows an admitted
slice's role (R134). -/
def Chip.turnOrphans (s : Chip) (r : Nat) : Chip :=
  (List.range (s.nOf r)).foldl (fun s p =>
    let st := s.herdState r p
    if st != 0 && s.hasPath r p && (if s.isUp r p then !s.reachB r p else !s.reachA r p) then
      let f := s.hT r 1 p
      let up := !s.isUp r p
      let s := (s.setHT r 1 p (setBits f 6 5 (if up then 3 else 0))).assignNow r p
      if st == 2 then s.persist r p 2 else s
    else s) s

/-- Round trip to a position from its port, ns (R163): twice its CUMDLY. -/
def Chip.roundTrip (s : Chip) (r p : Nat) (up : Bool) : Nat := s.hT r (if up then 4 else 3) p / 4

/-- Half-frame capacity and admission limit of R54 at period `p`. -/
def halfCapacity (p : Nat) : Nat := if p == 1 then 48 else if p == 2 then 112 else 240
def halfLimit (p : Nat) : Nat := if p == 1 then 40 else if p == 2 then 95 else 204

/-- Cf of a folded side (R164). `far` is the position of its folding slice. -/
def Chip.foldCapacity (s : Chip) (r far : Nat) (up : Bool) : Nat :=
  min (halfCapacity s.clk.p) ((s.periodNs / 4 - 12480 - s.roundTrip r far up) / 3840)

/-- One side's alternate-tick positions and whether its bursts stop (R164): its R regular slots are those of positions with a path. -/
def Chip.sideFit (s : Chip) (r : Nat) (up : Bool) : Bool × List Nat :=
  let ps := (s.sidePositions r up).filter (s.hasPath r)
  match (s.ring r).brk with
  | none => (false, [])
  | some (a, b) =>
    let reach := if up then b else a
    if reach == 0 then (false, [])
    else
      let cf := s.foldCapacity r (countOf (s.nOf r) up (reach - 1)) up
      let extra := s.mostBursts r ps.contains + (if (s.ring r).fawns.any (fun p => s.isUp r p == up) then 1 else 0)
      let stop := decide (ps.length + extra > cf)
      let k := 2 * (ps.length - cf)
      (stop, if ps.length ≤ cf then [] else (if up then ps.take k else ps.reverse.take k))

/-- Apply R164 to both sides, with 0x101B for a side where something stops. -/
def Chip.fitSides (s : Chip) (r : Nat) : Chip :=
  let (stopA, altA) := s.sideFit r false
  let (stopB, altB) := s.sideFit r true
  let mask := maskOf 64 (fun p => altA.contains p || altB.contains p)
  let old := s.ring r
  let oldMask := s.rd (0x3107 + 16 * r) 0x0A
  let s := (s.setRing r { old with noExtraA := stopA, noExtraB := stopB }).wr (0x3107 + 16 * r) 0x0A mask
  let s := (List.range 64).foldl (fun s p => s.setHT r 1 p (putBit (s.hT r 1 p) 2 (bit mask p))) s
  let ev (s : Chip) (stop was : Bool) (alt : List Nat) (side : Nat) : Chip :=
    if (stop && !was) || (!alt.isEmpty && mask != oldMask) then s.post 0x101B r (le 4 side ++ le 8 mask) else s
  ev (ev s stopA old.noExtraA altA 0) stopB old.noExtraB altB 1

/-- a and N − POS_B as 31n7:04 and 31n7:05 show them; 0xFF none. -/
def Chip.showBreak (s : Chip) (r a b : Nat) : Chip :=
  (s.wr (0x3107 + 16 * r) 0x04 (if a = 0 then 0xFF else a - 1)).wr (0x3107 + 16 * r) 0x05 (if b = 0 then 0xFF else s.nOf r - b)

/-- The break is where A reaches `a` slices and B reaches `b` (R157, R158, R160, R164): recorded once for each change; a break not
known before, or one that leaves a port fewer slices, is a new one. -/
def Chip.setBreak (s : Chip) (r a b : Nat) : Chip :=
  let old := (s.ring r).brk
  if old == some (a, b) then s
  else
    let fresh := match old with | none => !(s.ring r).brkSeen | some (a', b') => decide (a < a') || decide (b < b')
    let s := s.setRing r { s.ring r with brk := some (a, b), brkNew := true, brkSeen := false
                                         brkTicks := if old.isNone then 0 else (s.ring r).brkTicks }
    let s := if fresh then s.inc 32 (0x3107 + 16 * r) 0x07 else s
    let s := (s.showBreak r a b).post 0x1016 r (le 1 (if a = 0 then 0xFF else a - 1) ++ le 1 (if b = 0 then 0xFF else s.nOf r - b))
    let s := if s.ringState r == 2 then s.setRingState r 3 else s
    (s.turnOrphans r).fitSides r

/-- A ring taken out of admission starts discovery (R137): its slices leave admission for the duration. A ring of a region that is
held stays not admitted (R462). -/
def Chip.startDiscovery (s : Chip) (r : Nat) : Chip :=
  if s.rd (0x6064 + r / 4) 0x01 == 2 then (s.setRing r { s.ring r with done := true }).setRingState r 5
  else
  let s := (s.setRing r { disc := true, nextTag := (s.ring r).nextTag, crossA := (s.ring r).crossA,
                          crossB := (s.ring r).crossB, peerA := (s.ring r).peerA, peerB := (s.ring r).peerB, portx := (s.ring r).portx,
                          unfit := (s.ring r).unfit, short := (s.ring r).short, hbLost := (s.ring r).hbLost, bgDone := (s.ring r).bgDone,
                          latA := (s.ring r).latA, latB := (s.ring r).latB, hold := (s.ring r).hold }).setRingState r 1
  (List.range 64).foldl (fun s p => if s.herdState r p == 0 then s else (s.setHerdState r p 1).dropSlot r p) s

end Sys2Proof.Machine
end

