-- ==== Sys2Proof/Machine/Pager.lean ====
section
/-!
DEFINITION. Sys2Proof/Machine/Pager.lean: slow records, the page cache with its write-back, the sector pool and the
spare units (12_paging_allocation_sparing; the slow record of R299–R301).
-/

namespace Sys2Proof.Machine

/-- Is an operating time within the last 24 h? -/
def Chip.within24h (s : Chip) (t : Nat) : Bool := decide (s.rd 0x1040 0x01 < t + 86400)

/-! ## Slow records (R299, R301) -/

/-- Nominal capacity of the element's profile in Ah, as binary32. -/
def Chip.qnomOf (s : Chip) (e : Nat) : F32 :=
  match s.stringOf (e / 1024) (e / 16 % 64) with
  | some n => f32OfFrac (s.qnom n : Int) 1000
  | none => 0

/-- The capacity of an element by its slow record: the learned one, until then the profile's nominal capacity (R243). -/
def Chip.capacityOf (s : Chip) (e : Nat) (b : List Byte) : F32 :=
  if bit (leAt b 6 2) 1 then BitVec.ofNat 32 (leAt b 32 4) else s.qnomOf e

/-- Write the CRC of a slow record (R397). -/
def sealSlow (b : List Byte) : List Byte := splice b 1020 (le 4 (crc32c (b.take 1020)).toNat)

def slowCrcOk (b : List Byte) : Bool := b.length == 1024 && leAt b 1020 4 == (crc32c (b.take 1020)).toNat

/-- A record with QCAP at nominal and empty histories (R301); QVAR starts at 0 (log entry 26). -/
def newSlow (qnom : F32) (flags : Nat) : List Byte :=
  let b := zeros 1024
  let b := splice b 4 (le 2 0x0100 ++ le 2 flags)
  let b := splice b 32 (le 4 qnom.toNat)
  let b := splice b 320 (le 4 0x3F800000)
  sealSlow (splice b 660 (le 4 0xFFFFFFFF))

def pageOf (e : Nat) : Nat := e / 4

def Chip.pages (s : Chip) : List (Nat × Page) := s.pager.cache

def Chip.page? (s : Chip) (m : Nat) : Option Page := (s.pages.find? (fun x => x.1 == m)).map (·.2)

/-- Put a page into the cache, or replace it. -/
def Chip.setPage (s : Chip) (m : Nat) (x : Page) : Chip :=
  { s with pager := { s.pager with cache := Map.insert m x s.pager.cache } }

def Chip.dropPage (s : Chip) (m : Nat) : Chip :=
  { s with pager := { s.pager with cache := Map.erase m s.pager.cache } }

/-- The record in eMRAM; one never written is a new record (log entry 26). -/
def Chip.slowMram (s : Chip) (e : Nat) : List Byte :=
  let b := Map.read [] s.pager.slow e
  if b.isEmpty then newSlow (s.qnomOf e) 0 else b

/-- A page whose records can be used. -/
def Page.usable (x : Page) : Bool := x.st == .clean || x.st == .soft || x.st == .dirty || x.st == .writing

/-- The record as it stands: cached, else in eMRAM. -/
def Chip.slowRec (s : Chip) (e : Nat) : List Byte :=
  match s.page? (pageOf e) with
  | some x => if x.usable then x.recs.getD (e % 4) (s.slowMram e) else s.slowMram e
  | none => s.slowMram e

/-- Is the record's page cached and usable? -/
def Chip.cached (s : Chip) (e : Nat) : Bool :=
  match s.page? (pageOf e) with
  | some x => x.usable
  | none => false

/-- Two records differ beyond SEQ, ZCNT, ZACC and CRC (R428). -/
def hardChange (a b : List Byte) : Bool :=
  let cut (x : List Byte) := (x.drop 4).take 328 ++ (x.drop 348).take 164 ++ (x.drop 640).take 380
  cut a != cut b

/-- The state a changed page takes (R428, R436). -/
def Page.touch (x : Page) (hard : Bool) : Page :=
  match x.st with
  | .clean => { x with st := if hard then .dirty else .soft }
  | .soft => { x with st := if hard then .dirty else .soft }
  | .writing => { x with changed := if hard then 2 else max x.changed 1 }
  | _ => x

/-- The slow phase, from 0.70P to 0.95P. -/
def Chip.slowPhase (s : Chip) : Bool := decide (s.periodNs * 70 ≤ s.clk.off * 100) && decide (s.clk.off * 100 < s.periodNs * 95)

/-- A record that changes is kept as it stood before, until the next slow phase has ended (R301). -/
def Chip.keepBefore (s : Chip) (e : Nat) : Chip :=
  if (Map.read [] s.pager.before e).isEmpty then
    { s with pager := { s.pager with before := Map.write [] s.pager.before e (s.slowRec e) } }
  else s

/-- The record as the dictionary shows it: as it stood at the end of the last slow phase (R301, R432). -/
def Chip.slowSeen (s : Chip) (e : Nat) : List Byte :=
  let b := Map.read [] s.pager.before e
  if b.isEmpty then s.slowRec e else b

/-- Copy a record into its cached page, with its CRC (R397, R428). -/
def Chip.commitSlow (s : Chip) (e : Nat) (b : List Byte) : Chip :=
  let m := pageOf e
  let s := s.keepBefore e
  match s.page? m with
  | some x =>
    if x.usable then
      let b := sealSlow (fit 1024 b)
      s.setPage m ({ x with recs := x.recs.set (e % 4) b }.touch (hardChange (x.recs.getD (e % 4) []) b))
    else s
  | none => s

/-- A resident job writes a record: SEQ counts (R299). -/
def Chip.writeSlow (s : Chip) (e : Nat) (b : List Byte) : Chip :=
  s.commitSlow e (splice b 0 (le 4 ((leAt b 0 4 + 1) % 2 ^ 32)))

/-- Put slow flags (48nn:51–60). -/
def setSFlag (b : List Byte) (i : Nat) (v : Bool) : List Byte := splice b 6 (le 2 (putBit (leAt b 6 2) i v))

/-- 2900:01[3]: some element has EOLCAP or EOLRES (R313). -/
def Chip.showEol (s : Chip) : Chip :=
  let eol (e : Nat) : Bool := bits (leAt (s.slowRec e) 6 2) 7 6 != 0
  s.wrBit 0x2900 0x01 3 ((s.pager.slow.map (·.1)).any eol || (s.pages.flatMap (fun x => (List.range 4).map (4 * x.1 + ·))).any eol)

/-! ## Areas, sectors and banks (R19, R424) -/

/-- First sector of an area, the areas in the order of R19's table (DESIGN CHOICE, log entry 144: R424 numbers sectors within an area). -/
def MramArea.base : MramArea → Nat
  | .slow => 0
  | .log => 4096
  | .pool => 6144
  | .imageA => 7168
  | .imageB => 7424
  | .tines => 7680
  | .config => 7936

/-- Sector `n` of an area; every area begins at a multiple of 16, so it lies in bank n mod 16. -/
def MramArea.sector (a : MramArea) (n : Nat) : Nat := a.base + n

def bankOf (m : Nat) : Nat := m % 16

/-! ## Counts (R434, R449) -/

/-- Pages that count against the dirty cap: DIRTY and WRITING, and granted pages that may become DIRTY. -/
def Page.counts (x : Page) : Bool := x.st == .dirty || x.st == .writing || x.grant

def Chip.dirtyCount (s : Chip) : Nat := (s.pages.filter (fun x => x.2.counts)).length
def Chip.bankDirty (s : Chip) (b : Nat) : Nat := (s.pages.filter (fun x => bankOf x.1 == b && x.2.counts)).length

/-- ms since POR, the time base of the pager. -/
def Chip.ms (s : Chip) : Nat := s.clk.sincePor

/-- Time since the previous write-back of a page; from BOOT where it has had none (R433). -/
def Chip.sinceWb (s : Chip) (m : Nat) : Nat := s.ms - Map.read 0 s.pager.wb m

/-- Age of the oldest DIRTY page, s. -/
def Chip.oldestDirty (s : Chip) : Nat :=
  ((s.pages.filter (fun x => x.2.st == .dirty)).map (fun x => s.sinceWb x.1)).foldl max 0 / 1000

/-- What 2110 shows of the cache (R449). -/
def Chip.pagerView (s : Chip) (sub : Nat) : Nat :=
  match sub with
  | 0x01 => s.pages.length
  | 0x02 => s.dirtyCount
  | 0x03 => (s.pages.filter (fun x => x.2.st == .soft)).length
  | 0x04 => (s.pages.filter (fun x => x.2.grant)).length
  | 0x08 => s.oldestDirty
  | _ => s.rd 0x2110 sub

/-! ## Fetching (R425, R430, R431) -/

/-- Does a page hold records: a KS16 position that is not EMPTY (R425)? -/
def Chip.pageHolds (s : Chip) (m : Nat) : Bool :=
  let r := m / 256
  let p := m / 4 % 64
  s.herdState r p != 0 && !s.isHead r p

/-- Of some pages, the one granted least recently. -/
def leastGranted : List (Nat × Page) → Option (Nat × Page)
  | [] => none
  | x :: xs =>
    match leastGranted xs with
    | none => some x
    | some y => if x.2.granted ≤ y.2.granted then some x else some y

/-- Write a page's records into eMRAM. -/
def Chip.storePage (s : Chip) (m : Nat) (x : Page) : Chip :=
  let slow := (x.recs.zipIdx).foldl (fun a r => Map.insert (4 * m + r.2) r.1 a) s.pager.slow
  { s with pager := { s.pager with slow := slow } }

/-- A row whose verify failed to the end is left as written: its bytes in eMRAM are open (R440). -/
def Chip.spoilRow (s : Chip) (m i : Nat) : Chip :=
  let (v, s) := s.draw
  let e := 4 * m + i / 32
  { s with pager := { s.pager with slow := Map.insert e (splice (s.slowMram e) (i % 32 * 32) (le 32 v)) s.pager.slow } }

/-- Cached pages of a state that the pager may take (R431). -/
def Chip.takeable (s : Chip) (st : PageState) : List (Nat × Page) := s.pages.filter (fun x => x.2.st == st && !x.2.grant)

/-- Present a request: a page waits once for the same kind of transfer, in the better of the two classes. -/
def Chip.present (s : Chip) (q : MramReq) : Chip :=
  let same (x : MramReq) : Bool := q.kind != .read && x.kind == q.kind && x.unit == q.unit
  if s.pager.reqs.any (fun x => same x && decide (x.cls ≤ q.cls)) then s
  else { s with pager := { s.pager with reqs := s.pager.reqs.filter (fun x => !same x) ++ [q] } }

/-- Free a cache page where all 512 are in use (R431). A SOFT page that is due is written back first, and can be taken when that is done. -/
def Chip.makeRoom (s : Chip) : Chip :=
  if s.pages.length < 512 then s
  else
    match leastGranted (s.takeable .clean) with
    | some (m, _) => s.dropPage m
    | none =>
      match leastGranted (s.takeable .soft) with
      | some (m, _) =>
        if s.sinceWb m ≥ 600000 && s.pageHolds m then s.present ⟨5, .write, m, false⟩ else s.dropPage m
      | none => s

/-- Ask for a page; CACHEWAIT where no page can be freed. -/
def Chip.fetchPage (s : Chip) (m : Nat) : Chip :=
  if (s.page? m).isSome || !s.pageHolds m then s
  else
    let can := !(s.takeable .clean).isEmpty || !(s.takeable .soft).isEmpty
    let s := s.makeRoom
    if s.pages.length < 512 then
      let f := ((List.range 512).find? (fun f => s.pages.all (fun x => x.2.frame != f))).getD 0
      s.setPage m { frame := f }
    else if can then s
    else s.wrBit 0x2110 0x0A 0 true

/-! ## The eMRAM controller (R426, R437, R458) -/

/-- The record of an element failed its CRC: it is made new, with CRCREST and 0x401E (R301). -/
def Chip.crcRestored (s : Chip) (e : Nat) : Chip :=
  (s.flag 0x2900 0x01 5).post 0x401E (e / 1024) (le 1 (e / 16 % 64) ++ le 1 (e % 16))

/-- Sectors whose write is in flight: write-backs of pages, and the log sectors of a flush (R426). Writes of images, configuration and herd
tables begin and end within their command (log entry 137). -/
def Chip.writing (s : Chip) : List Nat :=
  ((s.pages.filter (fun x => x.2.st == .writing)).map (·.1)) ++ s.pager.logW.map MramArea.log.sector

/-- Room for more writes in flight, one to each of some sectors: 32 in the device, 2 in a bank (R426). -/
def Chip.roomFor (s : Chip) (ks : List Nat) : Bool :=
  decide (s.writing.length + ks.length ≤ 32) &&
  (List.range 16).all (fun b => decide (((s.writing ++ ks).filter (fun k => bankOf k == b)).length ≤ 2) || ks.all (bankOf · != b))

def Chip.writeRoom (s : Chip) (m : Nat) : Bool := s.roomFor [m]

def Chip.startWb (s : Chip) (m : Nat) (x : Page) : Chip :=
  s.setPage m { x with st := .writing, started := s.ms, changed := 0 }

/-- A slow record served from the cached copy or from eMRAM (R432); one whose CRC fails is re-initialised (R301). -/
def Chip.serveRecord (s : Chip) (e : Nat) : Chip :=
  let s := if s.cached e || slowCrcOk (s.slowMram e) then s
    else { s.crcRestored e with pager := { s.pager with slow := Map.insert e (newSlow (s.qnomOf e) 1024) s.pager.slow } }
  s.answer .ok 0 (s.slowSeen e)

def MramReq.bank (q : MramReq) : Nat := bankOf (if q.kind == .read then pageOf q.unit else q.unit)

/-- The order in which requests are served: classes 1 to 3, then what bleats, then classes 4 to 7. -/
def MramReq.order (q : MramReq) : Nat := if q.cls ≤ 3 then q.cls else if q.loud then 4 else q.cls + 1

/-- Room in flight for a request: 64 page transfers and 32 writes in the device, 2 writes in a bank. DESIGN CHOICE (log entry 145): a
write-back in flight counts among the 64 page transfers as well as among the 32 writes, though R1 adds the two. -/
def Chip.mramRoom (s : Chip) (q : MramReq) : Bool :=
  let moving := (s.pages.filter (fun x => x.2.st == .fetching || x.2.st == .writing)).length
  match q.kind with
  | .fetch => decide (moving < 64)
  | .write => decide (moving < 64) && s.writeRoom q.unit
  | .read => true

/-- Does request `x` come before `y`, each with its place in the order of arrival? Write-backs that are due run oldest first (R433). -/
def Chip.reqBefore (s : Chip) (x y : MramReq × Nat) : Bool :=
  let age (q : MramReq) : Nat := if q.cls == 5 && !q.loud then Map.read 0 s.pager.wb q.unit else 0
  decide (x.1.order < y.1.order) || (x.1.order == y.1.order &&
    (decide (age x.1 < age y.1) || (age x.1 == age y.1 && decide (x.2 < y.2))))

/-- The request to start next: in the order of the classes and of their arrival, each behind those of its bank that come before it. DESIGN
CHOICE (log entry 137): one that has no room does not hold up another bank. -/
def Chip.nextReq (s : Chip) : Option MramReq :=
  let qs := s.pager.reqs.zipIdx
  let ready := qs.filter (fun x => s.mramRoom x.1 && !qs.any (fun y => y.1.bank == x.1.bank && s.reqBefore y x))
  (ready.find? (fun x => !ready.any (fun y => s.reqBefore y x))).map (·.1)

/-- A request is started. A fetch that finds no free cache page stays wanted; a page whose position holds no records any more is dropped,
never written (R425). -/
def Chip.startReq (s : Chip) (q : MramReq) : Chip :=
  let s := { s with pager := { s.pager with reqs := s.pager.reqs.erase q } }
  match q.kind with
  | .read => s.serveRecord q.unit
  | .write =>
    match s.page? q.unit with
    | some x =>
      if x.st != .dirty && x.st != .soft then s
      else if s.pageHolds q.unit then s.startWb q.unit x
      else s.dropPage q.unit
    | none => s
  | .fetch =>
    let s := s.fetchPage q.unit
    if (s.page? q.unit).isSome || !s.pageHolds q.unit || s.pager.wanted.contains q.unit then s
    else { s with pager := { s.pager with wanted := s.pager.wanted ++ [q.unit] } }

/-- Start what can be started. -/
def Chip.serveUpTo (s : Chip) : Nat → Chip
  | 0 => s
  | n + 1 => match s.nextReq with
    | none => s
    | some q => (s.startReq q).serveUpTo n

def Chip.serveMram (s : Chip) : Chip := s.serveUpTo (2 * s.pager.reqs.length)

def Chip.ask (s : Chip) (q : MramReq) : Chip := (s.present q).serveMram

/-- The pages that jobs wait for are fetched from the tick edge on, in the order of placement (R430); none on the way down (R438). -/
def Chip.fetchWanted (s : Chip) : Chip :=
  let ms := s.pager.wanted
  let s := { s.wrBit 0x2110 0x0A 0 false with pager := { s.pager with wanted := [] } }
  if s.mode == .shutdown then s
  else ((ms.filter (fun m => (s.page? m).isNone && s.pageHolds m)).foldl (fun s m => s.present ⟨4, .fetch, m, false⟩) s).serveMram

/-! ## Grants and deferrals (R58, R429, R430, R434) -/

/-- Why a slow job's pages cannot be granted: 1 cache, 2 cap, 3 grant (R429, R430, R434). -/
def Chip.grantRefusal (s : Chip) (ms : List Nat) : Nat :=
  let xs := ms.filterMap (fun m => (s.page? m).map (fun x => (m, x)))
  let fresh := xs.filter (fun x => !x.2.counts)
  if xs.length != ms.length || xs.any (fun x => x.2.st == .fetching || x.2.st == .writing) then 1
  else if xs.any (fun x => x.2.grant) then 3
  else if s.dirtyCount + fresh.length > 64 ||
      (List.range 16).any (fun b => s.bankDirty b + (fresh.filter (fun x => bankOf x.1 == b)).length > 16) then 2
  else 0

/-- Grant pages to a job that is placed; no placement waits on the cap then. -/
def Chip.grantPages (s : Chip) (ms : List Nat) : Chip :=
  (ms.foldl (fun s m => match s.page? m with
    | some x => s.setPage m { x with grant := true, granted := s.ms }
    | none => s) s).wrBit 0x2110 0x0A 1 false

/-- Pages granted to a job are free again (R429). -/
def Chip.ungrant (s : Chip) (ms : List Nat) : Chip :=
  ms.foldl (fun s m => match s.page? m with
    | some x => s.setPage m { x with grant := false }
    | none => s) s

/-- Name pages to the pager, which fetches them from the next tick edge on (R430). -/
def Chip.wantPages (s : Chip) (ms : List Nat) : Chip :=
  { s with pager := { s.pager with wanted := s.pager.wanted ++ ms.eraseDups.filter (fun m => !s.pager.wanted.contains m) } }

/-- A job of block `b` is deferred for a cause of `grantRefusal`: its pages stay requested, CAPWAIT is set where the cap holds it up, and
0x6051 is recorded (R58, R430, R434). -/
def Chip.defer (s : Chip) (b why : Nat) (ms : List Nat) : Chip :=
  let s := if why == 1 then s.wantPages ms else s
  let s := if why == 2 then s.wrBit 0x2110 0x0A 1 true else s
  (s.inc 32 0x2110 0x05).post 0x6051 b (le 1 why)

/-- Run a resident slow job on an element's record: its page is granted to it from its placement to its end, or the job is deferred. At shed
level 1 and above slow-tier jobs stop (R65). -/
def Chip.slowJob (s : Chip) (e : Nat) (f : Chip → Chip) : Chip :=
  let ms := [pageOf e]
  let why := s.grantRefusal ms
  if 1 ≤ s.rd 0x2100 0x03 then s
  else if why == 0 then (f (s.grantPages ms)).ungrant ms
  else s.defer (e / 1024) why ms

/-- The sector in which a page lies. -/
def Chip.sectorOf (s : Chip) (m : Nat) : Nat := Map.read m s.pager.remap m

/-! ## Spares in service (R441, R442, R447, R448) -/

/-- A class without a spare: 0xB007 when its last spare goes into service. -/
def Chip.exhaust (s : Chip) (cls left : Nat) : Chip :=
  if left = 0 then s.post 0xB007 cls else s

/-- EXHAUST of 2A00:01: some class has no spare left. -/
def Chip.exhausted (s : Chip) : Bool :=
  s.rd 0x2A00 0x02 == 0 || s.rd 0x2A00 0x03 != 0 || s.rd 0x2A00 0x04 == 0 || s.rd 0x2A00 0x05 == 0 || s.rd 0x2A00 0x06 == 0 ||
  (List.range 16).all (fun k => (s.ch k).spare)

/-- A swap: counted for the life of the part, with SWAP. -/
def Chip.countSwap (s : Chip) : Chip := (s.inc 32 0x2A00 0x07).flag 0x2A00 0x01 0

/-- A unit past its threshold without a spare: WORN and 0xB00C (R448). -/
def Chip.worn (s : Chip) (cls unit : Nat) : Chip :=
  let k := cls + 8 * unit
  if s.pager.worn.contains k then s
  else { (s.wrBit 0x2A00 0x01 3 true).post 0xB00C cls (le 4 unit) with pager := { s.pager with worn := s.pager.worn ++ [k] } }

/-- POOLLOW, with 0xB00A as it begins (R442). -/
def Chip.checkPool (s : Chip) : Chip :=
  let left := s.rd 0x2A00 0x05
  let low := decide (left < s.rd 0x2A00 0x15)
  let s := if low && !s.rdBit 0x2A00 0x01 5 then s.post 0xB00A 0 (le 2 left) else s
  s.wrBit 0x2A00 0x01 5 low

/-- SECTOR_RETIRE (R441, R442): the sector of page `m` gives way to a pool sector of its bank, or of any; classes are
numbered in the order of the table of R443. A page that is not cached is fetched for the move. -/
def Chip.retireSector (s : Chip) (m cause : Nat) : Chip :=
  let free := (List.range 1024).filter (fun i => !s.pager.pool.contains i)
  match (match free.find? (fun i => bankOf i == bankOf m) with | some i => some i | none => free.head?) with
  | none => s.worn 5 m
  | some i =>
    let left := free.length - 1
    let old := s.sectorOf m
    let s := { s with pager := { s.pager with pool := s.pager.pool ++ [i], moveTo := Map.insert m (MramArea.pool.sector i) s.pager.moveTo
                                              move := s.pager.move ++ [m], rows := Map.erase m s.pager.rows } }
    let s := match s.page? m with
      | some x => s.setPage m (x.touch true)
      | none => { s with pager := { s.pager with wanted := s.pager.wanted ++ [m] } }
    let s := ((s.inc 16 (0x2A40 + bankOf m) 0x01).wr 0x2A00 0x05 left).countSwap
    let s := s.post 0xB005 (bankOf m) (le 4 old ++ le 4 (MramArea.pool.sector i) ++ le 1 cause)
    s.checkPool.exhaust 5 left

/-- At a tick edge the remap entries of the sectors whose content has moved are switched (R441). -/
def Chip.switchRemap (s : Chip) : Chip :=
  let (due, rest) := s.pager.moveTo.partition (fun x => !s.pager.move.contains x.1)
  { s with pager := { s.pager with remap := due.foldl (fun m x => Map.insert x.1 x.2 m) s.pager.remap, moveTo := rest } }

/-- At BOOT the sectors that the last flush left unverified are retired, and moves that a restart has cut off go on (R440, R441). -/
def Chip.retireBad (s : Chip) : Chip :=
  let s := { s with pager := { s.pager with wanted := s.pager.wanted ++ s.pager.move } }
  let s : Chip := s.pager.bad.foldl (fun s m => s.retireSector m 1) s
  { s with pager := { s.pager with bad := [] } }

/-! ## Fetch (R430) -/

/-- PAGE_FETCH_COMPLETE (R430, R301); `lost` names the records of which a word could not be corrected: 0x6052, they are made new, and the
sector is retired (R443). A page whose sector moves is DIRTY (R441). -/
def Chip.pageFetchComplete (s : Chip) (m : Nat) (lost : BitVec 4) : Chip :=
  match s.page? m with
  | some x =>
    if x.st ≠ .fetching then s
    else
      let es := (List.range 4).map (fun i => 4 * m + i)
      let bad := es.filter (fun e => bit lost.toNat (e % 4) || !slowCrcOk (s.slowMram e))
      let recs := es.map (fun e => if bad.contains e then newSlow (s.qnomOf e) 1024 else s.slowMram e)
      let s := s.setPage m { x with st := if bad.isEmpty && !s.pager.move.contains m then .clean else .dirty, recs := recs }
      let s := if lost == 0 then s else (s.post 0x6052 (bankOf m) (le 4 (s.sectorOf m))).retireSector m 3
      let s := bad.foldl Chip.crcRestored s
      (if bad.isEmpty then s else s.showEol).serveMram
  | none => s

def execPageFetchComplete (page : Fin 4096) (lost : BitVec 4) : State → Host.Outcome State Fault Refusal :=
  lift (·.pageFetchComplete page lost)

/-! ## Write-back (R433–R441) -/

/-- WRITE_BACK_DUE (R433, R441): 600 s after the previous one, SOFT pages while the dirty count is 48 or below; a page
whose sector moves, and every DIRTY page while HOLDUP is low (R641), after the floor of 1 s; a request of class 5. -/
def Chip.writeBackDue (s : Chip) (m : Nat) : Chip :=
  match s.page? m with
  | some x =>
    let t := s.sinceWb m
    let due := match x.st with
      | .dirty => decide (t ≥ 600000) || ((s.pager.move.contains m || s.pager.hold) && decide (t ≥ 1000))
      | .soft => decide (t ≥ 600000) && decide (s.dirtyCount ≤ 48)
      | _ => false
    if due then s.ask ⟨5, .write, m, false⟩ else s
  | none => s

def execWriteBackDue (page : Fin 4096) : State → Host.Outcome State Fault Refusal := lift (·.writeBackDue page)

/-- The DIRTY page whose write-back is oldest, of a bank or of any. -/
def Chip.oldestPage (s : Chip) (bank : Option Nat) : List (Nat × Page) → Option (Nat × Page)
  | [] => none
  | x :: xs =>
    let rest := s.oldestPage bank xs
    let ok := x.2.st == .dirty && s.pageHolds x.1 && (match bank with | some b => bankOf x.1 == b | none => true)
    if !ok then rest
    else match rest with
      | none => some x
      | some y => if s.sinceWb x.1 ≥ s.sinceWb y.1 then some x else some y

/-- FORCED_WRITE_BACK (R435): while a placement waits on the cap; a request of class 3. -/
def Chip.forcedWriteBack (s : Chip) (bank : Option Nat) : Chip :=
  if !s.rdBit 0x2110 0x0A 1 then s
  else match s.oldestPage bank s.pages with
    | some (m, _) =>
      if s.sinceWb m ≥ 1000 && !s.pager.reqs.contains ⟨3, .write, m, false⟩ then
        let t := s.sinceWb m
        let s := (s.ask ⟨3, .write, m, false⟩).inc 32 0x2110 0x07
        (s.flag 0x2110 0x0A 2).post 0x6050 (bankOf m) (le 4 m ++ le 4 t)
      else s
    | none => s

def execForcedWriteBack (bank : Option (Fin 16)) : State → Host.Outcome State Fault Refusal :=
  lift (·.forcedWriteBack (bank.map (·.val)))

/-! ## Write-backs that complete (R436, R440) -/

/-- A flush of pages that has nothing left to write: 0x6053 and 2110:09 (R438). -/
def Chip.flushEnd (s : Chip) : Chip :=
  match s.pager.flush with
  | some n =>
    if s.pages.any (fun x => x.2.st == .writing || x.2.st == .dirty) || s.pager.reqs.any (fun q => q.kind == .write) then s
    else
      let s := { s with pager := { s.pager with flush := none } }
      let (us, s) := s.draw
      let us := us % 65536
      (s.wr 0x2110 0x09 us).post 0x6053 0 (le 4 n ++ le 2 us)
  | none => s

/-- The retry rate of a bank over the last 24 h, per 1,000 row writes (2A40+b:02). -/
def Chip.showRetries (s : Chip) (b : Nat) : Chip :=
  let xs := (Map.read [] s.pager.bankRows b).filter (fun x => s.within24h x.1)
  let rate := (xs.map (·.2)).foldl (· + ·) 0 * 1000 / max 1 (128 * xs.length)
  { s.wr (0x2A40 + b) 0x02 (min 65535 rate) with pager := { s.pager with bankRows := Map.write [] s.pager.bankRows b xs } }

/-- The rows of a write-back are counted for its sector and its bank (R443). -/
def Chip.countRows (s : Chip) (m : Nat) (rows : List (Nat × Nat)) : Chip :=
  let x := Map.read (0, []) s.pager.rows m
  let h := (x.2 ++ rows.map (fun r => (x.1 + r.1, r.2))).filter (fun r => decide (x.1 + 128 ≤ r.1 + 1000))
  let b := bankOf m
  let all := Map.read [] s.pager.bankRows b ++ [(s.rd 0x1040 0x01, (rows.map (·.2)).foldl (· + ·) 0)]
  { s with pager := { s.pager with
      rows := Map.write (0, []) s.pager.rows m (x.1 + 128, h), bankRows := Map.write [] s.pager.bankRows b all } }.showRetries b

/-- Retries in the last 1,000 row writes of a page's sector. -/
def Chip.retriesOf (s : Chip) (m : Nat) : Nat := ((Map.read (0, []) s.pager.rows m).2.map (·.2)).foldl (· + ·) 0

/-- WRITE_BACK_COMPLETE (R436, R440, R441, R443). `rows`: the rows that needed retries. One that failed to the end in a flush is left as
written, and its sector is retired at the next BOOT. -/
def Chip.writeBackComplete (s : Chip) (m : Nat) (rows : List (Nat × RowVerify)) : Chip :=
  match s.page? m with
  | some x =>
    if x.st ≠ .writing then s
    else
      let st := if x.changed == 0 then PageState.clean else if x.changed == 1 then .soft else .dirty
      let s := ((s.storePage m x).setPage m { x with st := st, changed := 0 }).inc 64 0x2110 0x06
      let s := { s with pager := { s.pager with wb := Map.insert m x.started s.pager.wb
                                                move := s.pager.move.filter (· != m) } }
      let failed := rows.filter (fun r => r.2 == .failed)
      let s : Chip := failed.foldl (fun s r => s.spoilRow m r.1) s
      let s : Chip := s.countRows m (rows.map (fun r => (r.1, r.2.retries)))
      let s : Chip :=
        if !failed.isEmpty && s.pager.flush.isSome then
          { s.flag 0x2110 0x0A 3 with pager := { s.pager with bad := s.pager.bad ++ [m] } }
        else if rows.any (fun r => r.2.retries == 3) then s.retireSector m 1
        else if s.rd 0x2A00 0x12 ≤ s.retriesOf m then s.retireSector m 2
        else s
      s.serveMram.flushEnd
  | none => s

def execWriteBackComplete (page : Fin 4096) (rows : List (Fin 128 × RowVerify)) : State → Host.Outcome State Fault Refusal :=
  lift (·.writeBackComplete page (rows.map (fun r => (r.1.val, r.2))))

/-! ## SRAM rows (R443) -/

/-- Guard phase: the rows past 2A00:11 corrected errors in 24 h are copied into a spare row of their macro, or marked worn. -/
def Chip.decideRows (s : Chip) : Chip :=
  s.pager.rowErrs.foldl (fun s x =>
    let n := (x.2.filter s.within24h).length
    let used := ((s.pager.rowGone ++ s.pager.rowDue).filter (fun k => k / 65536 == x.1 / 65536)).length
    if n < s.rd 0x2A00 0x11 || s.pager.rowDue.contains x.1 then s
    else if used < 4 then { s with pager := { s.pager with rowDue := s.pager.rowDue ++ [x.1] } }
    else s.worn 6 x.1) s

/-- Tick edge: the copied rows go into service, and moved sectors with them. -/
def Chip.edgeRows (s : Chip) : Chip :=
  s.pager.rowDue.foldl (fun s k =>
    let n := ((Map.read [] s.pager.rowErrs k).filter s.within24h).length
    let left := s.rd 0x2A00 0x06 - 1
    let s := { s with pager := { s.pager with rowGone := s.pager.rowGone ++ [k], rowDue := s.pager.rowDue.filter (· != k)
                                              rowErrs := Map.write [] s.pager.rowErrs k [] } }
    (((s.wr 0x2A00 0x06 left).countSwap).post 0xB006 (k / 65536) (le 4 (k % 65536) ++ le 4 n)).exhaust 6 left) s.switchRemap

/-! ## Flush and reads (R432, R438, R439) -/

/-- Running slow jobs that hold grants are abandoned (R438). -/
def Chip.abandonGranted (s : Chip) : Chip :=
  { s with tines := s.tines.each {} (fun x =>
      if x.run && x.job.kind == 3 && !x.job.pages.isEmpty then { x with run := false, wait := none, job := { x.job with pages := [] } } else x) }

/-- PAGE_FLUSH (R438): fetches stop, grants end and the jobs concerned with them, SOFT pages are dropped (kept and written after the others
on a mode request SHUTDOWN,
R439), and every DIRTY page is written, bank by bank in parallel: requests of class 1. -/
def Chip.pageFlush (s : Chip) (keepSoft : Bool) : Chip :=
  let keep := s.pages.filter (fun x => x.2.st != .fetching && (keepSoft || x.2.st != .soft) && (x.2.st == .writing || s.pageHolds x.1))
  let n := (keep.filter (fun x => x.2.st == .dirty || x.2.st == .writing || x.2.st == .soft)).length
  let of (st : PageState) : List MramReq := (keep.filter (fun x => x.2.st == st)).map (fun x => ⟨1, .write, x.1, false⟩)
  let cache := keep.map (fun (x : Nat × Page) => (x.1, { x.2 with grant := false }))
  let reqs := of .dirty ++ of .soft ++ s.pager.reqs.filter (fun (q : MramReq) => q.kind == MramKind.read)
  ({ s with pager := { s.pager with cache := cache, wanted := [], reqs := reqs, flush := some n, flushed := n } }).abandonGranted.serveMram.flushEnd

/-- A read takes the cached copy, or makes a request of class 7 (R432). -/
def Chip.readRecord (s : Chip) (e : Nat) : Chip := if s.cached e then s.serveRecord e else s.ask ⟨7, .read, e, false⟩

/-- The reads that waited for 0.95P, the oldest first (R432). -/
def Chip.serveReads (s : Chip) : Chip := s.pager.reads.foldl Chip.readRecord { s with pager := { s.pager with reads := [] } }

/-- SLOW_RECORD_READ (R432): served outside the slow phase; a read inside it waits until 0.95P. -/
def Chip.slowRecordRead (s : Chip) (e : Nat) : Chip :=
  if s.slowPhase then { s with pager := { s.pager with reads := s.pager.reads ++ [e] } }
  else s.readRecord e

def execSlowRecordRead (e : ElemNo) : State → Host.Outcome State Fault Refusal := lift (·.slowRecordRead e)

/-- A spare that fails its self-test is retired (R444). -/
def Chip.spareFails (s : Chip) (cls unit : Nat) : Chip := (s.flag 0x2A00 0x01 1).post 0xB008 cls (le 4 unit)

/-- The idle spare lane of a block, by physical lane. -/
def Chip.idleSpare (s : Chip) (b : Nat) : Option Nat := (List.range 5).find? (fun l => s.rd (0x2A20 + b) (l + 1) == 1)

/-- The spare lane state 212n:14: 0 while a lane is the idle spare, else 1 while the fifth lane is in service, else 2 (R84, R447; log entry
147). -/
def Chip.spareLane (s : Chip) (b : Nat) : Nat :=
  if (s.idleSpare b).isSome then 0 else if s.rd (0x2A20 + b) 5 == 2 then 2 else 1

/-- Put the state of a physical lane, and with it the spare lanes in reserve 2A00:02. -/
def Chip.setLane (s : Chip) (b l v : Nat) : Chip :=
  let s := s.wr (0x2A20 + b) (l + 1) v
  s.wr 0x2A00 0x02 ((List.range 16).filter (fun b => (s.idleSpare b).isSome)).length

/-- SPARE_SELF_TEST (R444): an idle spare lane or the idle spare supervisor pair. -/
def Chip.spareSelfTest (s : Chip) (u : SpareUnit) (pass : Bool) : Chip :=
  if pass then s
  else match u with
    | .lane b =>
      match s.idleSpare b with
      | some l =>
        (s.setLane b l 2).spareFails 1 b
      | none => s
    | .supervisor =>
      if s.rd 0x2A00 0x03 == 0 then
        (s.wr 0x2A00 0x03 2).spareFails 2 0
      else s

def execSpareSelfTest (u : SpareUnit) (pass : Bool) : State → Host.Outcome State Fault Refusal :=
  lift (·.spareSelfTest u pass)

/-- PHY_SWAP (R445): a spare pair takes over the transmission of a ring's pair, and from then on its own calibrated port latencies apply,
which are open. With both spares in service the ring's pair stays, worn (R448). -/
def Chip.phySwap (s : Chip) (spare r swing : Nat) : Chip :=
  if s.rd 0x2A00 0x04 == 0 then s.worn 3 r
  else if s.rd 0x2A00 (0x19 + spare) ≠ 0xFF then s
  else
    let left := s.rd 0x2A00 0x04 - 1
    let (a, s) := s.draw
    let (b, s) := s.draw
    let s := s.setRing r { s.ring r with latA := a, latB := b }
    let s := ((s.wr 0x2A00 (0x19 + spare) r).wr 0x2A00 0x04 left).countSwap
    (s.post 0xB003 r (le 4 spare ++ le 4 swing)).exhaust 3 left

def execPhySwap (spare : Fin 2) (r : RingNo) (swing : BitVec 16) : State → Host.Outcome State Fault Refusal :=
  lift (·.phySwap spare r swing.toNat)

end Sys2Proof.Machine
end

