-- ==== Sys2Proof/Machine/Figures.lean ====
section
/-!
DEFINITION. Sys2Proof/Machine/Figures.lean: the lanes' ranges, the declared and effective figures of Tine images
(R52–R61, R411–R414) and the loads and credits that the scheduler charges.
-/

namespace Sys2Proof.Machine

/-! ## Images (R414) -/

def Chip.image (s : Chip) (k : Nat) : List Byte := Map.read (imageDefault k) s.images k

/-- Place and kernel code of the resident images (R416): the kernels 0x01–0x04, the protection program, the sweep program, the
CAN filter and the trigger program. -/
def residentPlace (k : Nat) : Nat := [1, 1, 1, 1, 5, 2, 3, 4].getD k 0
def residentCode (k : Nat) : Nat := if k < 4 then k + 1 else 0

/-- Place, kernel code, version and lowest firmware version of an image. -/
def imgPlace (b : List Byte) : Nat := leAt b 6 1
def imgKcode (b : List Byte) : Nat := leAt b 7 1
def imgVersion (b : List Byte) : Nat := leAt b 8 4
def imgMinFw (b : List Byte) : Nat := leAt b 12 4

/-- Number of figure entries, code bytes and the offset of the code. -/
def imgNfig (b : List Byte) : Nat := leAt b 60 4
def imgCodeLen (b : List Byte) : Nat := leAt b 16 4
def imgInitLen (b : List Byte) : Nat := leAt b 20 4
def imgZeroLen (b : List Byte) : Nat := leAt b 24 4
def imgCodeAt (b : List Byte) : Nat := 128 + 8 * imgNfig b
def imgEntry (b : List Byte) (e : Nat) : Nat := leAt b (28 + 4 * e) 4
def imgCode (b : List Byte) : List Byte := (b.drop (imgCodeAt b)).take (imgCodeLen b)
def imgInit (b : List Byte) : List Byte := (b.drop (imgCodeAt b + imgCodeLen b)).take (imgInitLen b)

/-- A declared figure by kind and entry (R411); 0 where the image declares none. -/
def imgFig (b : List Byte) (kind entry : Nat) : Nat :=
  match (List.range (min (imgNfig b) 4096)).find? (fun i => leAt b (128 + 8 * i) 1 == kind && leAt b (129 + 8 * i) 1 == entry) with
  | some i => leAt b (132 + 8 * i) 4
  | none => 0

/-- Slot of the active kernel with a code (R419); the protection program is in slot 4 and the sweep program in slot 5. -/
def Chip.kernelSlot (s : Chip) (code : Nat) : Option Nat :=
  (List.range 32).find? (fun k => s.rd (0x2E10 + k) 0x01 == 3 && s.rd (0x2E10 + k) 0x02 == 1 && s.rd (0x2E10 + k) 0x03 == code)

def Chip.kernelOf (s : Chip) (n : Nat) : Nat := s.rd (0x2810 + s.rd (0x2840 + n) 0x01) 0x01

def Chip.kernelAt (s : Chip) (r p : Nat) : Option Nat :=
  match s.stringOf r p with
  | some n => s.kernelSlot (s.kernelOf n)
  | none => none

def Chip.kfig (s : Chip) (k : Option Nat) (kind : Nat) : Nat :=
  match k with
  | some k => imgFig (s.image k) kind 0
  | none => 0

def Chip.pfig (s : Chip) (kind : Nat) : Nat := imgFig (s.image 4) kind 0

/-- Distinct kernel slots that the strings of a ring use. -/
def Chip.ringKernels (s : Chip) (r : Nat) : List Nat :=
  let ks := (List.range 32).filterMap (fun n => if s.rd (0x3200 + n) 0x01 == r then s.kernelSlot (s.kernelOf n) else none)
  (List.range 32).filter ks.contains

/-- Where a kernel's code begins in the program stores of a ring's lanes: the kernel area follows the 4 KiB of the
protection program, and kernels lie in the order of their slots (log entry 32). -/
def Chip.kernelBase (s : Chip) (r k : Nat) : Nat :=
  0x1000 + (((s.ringKernels r).filter (· < k)).map (fun j => imgCodeLen (s.image j))).foldl (· + ·) 0

/-! ## Lanes (R15, R71) -/

def Chip.laneFirst (s : Chip) (r l : Nat) : Nat := if l < 4 then s.rd (0x2120 + r) (0x09 + l) else 64
def Chip.laneLast (s : Chip) (r l : Nat) : Nat := s.laneFirst r (l + 1) - 1
def Chip.lanePos (s : Chip) (r l : Nat) : List Nat :=
  (List.range 64).filter (fun p => s.laneFirst r l ≤ p && p < s.laneFirst r (l + 1))

/-- The logical lane of a position. -/
def Chip.laneOf (s : Chip) (r p : Nat) : Nat := ((List.range 4).reverse.find? (fun l => s.laneFirst r l ≤ p)).getD 0

def Chip.laneEpoch (s : Chip) (r l : Nat) : Nat := s.rd (0x2120 + r) (0x0D + l)

/-- The logical lane that a physical lane of a block runs, and the physical lane of a logical one (R76). -/
def Chip.physOf (s : Chip) (r l : Nat) : Nat := Map.read l s.sched.phys (r * 4 + l)
def Chip.logicalOf (s : Chip) (r phys : Nat) : Option Nat := (List.range 4).find? (fun l => s.physOf r l == phys)

/-! ## Loads (R52–R54, R66, R77, R83) -/

/-- Fawns measured in ticks of residue `t` modulo 16, of which a half takes one (R79). -/
def Chip.fawnsDue (s : Chip) (r t : Nat) : List Nat :=
  if s.rd 0x2100 0x03 ≥ 2 then []
  else [false, true].flatMap (fun up =>
    let fs := (s.ring r).fawns.filter (fun p => s.isUp r p == up && s.hasPath r p)
    ((fs.zipIdx).filter (fun x => x.2 % 16 == t % 16)).map (·.1))

def Chip.posProt (s : Chip) (r p : Nat) : Nat := if s.typeCharged r p == 1 then 16 * s.pfig 0x01 else 0

def Chip.posEst (s : Chip) (r p : Nat) : Nat :=
  let k := s.kernelAt r p
  if s.typeCharged r p == 1 then 16 * s.kfig k 0x03 + s.kfig k 0x04
  else if s.typeCharged r p == 2 then s.kfig k 0x05
  else 0

def Chip.protLoad (s : Chip) (r : Nat) (ps : List Nat) : Nat := s.pfig 0x02 + (ps.map (s.posProt r)).foldl (· + ·) 0

/-- Half-rate positions (2120:15). -/
def Chip.halfRate (s : Chip) (r : Nat) : Nat := s.rd (0x2120 + r) 0x15

/-- Does a position run its estimator in ticks of this parity (R77, R78)? -/
def Chip.estRuns (s : Chip) (r p parity : Nat) : Bool :=
  !bit (Map.read 0 s.sched.noEst r) p && (!bit (s.halfRate r) p || p % 2 == parity)

/-- Estimator cycles of a lane over positions `ps` in ticks of residue `t` modulo 16 (R52): per lane, the bursts that arrive, each
fawn measured unless held figures of its type cover it (R83), and the positions whose estimator runs. -/
def Chip.estLoadAt (s : Chip) (r : Nat) (ps : List Nat) (t : Nat) : Nat :=
  let at_ := ps.map (s.kernelAt r)
  let ks := (s.ringKernels r).filter (fun k => at_.contains (some k))
  let priv := ((s.burstsAt r (t + 15)).filter (fun x => ps.contains x.1 && s.typeCharged r x.1 == 1)).map (fun x => s.kfig (s.kernelAt r x.1) 0x07)
  let fawn := ((s.fawnsDue r t).filter (fun p => ps.contains p && Map.read 0 (s.ring r).hold p % 16 != s.herdType r p)).map
    (fun p => s.kfig (s.kernelAt r p) 0x08)
  (ks.map (fun k => s.kfig (some k) 0x06)).foldl (· + ·) 0 + priv.foldl (· + ·) 0 + fawn.foldl (· + ·) 0 +
    ((ps.filter (fun p => s.estRuns r p (t % 2))).map (s.posEst r)).foldl (· + ·) 0

/-- The largest of them. -/
def Chip.estLoad (s : Chip) (r : Nat) (ps : List Nat) : Nat := ((List.range 16).map (s.estLoadAt r ps)).foldl max 0

/-- Jobs by number: the two fast-tier jobs of a logical lane, slow jobs by image and entry, sweep, filter and trigger. -/
def fastJob (lane kind : Nat) : Nat := lane * 4 + kind
def slowJobNo (slot entry : Nat) : Nat := 1000 + slot * 8 + entry

/-- The effective figure of a job: its declared figure, or the highest count measured above it (R60). -/
def Chip.effective (s : Chip) (job declared : Nat) : Nat := max declared (Map.read 0 s.sched.raised job)

/-- By how much the measured count of a job exceeds its declared figure over the lane's own range. -/
def Chip.excess (s : Chip) (r l kind : Nat) : Nat :=
  Map.read 0 s.sched.raised (fastJob (4 * r + l) kind) -
    (if kind == 1 then s.protLoad r (s.lanePos r l) else s.estLoad r (s.lanePos r l))

/-- Lane load over positions `ps`: declared figures and the lane's excess, which over the lane's own range is its effective
figure (log entry 57). -/
def Chip.loadOf (s : Chip) (r l : Nat) (ps : List Nat) : Nat :=
  s.protLoad r ps + s.excess r l 1 + (s.estLoad r ps + s.excess r l 2)

def Chip.laneLoad (s : Chip) (r l : Nat) : Nat := s.loadOf r l (s.lanePos r l)

/-- Fast-tier window W, admission limit and protection limit (R53, R54). -/
def windowOf (p : Nat) : Nat := 200000 * p

/-- What slow jobs may take of the slow window (R54, R58). -/
def slowLimit (p : Nat) : Nat := 125000 * p * 85 / 100

def Chip.admitLimit (s : Chip) : Nat := windowOf s.clk.p * s.rd 0x2100 0x02 / 100
def Chip.fits (s : Chip) (r l : Nat) (ps : List Nat) : Bool :=
  decide (s.loadOf r l ps ≤ s.admitLimit) && decide (s.protLoad r ps ≤ windowOf s.clk.p / 4)

/-! ## Credits (R55) -/

/-- Credits of a half-frame: admitted slices and bursts that travel in it, and the fawn credit. -/
def Chip.credits (s : Chip) (r : Nat) (up : Bool) : Nat :=
  ((List.range 64).filter (fun p => s.typeCharged r p != 0 && s.isUp r p == up)).length +
    s.mostBursts r (fun p => s.isUp r p == up) + 1

/-- Show the loads and credits of a ring in its array (R84). -/
def Chip.showLoads (s : Chip) (r : Nat) : Chip :=
  let s := (List.range 4).foldl (fun s l => s.wr (0x2120 + r) (0x01 + l) (s.laneLoad r l)) s
  ((s.wr (0x2120 + r) 0x11 (s.credits r false)).wr (0x2120 + r) 0x12 (s.credits r true)).wr (0x2120 + r) 0x13
    ((s.ring r).fawns.filter (fun p => s.herdState r p == 1)).length

/-! ## Measured cycles (R59, R60) -/

/-- A measured count above the effective figure raises it, with 0x6033, whose source carries lane and job in its two
bytes, and DECLX. -/
def Chip.measured (s : Chip) (job declared src count : Nat) : Chip :=
  if count > s.effective job declared then
    let s := { s with sched := { s.sched with raised := Map.write 0 s.sched.raised job count } }
    (s.flag 0x2100 0x05 6).post 0x6033 src
  else s

/-- DISABLED and FALLBACK (2E00:01): some image is disabled, and one of those is assigned to a port or the recorder (R410). -/
def Chip.showImages (s : Chip) : Chip :=
  let off (k : Nat) : Bool := s.rd (0x2E10 + k) 0x01 == 4
  (s.wrBit 0x2E00 0x01 3 ((List.range 32).any off)).wrBit 0x2E00 0x01 4 ((List.range 5).any (fun i => off (s.rd 0x2E00 (0x10 + i))))

/-- The faults in a row of an image are counted anew on every Tine (R410). -/
def Chip.forgetFaults (s : Chip) (k : Nat) : Chip :=
  (s.tines.map (·.1)).foldl (fun s t =>
    let x := Map.read {} s.tines t
    { s with tines := Map.write {} s.tines t { x with faults := Map.write 0 x.faults k 0 } }) s

/-- Counts measured for an image that is replaced are forgotten (R60): its slow jobs, the estimator of the lanes that run it, the
filters and the trigger program that are assigned to it. -/
def Chip.forgetCounts (s : Chip) (k : Nat) : Chip :=
  let lane (n : Nat) : Bool := n < 256 && n % 4 == 2 && (s.ringKernels (n / 16)).contains k
  let mine (n : Nat) : Bool := (1000 + 8 * k ≤ n && n < 1008 + 8 * k) || lane n ||
    (3000 ≤ n && n < 3004 && s.rd 0x2E00 (0x10 + (n - 3000)) == k) || (n == 3100 && s.rd 0x2E00 0x14 == k)
  { s with sched := { s.sched with raised := s.sched.raised.filter (fun (x : Nat × Nat) => !mine x.1) } }

end Sys2Proof.Machine
end

