-- ==== Sys2Proof/Machine/DieLink.lean ====
section
/-!
DEFINITION. Sys2Proof/Machine/DieLink.lean: the die link and the adopt handshake (R9–R13, R41, R382–R384).
-/

namespace Sys2Proof.Machine

/-- Bit of lane l in 6010:01: L0–L3 are bits 0–3. -/
def Chip.laneOut (s : Chip) (l : Nat) : Bool := s.rdBit 0x6010 0x01 l

def Chip.linkLost (s : Chip) : Bool := s.link.lostDown || s.link.lostUp

/-- A frame or keep-alive is checked for CRC; a lane out of use carries none (R9, R10). -/
def Chip.dieLinkFrame (s : Chip) (l : Nat) (ok : Bool) : Chip :=
  if s.laneOut l then s
  else
    let n := if ok then 0 else Map.read 0 s.link.failRun l + 1
    { s with link := { s.link with failRun := Map.write 0 s.link.failRun l n } }

/-- DIE_LINK_FRAME. -/
def execDieLinkFrame (lane : Fin 4) (crcOk : Bool) : State → Host.Outcome State Fault Refusal :=
  lift (fun s => s.dieLinkFrame lane crcOk)

/-- A lane with 16 failing frames in a row goes out of use (R10). -/
def Chip.dieLinkLaneOut (s : Chip) (l : Nat) : Chip :=
  if s.laneOut l || Map.read 0 s.link.failRun l < 16 then s
  else (s.wrBit 0x6010 0x01 l true).post 0x6020 l

/-- DIE_LINK_LANE_OUT. -/
def execDieLinkLaneOut (lane : Fin 4) : State → Host.Outcome State Fault Refusal := lift (·.dieLinkLaneOut lane)

/-- G and D count a disruption, and the adopt handshake starts anew (R13, R382). -/
def Adopt.disrupt (a : Adopt) : Adopt :=
  { a with g := (a.g + 1) % 65536, d := a.d + 1, status := 0, block := none, waited := false }

/-- The power die sees the compute die in reset or held in POR: it is held down, or no start has run yet (R11, R626). -/
def Chip.inReset (s : Chip) : Bool := !s.up || !s.power.started

/-- The watchdog declares link loss, unless the compute die is in reset (R11); a loss already declared goes on. -/
def Chip.linkLoss (s : Chip) (up : Bool) : Chip :=
  if s.inReset then s
  else
    let first := !s.linkLost
    let s := { s with link := { s.link with lostUp := s.link.lostUp || up, lostDown := s.link.lostDown || !up } }
    if first then
      (({ s with link := { s.link with lossTicks := 0 }, adopt := s.adopt.disrupt }).flag 0x6010 0x01 4).tripAssert 43
    else s

/-- LINK_LOSS. -/
def execLinkLoss (up : Bool) : State → Host.Outcome State Fault Refusal := lift (·.linkLoss up)

/-- The link restarts on all four lanes (R10, R41). -/
def Chip.linkRestart (s : Chip) : Chip :=
  { s.wr 0x6010 0x01 (setBits (s.rd 0x6010 0x01) 3 0 0) with link := {} }

/-- Recovery from a loss (R41). -/
def Chip.linkRecovery (s : Chip) : Chip :=
  if s.linkLost then
    let d := s.link.lossTicks
    ((s.linkRestart.inc 32 0x6010 0x02).post 0x6021 0 (le 4 d)).tripDeassert 43
  else s

/-- Does channel `k` match its saved command (R384)? -/
def Chip.chanMatches (s : Chip) (k : Nat) : Bool :=
  let c := s.ch k
  let saved := bit s.adopt.image.cmds k
  let mode := s.rd (0x2410 + k) 0x05
  c.cmd == saved &&
  (if mode == 1 || mode == 3 then c.state == .off || c.state == .idle || c.state.conducts
   else if saved then c.state.conducts || (mode == 2 && c.state == .idle)
   else c.state == .off)

/-- Is it explained by an entry of the change record (R384; log entry 21)? -/
def Chip.chanExplained (s : Chip) (k : Nat) : Bool := s.adopt.changes.any (fun x => x.chan == k)

/-- The first unexplained difference: a channel, 0x100 the generation, 0x101 the settings CRC, 0x102 an overflow of the
change record, 0xFF none (log entry 21). -/
def Chip.adoptDiff (s : Chip) : Nat :=
  if s.adopt.g ≠ (s.adopt.image.g + s.adopt.d) % 65536 then 0x100
  else if s.chanCrc ≠ s.adopt.image.crc then 0x101
  else if s.adopt.overflow then 0x102
  else ((List.range 16).find? (fun k => !(s.chanMatches k || s.chanExplained k))).getD 0xFF

/-- Is the adopt block consistent (R384)? -/
def Chip.adoptConsistent (s : Chip) : Bool :=
  (s.adopt.cold && (List.range 16).all (fun k => (s.ch k).state == .off)) || s.adoptDiff == 0xFF

/-- Steps 1 to 3 of R383: the block is read and compared; while the link is lost the adopt waits. -/
def Chip.adoptBlockRead (s : Chip) : Chip :=
  if s.up && !s.linkLost && s.adopt.status == 0 then
    let b : AdoptBlock := ⟨s.adopt.g, s.adopt.d, s.adopt.cold, s.chanCrc, s.adoptConsistent, s.adoptDiff⟩
    { s with adopt := { s.adopt with block := some b } }
  else s

/-- ADOPT_BLOCK_READ. -/
def execAdoptBlockRead : State → Host.Outcome State Fault Refusal := lift Chip.adoptBlockRead

/-- The completed handshake: G increments, D, COLD and the change record clear; opens-only mode as R384 says. -/
def Adopt.complete (a : Adopt) (b : AdoptBlock) : Adopt :=
  let opens := !b.consistent || (a.opensOnly && !a.clean)
  { a with g := (a.g + 1) % 65536, d := 0, cold := false, changes := [], overflow := false, block := none,
           opensOnly := opens, status := if opens then 2 else 1, clean := false }

/-- Step 4 of R383: completed only if G is unchanged. -/
def Chip.adoptWrite (s : Chip) : Chip :=
  match s.adopt.block with
  | none => s
  | some b =>
    if s.linkLost || !s.up then s
    else if b.g ≠ s.adopt.g then { s with adopt := { s.adopt with block := none } }
    else
      let s := { s with adopt := s.adopt.complete b }.saveImage
      let s := s.deliverTrips
      if b.consistent then
        s.post 0xA020 0 (le 2 s.adopt.g ++ le 2 (maskOf 16 (fun k => (s.ch k).state.conducts)))
      else (s.enterSafeHold 2).post 0xA021 0 (le 4 b.diff)

/-- ADOPT_WRITE. -/
def execAdoptWrite : State → Host.Outcome State Fault Refusal := lift Chip.adoptWrite

/-- The adopt wait of step 1 passes 5 ms with the link lost: 0xA005 with cause LINK, once (R383). -/
def Chip.adoptWaitTimeout (s : Chip) : Chip :=
  if s.linkLost && s.adopt.status == 0 && !s.adopt.waited then
    { s.post 0xA005 0 (le 1 3 ++ le 4 0) with adopt := { s.adopt with waited := true } }
  else s

/-- ADOPT_WAIT_TIMEOUT. -/
def execAdoptWaitTimeout : State → Host.Outcome State Fault Refusal := lift Chip.adoptWaitTimeout

end Sys2Proof.Machine
end

