-- ==== Sys2Proof/Machine/Interp.lean ====
section
/-!
DEFINITION. Sys2Proof/Machine/Interp.lean: bilinear interpolation in s and T (R245, R394), in binary32 and in the order
of the pseudocode of R394, and plain binary32 operators for the pseudocode of the chapters.
-/

namespace Sys2Proof.Machine

def fAdd (a b : F32) : F32 := (f32Add a b).val
def fSub (a b : F32) : F32 := (f32Sub a b).val
def fMul (a b : F32) : F32 := (f32Mul a b).val
def fDiv (a b : F32) : F32 := (f32Div a b).val
def fSqrt (a : F32) : F32 := (f32Sqrt a).val
def fExp (a : F32) : F32 := (f32Exp a).val
def fInt (i : Int) : F32 := (f32OfInt i).val
def fZero : F32 := 0#32
def fOne : F32 := 0x3F800000#32
def fMin (a b : F32) : F32 := if f32Lt a b then a else b
def fMax (a b : F32) : F32 := if f32Lt a b then b else a
def fClamp (x lo hi : F32) : F32 := fMin (fMax x lo) hi

/-- The nearest integer to a value, within bounds; 0 for a NaN. -/
def fRound (x : F32) (lo hi : Int) : Int :=
  match f32Val x with
  | .nan => max lo (min hi 0)
  | .inf s => if s then lo else hi
  | .fin s n d => max lo (min hi (signed s (roundDiv n d).1))

/-! ## The pseudocode of R394, with the sticky flags of its operations -/

/-- One operation, whose flags add to those of its operands. -/
def FRes.op (f : F32 → F32 → FRes) (a b : FRes) : FRes :=
  let r := f a.val b.val
  ⟨r.val, a.flags ||| b.flags ||| r.flags⟩

def exactly (x : F32) : FRes := ⟨x, 0⟩

/-- Index and fraction on a grid of n points of s in steps of h: the end segments for an infinite s / h. -/
def gridPosF (s h : F32) (n : Nat) : Nat × FRes :=
  let q := f32Div s h
  let i := match f32Val q.val with
    | .inf neg => if neg then 0 else n - 2
    | _ => (max 0 (min ((n : Int) - 2) (f32Floor q.val))).toNat
  (i, FRes.op f32Sub q (f32OfInt i))

/-- Index and weight on the temperature grid: the end values hold outside it. -/
def tempPosF (tg : Nat → F32) (t : F32) : Nat × FRes :=
  if f32Le t (tg 0) then (0, exactly fZero)
  else if f32Le (tg 7) t then (6, exactly fOne)
  else
    let j := ((List.range 7).reverse.find? (fun j => f32Le (tg j) t)).getD 0
    (j, FRes.op f32Div (f32Sub t (tg j)) (f32Sub (tg (j + 1)) (tg j)))

/-- Value at (s, T), and a1 − a0 of R394. -/
def bilinearF (tab : Nat → Nat → FRes) (pu pw : Nat × FRes) : FRes × FRes :=
  let (i, u) := pu
  let (j, w) := pw
  let mix (i : Nat) : FRes :=
    FRes.op f32Add (FRes.op f32Mul (tab i j) (FRes.op f32Sub (exactly fOne) w)) (FRes.op f32Mul (tab i (j + 1)) w)
  let a0 := mix i
  let d := FRes.op f32Sub (mix (i + 1)) a0
  (FRes.op f32Add a0 (FRes.op f32Mul u d), d)

/-- The same on values alone. -/
def gridPos (s h : F32) (n : Nat) : Nat × F32 :=
  let r := gridPosF s h n
  (r.1, r.2.val)

def tempPos (tg : Nat → F32) (t : F32) : Nat × F32 :=
  let r := tempPosF tg t
  (r.1, r.2.val)

def bilinear (tab : Nat → Nat → F32) (pu pw : Nat × F32) : F32 × F32 :=
  let r := bilinearF (fun i j => exactly (tab i j)) (pu.1, exactly pu.2) (pw.1, exactly pw.2)
  (r.1.val, r.2.val)

/-- 0.005 and 0.05. -/
def hOcv : F32 := f32OfFrac 1 200
def hPar : F32 := f32OfFrac 1 20

end Sys2Proof.Machine
end

