-- ==== Sys2Proof/Machine/RingLink.lean ====
section
/-!
DEFINITION. Sys2Proof/Machine/RingLink.lean: what a ring controller and its master ports send and receive in a tick
(R102–R106, R112, R122, R129–R133, R148–R151, R157–R164, R223).
-/

namespace Sys2Proof.Machine

/-! ## Sending (R56, R66, R79, R102, R105, R112, R129) -/

/-- The fawn of a half whose turn it is in this tick, and whether it is measured (R79). DESIGN CHOICE (log entry 128): with more than 16
fawns in a half those that share a tick out of 16 are measured in it in alternation. -/
def Chip.fawnTurn (s : Chip) (r : Nat) (up : Bool) : Option (Nat × Bool) :=
  let fs := (s.ring r).fawns.filter (fun p => s.isUp r p == up && s.hasPath r p)
  if s.rd 0x2100 0x03 ≥ 2 || fs.isEmpty then none
  else
    let t := s.ticks
    let due := (List.range fs.length).filter (fun j => j % 16 == t % 16)
    if due.isEmpty then some (fs.getD (t % fs.length) 0, false)
    else some (fs.getD (due.getD (t / 16 % due.length) 0) 0, true)

/-- Positions whose bits a port's SWEEP carries in this tick: every admitted one of the half (R103), and ALT positions every second
tick (R164). -/
def Chip.collected (s : Chip) (r : Nat) (up : Bool) : List Nat :=
  (s.sidePositions r up).filter (fun p => (!bit (s.hT r 1 p) 2 || p % 2 == s.ticks % 2))

/-- ADMIT of a SWEEP over the counts of its direction (R102, R136). -/
def Chip.admitMask (s : Chip) (r : Nat) (up : Bool) (ps : List Nat) : Nat :=
  maskOf 64 (fun c => ps.any (fun p => countOf (s.nOf r) up p == c))

/-- Are the bursts and exchanges of a side stopped (R164, R65)? -/
def Chip.noExtra (s : Chip) (r : Nat) (up : Bool) : Bool := if up then (s.ring r).noExtraB else (s.ring r).noExtraA

/-- The segments of an exchange, in order (R302, R307): without authentication IDENT alone. -/
def Chip.exchSegs (s : Chip) (r : Nat) : List Nat :=
  if bit (s.rd (0x2960 + r) 0x01) 1 then [0x0001, 0x0010, 0x0011, 0x0012, 0x0020, 0x0021, 0x0022] else [0x0001]

def Ring.exchOf (g : Ring) (p : Nat) : Exch := Map.read ⟨0, [], []⟩ g.exch p

/-- The segment to request next: the first that is neither answered nor under way, else POLL. -/
def Exch.next (x : Exch) (segs : List Nat) : Nat := (segs.find? (fun g => !x.got.any (fun a => a.1 == g) && g != x.asked)).getD 0x00FF

/-- The exchange slot as the master sends it: the next request segment (R104), CHAL with its nonce. -/
def Exch.slot (x : Exch) (segs : List Nat) : List Byte :=
  let g := x.next segs
  exchSlot g 0 (if g == 0x0020 then fit 32 x.nonce else [])

/-- The exchange that this tick's SWEEP of a side carries: the fawn's position. -/
def Chip.exchTurn (s : Chip) (r : Nat) (up : Bool) : Option Nat :=
  if s.noExtra r up then none else match s.fawnTurn r up with | some (p, false) => some p | _ => none

/-- Before CHAL is requested the supervisor draws the nonce (R305). -/
def Chip.drawNonce (s : Chip) (r : Nat) (up : Bool) : Chip :=
  match s.exchTurn r up with
  | none => s
  | some p =>
    let x := (s.ring r).exchOf p
    if x.next (s.exchSegs r) != 0x0020 then s
    else
      let (v, s) := s.draw
      s.setRing r { s.ring r with exch := Map.write ⟨0, [], []⟩ (s.ring r).exch p { x with nonce := be 32 v } }

/-- The segment sent is under way. -/
def Chip.exchAsked (s : Chip) (r : Nat) (up : Bool) : Chip :=
  match s.exchTurn r up with
  | none => s
  | some p =>
    let x := (s.ring r).exchOf p
    s.setRing r { s.ring r with exch := Map.write ⟨0, [], []⟩ (s.ring r).exch p { x with asked := x.next (s.exchSegs r) } }

/-- Burst entries of a side for the coming instant, position and element, as R66 staggers those of the block (R110). -/
def Chip.burstList (s : Chip) (r : Nat) (up : Bool) : List (Nat × Nat) :=
  if s.noExtra r up then []
  else ((s.burstsAt r (s.ticks + 1)).filter (fun x => (s.sidePositions r up).contains x.1)).take 64

/-- The SWEEP of this tick; every slot but that of an exchange is sent as zeros (R102, R104). -/
def Chip.sweepFrame (s : Chip) (r : Nat) (up : Bool) (nB : Nat) : Frame :=
  let turn := if s.noExtra r up then none else s.fawnTurn r up
  let ps := s.collected r up ++ (match turn with | some (p, true) => [p] | _ => [])
  let mask := s.admitMask r up ps
  let (exch, slot) := match s.exchTurn r up with
    | some p => (countOf (s.nOf r) up p, slotWithCrc (s.ticks % 65536) (((s.ring r).exchOf p).slot (s.exchSegs r)))
    | none => (0xFF, [])
  mkFrame 1 up 0xFF s.ticks 0 (be 8 mask ++ be 1 nB ++ be 1 exch ++ be 2 0 ++ zeros (48 * (popCount mask 64 + nB)) ++ slot)

/-- The SAMPLE for the next instant (R105, R106): it leaves behind the SWEEP, which starts at 10 µs (R129). -/
def Chip.sampleFrame (s : Chip) (r : Nat) (up : Bool) (sweep : Frame) (bs : List (Nat × Nat)) : Frame :=
  mkFrame 2 up 0xFF (s.ticks + 1) 0
    (be 6 s.nextEdge ++ be 6 (s.clk.edge + 10000 + frameNs sweep) ++ be 1 (if s.clk.step.isSome then 1 else 0) ++ be 1 bs.length ++
     be 2 0 ++ (bs.zipIdx).flatMap (fun x => be 2 (countOf (s.nOf r) up x.1.1 * 1024 + x.1.2 * 64 + x.2)))

/-- The DUTY of the staged duties of a side's KS16 (R112, R326). DESIGN CHOICE: its SEQ is the tick count (log entry 125). -/
def Chip.dutyFrame (s : Chip) (r : Nat) (up : Bool) : Frame :=
  let ps := (s.sidePositions r up).filter (s.isKs16 r)
  let cs := (List.range 64).filterMap (fun c => ps.find? (fun p => countOf (s.nOf r) up p == c))
  mkFrame 3 up 0xFF s.ticks 0
    (be 8 (s.admitMask r up ps) ++ cs.flatMap (fun p => (List.range 16).flatMap (fun e =>
      be 1 (Map.read 0 s.duty (r * 1024 + p * 16 + e)))))

/-- A frame of the sweep program goes to its port, `first` ahead of every request that has not begun (R396); an addressed request
takes a tag (R130). -/
def Chip.placeFrame (s : Chip) (r : Nat) (f : Frame) (first : Bool) : Ring :=
  let ahead (g : Frame) : Bool := g.type ≤ 3 || g.type == 9 || frameOpens g
  let g := (s.ring r).sendOn f.up (fun fs => if first then insertFrame ahead (max s.clk.off 10000) f 10000 fs else fs ++ [f])
  let p := countOf (s.nOf r) f.up f.hop
  if f.hop < 64 then { g with txs := g.txs ++ [⟨f.seq, ⟨f.type, p, f.payload, f.epoch, s.hT r 0 p, false, false, false⟩, 0⟩] } else g

/-- Requests of the sweep program that waited for a tag or for the addressed window leave ahead of the queue. -/
def Chip.sendHeld (s : Chip) (r : Nat) : Nat → Chip
  | 0 => s
  | n + 1 =>
    let g := s.ring r
    match g.held with
    | [] => s
    | f :: fs =>
      if 16 ≤ g.txs.length || !s.mayLeave r (frameNs f) then s
      else
        let s := s.setRing r { g with held := fs }
        (if s.adopt.safeHold && f.type == 6 && beAt f.payload 0 1 == 2 then s
         else (s.setRing r (s.placeFrame r f false)).noteInject r (countOf (s.nOf r) f.up f.hop) f.type f.payload).sendHeld r n

/-- Send queued requests while at most 16 are in flight (R130); `only` sends nothing but CTRL OPEN, which stand at the head. A request
to position 64 is a broadcast CTRL, sent on both ports without a transaction (R121). A CTRL CLOSE is refused under the SAFE-HOLD latch
(R36). An ASSIGN whose epoch completes a wrap waits until no transaction to its position is in flight (R148). After a stop of the
sweep program only requests queued before it and CTRL OPEN leave (R406). DESIGN CHOICE: the SEQ of a broadcast CTRL, which has no
transaction tag, is the tick count (log entry 125). -/
def Chip.sendReqs (s : Chip) (r : Nat) (only : Bool) : Nat → Chip
  | 0 => s
  | n + 1 =>
    let g := s.ring r
    match g.queue with
    | [] => s
    | q :: qs =>
      let rest := s.setRing r { g with queue := qs }
      if (only || g.limited && q.late) && !q.isOpen || !s.mayLeave r ((19 + q.payload.length) * 80) then s
      else if q.isClose && s.adopt.safeHold then rest.sendReqs r only n
      else if q.pos ≥ 64 then
        let f (up : Bool) := mkFrame q.type up 0xFF s.ticks 0 q.payload
        (s.setRing r { g with queue := qs, sentA := g.sentA ++ [f false],
                              sentB := if g.stopB then g.sentB else g.sentB ++ [f true] }).sendReqs r only n
      else if g.txs.length ≥ 16 || q.wraps && g.txs.any (fun t => t.req.pos == q.pos) then s
      else (rest.leave r q).sendReqs r only n

/-- What waits leaves: CTRL OPEN first, then what the sweep program has queued, then the requests in queue order (R129). -/
def Chip.sendWaiting (s : Chip) (r : Nat) : Chip := ((s.sendReqs r true 16).sendHeld r 16).sendReqs r false 16

/-- Does the ring controller sweep: a discovered ring that a string names (R137), the compute die and the ring's region running (R461), not
in SHUTDOWN? -/
def Chip.sweeps (s : Chip) (r : Nat) : Bool :=
  s.up && s.configured r && s.rd (0x6064 + r / 4) 0x01 == 0 && s.mode != .shutdown && s.mode != .boot &&
  (s.ringState r == 2 || s.ringState r == 3 || s.ringState r == 4)

/-- Requests go on as tags become free, once the frames of the tick have been sent (R129, R130). -/
def Chip.goOn (s : Chip) (r : Nat) : Chip :=
  let g := s.ring r
  if !s.up || s.mode == .shutdown || (s.sweeps r && !(g.sentA ++ g.sentB).any (fun f => f.type == 1)) then s
  else s.sendWaiting r

/-- SWEEP_SEND (R129): on each port SWEEP, SAMPLE and DUTY, then the requests in queue order. A sweep program that was
stopped sends only what was queued before and CTRL OPEN (R406); a ring that is not swept sends only requests. -/
def Chip.sweepSend (s : Chip) (r : Nat) : Chip :=
  if !s.up || s.mode == .shutdown then s
  else if (s.ring r).limited || !s.sweeps r then s.sendWaiting r
  else
    let s := (s.drawNonce r false).drawNonce r true
    let g := s.ring r
    let la := s.burstList r false
    let lb := s.burstList r true
    let wa := s.sweepFrame r false g.burstA.2.length
    let wb := s.sweepFrame r true g.burstB.2.length
    let fa := [wa, s.sampleFrame r false wa la, s.dutyFrame r false]
    let fb := if g.stopB then [] else [wb, s.sampleFrame r true wb lb, s.dutyFrame r true]
    let s := s.setRing r { g with sentA := g.sentA ++ fa, sentB := g.sentB ++ fb,
                                  burstA := (la.map (fun x => countOf (s.nOf r) false x.1), g.burstA.1),
                                  burstB := (lb.map (fun x => countOf (s.nOf r) true x.1), g.burstB.1),
                                  sweptA := g.burstA.2, sweptB := g.burstB.2
                                  dueA := maskOf 64 (fun p => (s.collected r false).contains p)
                                  dueB := if g.stopB then 0 else maskOf 64 (fun p => (s.collected r true).contains p) }
    let s := (s.exchAsked r false)
    let s := if g.stopB then s else s.exchAsked r true
    s.sendWaiting r

def execSweepSend (r : RingNo) : State → Host.Outcome State Fault Refusal := lift (·.sweepSend r)

/-! ## Slots (R131, R151, R159, R175) -/

/-- Bits of a status word: EPOCH4 and STYPE agree with the herd table (R151). -/
def Chip.slotMatches (s : Chip) (r p st : Nat) : Bool :=
  bits st 31 28 == s.hT r 2 p % 16 && bits st 27 26 == (if s.herdType r p == 2 then 1 else 0)

/-- Contacts of a string as its KH2 slot shows them: a feedback closed for the contact time with its coil off is a weld
(R343), one that carries current in both paths (R355); with both coils off an opening ends, that of an emergency once the current is below
2500:14 too (R333), and a string that was CLOSED has been opened by its head, without a ramp (log entry 24). -/
def Chip.contactsSeen (s : Chip) (n : Nat) (w : Nat) : Chip :=
  let x := s.st n
  let ms (k old : Nat) : Nat := if !bit w (4 + k) && bit w k then old + s.clk.p else 0
  let x := { x with offMs0 := ms 0 x.offMs0, offMs1 := ms 1 x.offMs1 }
  let s := s.setSt n x
  let late (m : Nat) : Bool := decide (s.rd 0x2500 0x16 ≤ m) && m != 0
  let low := decide ((s.strI n).natAbs < s.rd 0x2500 0x14)
  if x.sw == .welded then
    if bits w 5 4 == 0 then
      let both := x.weldBoth || (bits w 1 0 == 3 && s.carries n)
      (s.setSt n { x with weldBoth := both, emergency := x.emergency && !low, toOpen := false, ordered := false }).settleRamp
    else s
  else if late x.offMs0 || late x.offMs1 then s.weldByFeedback n (late x.offMs0) (late x.offMs1)
  else
  if bits w 5 4 == 0 && bits w 1 0 == 0 then
    match x.sw with
    | .opening => if x.emergency && !low then s else s.confirmOpen n
    | .closed | .ramping => ((s.wearString n 3 true true).flag 0x2500 0x1B 6).confirmOpen n
    | _ => if x.emergency && low then s.setSt n { x with emergency := false } else s
  else s

/-- What a KH2 slot brings for its string: the local opening it reports, its contacts, and the current and voltage before
any opening (R219, R339). -/
def Chip.headSlotIn (s : Chip) (r p st : Nat) (b : List Byte) : Chip :=
  let s := if (s.slice (r * 64 + p)).localOpen && bit st 17 then
      (s.onSlice r p (fun x => { x with localOpen := false })).post 0x3009 r (le 1 p)
    else s
  match s.stringOf r p with
  | none => s
  | some n =>
    let s := s.contactsSeen n (beAt b 12 2)
    if bit st 22 then s else s.setSt n { s.st n with lastI := toInt 32 (beAt b 0 4), lastV := toInt 32 (beAt b 4 4) }

/-- Accept the regular slot of position `p`: the first valid copy of a tick (R159). -/
def Chip.acceptSlot (s : Chip) (r p seq : Nat) (b : List Byte) : Chip :=
  let st := slotStatus b
  if !s.slotMatches r p st then
    (s.inc 32 (0x3000 + r) 0x0A).post 0x1005 r (le 1 p ++ le 2 (s.hT r 2 p) ++ le 2 (bits st 31 28))
  else if (s.ring r).got.getLsbD p then s
  else
    let s := s.setRing r { s.ring r with got := (s.ring r).got ||| BitVec.twoPow 64 p,
                                         missing := Map.write 0 (s.ring r).missing p 0 }
    let old := Map.read {} s.slotData (r * 64 + p)
    let x : SlotRec := { bytes := b, seq := seq, untimed := bit st 21, last := old.bytes, lastSeq := old.seq, prev := old.prev }
    let s := { s with slotData := Map.write {} s.slotData (r * 64 + p) x }
    let s := s.setHT r 1 p (putBit (s.hT r 1 p) 3 (bit st 16))
    let s := if bit st 21 || bit st 20 then s.post 0x1008 r (le 1 p ++ le 4 st) else s
    if s.herdType r p == 2 then s.headSlotIn r p st b else s

/-- A slot of a SWEEP payload: its 48 bytes where all of them arrived. -/
def slotOf (pl : List Byte) (i : Nat) : Option (List Byte) :=
  let b := (pl.drop (slotOff i)).take 48
  if b.length == 48 then some b else none

/-- A failing slot CRC (R131). -/
def Chip.slotCrcError (s : Chip) (r : Nat) (up : Bool) (i : Nat) : Chip :=
  (s.inc 32 (0x3000 + r) 0x07).post 0x1003 r (le 1 (if up then 1 else 0) ++ le 4 i)

/-- Regular slots: index and count, over the counts the frame has reached. -/
def Chip.regularSlots (s : Chip) (r : Nat) (f : Frame) (reached : Nat) : Chip :=
  let cs := bitsSet 64 (beAt f.payload 0 8)
  (cs.zipIdx).foldl (fun s x =>
    if x.1 ≥ reached then s
    else match slotOf f.payload x.2 with
      | none => s
      | some b =>
        if slotCrcOk f.seq b then s.acceptSlot r (countOf (s.nOf r) f.up x.1) f.seq (b.take 44)
        else s.slotCrcError r f.up x.2) s

/-- Burst slots: by the count and element they carry; a slice with SMISS or TSYNC has its bursts discarded (R175). A frame that has
come back brings those of the counts it has reached (R159). -/
def Chip.burstSlots (s : Chip) (r : Nat) (f : Frame) (reached : Nat) : Chip :=
  let nReg := popCount (beAt f.payload 0 8) 64
  let named := if f.up then (s.ring r).sweptB else (s.ring r).sweptA
  (List.range (beAt f.payload 8 1)).foldl (fun s i =>
    if reached ≤ named.getD i 0 then s
    else match slotOf f.payload (nReg + i) with
    | none => s
    | some b =>
      if !slotCrcOk f.seq b then s.slotCrcError r f.up (nReg + i)
      else
        let p := countOf (s.nOf r) f.up (beAt b 32 1)
        let st := slotStatus b
        if bit st 21 || bit st 20 then
          s.post 0x200D r (le 1 p ++ le 1 ((if bit st 21 then 1 else 0) + (if bit st 20 then 2 else 0)))
        else { s with burstData := Map.insert ((r * 64 + p) * 16 + beAt b 33 1 % 16) (b.take 44) s.burstData }) s

/-- The exchange slot of a returned SWEEP (R104, R131, R307), where the frame has reached the fawn it names: the answer to an earlier
segment, or BUSY, which makes the master ask again. A slot that the fawn has left as it was sent is no answer. -/
def Chip.exchangeSlot (s : Chip) (r : Nat) (f : Frame) (reached : Nat) : Chip :=
  let c := beAt f.payload 9 1
  let i := popCount (beAt f.payload 0 8) 64 + beAt f.payload 8 1
  if c == 0xFF || reached ≤ c then s
  else match slotOf f.payload i with
    | none => s
    | some b =>
      let p := countOf (s.nOf r) f.up c
      let x := (s.ring r).exchOf p
      if !slotCrcOk f.seq b then s.slotCrcError r f.up i
      else if b.take 44 == exchSlot x.asked 0 (if x.asked == 0x0020 then fit 32 x.nonce else []) then s
      else
        let x := if bit (beAt b 2 1) 7 then { x with asked := 0 }
          else { x with got := Map.insert (beAt b 0 2) ((b.drop 4).take (beAt b 3 1)) x.got }
        s.setRing r { s.ring r with exch := Map.write ⟨0, [], []⟩ (s.ring r).exch p x }

/-! ## Responses (R130, R149, R150) -/

/-- Hand a response to its issuer and release its tag. -/
def Chip.finishTx (s : Chip) (r tag st : Nat) (pl : List Byte) : Chip :=
  s.setRing r { s.ring r with txs := (s.ring r).txs.filter (fun t => t.tag != tag),
                              resps := ((s.ring r).resps ++ [(tag, st, pl)]).reverse.take 16 |>.reverse }

/-- Re-resolve after STALE_ROLE by the first case of R150 that applies. -/
def Chip.staleRole (s : Chip) (r : Nat) (t : Tx) (epoch : Nat) (pl : List Byte) : Chip :=
  let p := t.req.pos
  let s := (s.inc 32 (0x3000 + r) 0x0A).post 0x1005 r (le 1 p ++ le 2 t.req.epoch ++ le 2 epoch)
  let now := s.hT r 2 p
  let same := s.hT r 0 p == t.req.serial
  let s' := s.finishTx r t.tag rSTALE pl
  if now != t.req.epoch && same && !t.req.again then
    let q := { t.req with epoch := now, again := true }
    (s.setRing r { s.ring r with txs := (s.ring r).txs.filter (fun x => x.tag != t.tag) }).queueFirst r q
  else if s.herdState r p == 0 || s.herdState r p == 3 || s.herdState r p == 4 || !same then s'
  else if epoch == 0 then (s'.restartSeen r p).reenumerate r p
  else if epoch != now then s'.reenumerate r p
  else s'

/-- What the ring controller itself does with a response: a READ of STACK is kept for the slice under test (R201). -/
def Chip.keepStack (s : Chip) (r : Nat) (t : Tx) (pl : List Byte) : Chip :=
  if t.req.type == 4 && beAt t.req.payload 0 2 == 0x24 then
    let k := r * 64 + t.req.pos
    { s with suspects := Map.write {} s.suspects k { Map.read {} s.suspects k with stack := beAt pl 4 4 } }
  else s

/-- The answer to the UNFOLD of a probe (R169). -/
def Chip.probeAnswer (s : Chip) (r : Nat) (t : Tx) (st : Nat) : Chip :=
  match (s.ring r).brk with
  | some (a, _) =>
    if t.req.type == 6 && beAt t.req.payload 0 1 == 4 && t.req.pos + 1 == a then s.setRing r { s.ring r with unfoldOk := st == rOK } else s
  | none => s

/-- A response frame. -/
def Chip.response (s : Chip) (r : Nat) (f : Frame) : Chip :=
  match (s.ring r).txs.find? (fun t => t.tag == f.seq) with
  | none => s
  | some t =>
    let s := s.probeAnswer r t f.status
    let s := if f.status == rSTALE then s.staleRole r t f.epoch f.payload
      else if f.status == rOK then (s.finishTx r t.tag rOK f.payload).keepStack r t f.payload
      else (s.finishTx r t.tag f.status f.payload).post 0x1009 r (le 1 t.req.pos ++ le 1 f.type ++ le 1 f.status)
    s.goOn r

/-! ## Breaks and re-collection (R157–R163) -/

/-- The moment a port can start its next re-collection frame (R162, R163; log entry 25). -/
def Chip.tFree (s : Chip) (r : Nat) (up : Bool) : Nat :=
  freeAt beforeRec s.clk.off 10000 (if up then (s.ring r).sentB else (s.ring r).sentA)

/-- Is the slot of position `p` still on its way in a SWEEP of this tick, or asked for again already? -/
def Chip.slotDue (s : Chip) (r p : Nat) : Bool :=
  let g := s.ring r
  bit g.dueA p && s.reachA r p || bit g.dueB p && s.reachB r p || (g.recA ++ g.recB).any (bit · p)

/-- Send a recovery SWEEP where the budget of R163 allows: the positions of a side that are missing, which no frame under way brings.
The ASSIGNs of R160 of the port have been sent before it and count in `tFree`. A stopped sweep program sends none (R406). -/
def Chip.recover (s : Chip) (r : Nat) (up : Bool) : Chip :=
  let ps := (s.sidePositions r up).filter (fun p =>
    (if up then s.reachB r p else s.reachA r p) && !(s.ring r).got.getLsbD p && !s.slotDue r p)
  let far := if up then ps.headD 0 else ps.reverse.headD 0
  let t := s.tFree r up + 2480 + 3840 * ps.length + s.roundTrip r far up
  if ps.isEmpty || (s.ring r).limited || t > s.periodNs / 4 then s
  else
    let f := mkFrame 1 up 0xFF s.ticks 0 (be 8 (s.admitMask r up ps) ++ be 1 0 ++ be 1 0xFF ++ be 2 0 ++ zeros (48 * ps.length))
    let s := s.recollect r f
    let want := maskOf 64 (fun p => ps.contains p)
    s.setRing r (if up then { s.ring r with recB := (s.ring r).recB ++ [want] } else { s.ring r with recA := (s.ring r).recA ++ [want] })

/-- In the tick in which a break is found its missing positions are asked for again. -/
def Chip.recoverAll (s : Chip) (r : Nat) : Chip := if (s.ring r).brkNew then (s.recover r false).recover r true else s

/-- A break found at new counts. -/
def Chip.foundBreak (s : Chip) (r a b : Nat) : Chip :=
  if (s.ring r).brk == some (a, b) then s else (s.setBreak r a b).recoverAll r

/-- A frame that came back folded on its own port has reached POS slices (R158). -/
def Chip.foldReturn (s : Chip) (r : Nat) (f : Frame) : Chip :=
  let s := s.flag (0x3000 + r) 0x01 3
  let n := s.nOf r
  match (s.ring r).brk with
  | none => if f.up then s.foundBreak r (n - f.pos) f.pos else s.foundBreak r f.pos (n - f.pos)
  | some (a, b) => if f.up then s.foundBreak r a f.pos else s.foundBreak r f.pos b

/-- A SWEEP of a port is back or has stopped: a recovery SWEEP, with 0x1017 where every position it asked for has come (R163), or the
regular one of the tick, after which the slots it did not bring are missing. -/
def Chip.sweepBack (s : Chip) (r : Nat) (f : Frame) : Chip :=
  let g := s.ring r
  match (if f.up then g.recB else g.recA).find? (fun want => beAt f.payload 0 8 == s.admitMask r f.up (bitsSet 64 want)) with
  | some want =>
    let s := s.setRing r (if f.up then { g with recB := g.recB.erase want } else { g with recA := g.recA.erase want })
    if (bitsSet 64 want).all (fun p => g.got.getLsbD p) then s.post 0x1017 r (leList 1 (bitsSet 64 want)) else s
  | none => (s.setRing r (if f.up then { g with dueB := 0 } else { g with dueA := 0 })).recoverAll r

/-- A frame that stops before its end shows a break, which is counted at once and recorded when its place is known (R157; log entry
126). -/
def Chip.frameStopped (s : Chip) (r : Nat) : Chip :=
  if (s.ring r).brk.isSome || (s.ring r).brkSeen then s
  else (s.setRing r { s.ring r with brkSeen := true }).inc 32 (0x3107 + 16 * r) 0x07

/-- FRAME_RETURN (R131): a frame comes back at a master port. One that stops before its end, be it inside its header, shows a break
(R157) whose place the next folded frame gives; its slots count (R159). -/
def Chip.frameReturn (s : Chip) (r : Nat) (port : Side) (f : Frame) (complete : Bool) : Chip :=
  let pb := if port = .b then 1 else 0
  if !f.hcrcOk then
    if complete then (s.inc 32 (0x3000 + r) (0x03 + pb)).post 0x1001 r (le 4 pb ++ le 1 f.type) else s.frameStopped r
  else
    let s := if !f.fcrcOk && complete then
        (s.inc 32 (0x3000 + r) (0x05 + pb)).post 0x1002 r (le 4 pb ++ le 1 f.type ++ le 2 f.seq)
      else s
    let folded := f.fold && (if f.up then port == .b else port == .a)
    let s := if f.type == 1 then
        let n := if f.fold then f.pos else s.nOf r
        let s := ((s.regularSlots r f n).burstSlots r f n).exchangeSlot r f n
        s.sweepBack r f
      else if f.resp && complete && f.fcrcOk then s.response r f
      else s
    if folded then s.foldReturn r f
    else if complete then (if f.type == 1 then s.setRing r { s.ring r with brkSeen := false } else s)
    else s.frameStopped r

def execFrameReturn (r : RingNo) (port : Side) (f : Frame) (complete : Bool) : State → Host.Outcome State Fault Refusal :=
  lift (·.frameReturn r port f complete)

/-- MASTER_PORT_LOCK_LOSS (R157): 0x1006, and that port reaches nothing. -/
def Chip.masterPortLockLoss (s : Chip) (r : Nat) (side : Side) : Chip :=
  let s := (s.portLock r side false).post 0x1006 r (le 4 (if side = .b then 1 else 0))
  let n := s.nOf r
  if n == 0 || s.ringState r == 0 || s.ringState r == 1 || s.ringState r == 5 then s
  else
    let (a, b) := s.reach r
    match side with
    | .a => s.foundBreak r 0 (if (s.ring r).brk.isSome then b else n)
    | .b => s.foundBreak r (if (s.ring r).brk.isSome then a else n) 0

def execMasterPortLockLoss (r : RingNo) (side : Side) : State → Host.Outcome State Fault Refusal :=
  lift (·.masterPortLockLoss r side)

/-- TRANSACTION_TIMEOUT (R130): a request older than 300n:09 ticks; the tag is released. -/
def Chip.transactionTimeout (s : Chip) (r tag : Nat) : Chip :=
  match (s.ring r).txs.find? (fun t => t.tag == tag) with
  | none => s
  | some t =>
    if t.age < s.rd (0x3000 + r) 0x09 then s
    else ((s.setRing r { s.ring r with txs := (s.ring r).txs.filter (fun x => x.tag != tag) }).post 0x1004 r
      (le 2 tag ++ le 1 t.req.pos)).goOn r

def execTransactionTimeout (r : RingNo) (tag : BitVec 16) : State → Host.Outcome State Fault Refusal :=
  lift (·.transactionTimeout r tag.toNat)

/-! ## OPEN-ALL at the master (R122, R223) -/

/-- OPEN_ALL_REPEAT (R122): while OPEN-ALL stays asserted the burst is repeated. DESIGN CHOICE: a repeat counts and is not recorded as
another 0x1007 (R133; log entry 161). -/
def Chip.openAllRepeat (s : Chip) (r : Nat) : Chip :=
  if bit s.trip.rings r && s.powered then (s.flag (0x3000 + r) 0x01 4).inc 32 (0x3000 + r) 0x08 else s

def execOpenAllRepeat (r : RingNo) : State → Host.Outcome State Fault Refusal := lift (·.openAllRepeat r)

/-- OAFAIL (R223): an ordered OPEN-ALL without acknowledge at 2 µs asserts source 46. -/
def execOafail (r : RingNo) : State → Host.Outcome State Fault Refusal :=
  lift (fun s => if bit s.trip.rings r then s.tripAssert 46 else s)

end Sys2Proof.Machine
end

