-- ==== Sys2Proof/Machine/Measure.lean ====
section
/-!
DEFINITION. Sys2Proof/Machine/Measure.lean: the section front end and the housekeeping measurements at a tick edge, and
the classification of sense taps and channels (05_measurement, R172–R206).
-/

namespace Sys2Proof.Machine

/-! ## The section front end (R184–R194) -/

def satHi : Nat := 0x7FFFFFFF
def satLo : Nat := 0x80000001
def unusedCode : Nat := 0x80000000

/-- A reading in its range, or the saturated code of int32 (R188). -/
def frontCode (v lim : Int) : Nat := if v > lim then satHi else if v < -lim then satLo else ofInt 32 v

/-- A current that is neither saturated nor unused (R251). -/
def usableCode (v : Nat) : Bool := v != satHi && v != satLo && v != unusedCode

/-- An int32 that saturates into the codes of R188. -/
def satCode (v : Int) : Nat := if v ≥ (satHi : Int) then satHi else if v ≤ -(satHi : Int) then satLo else ofInt 32 v

/-- Entry into and end of a range violation (R188): event 0x2007 once for each entry, OVR for CSA, CSB, HLA, HLB. -/
def Chip.overRange (s : Chip) (k code : Nat) : Chip :=
  let out := code == satHi || code == satLo
  let was := bit s.front.overs k
  let s := { s with front := { s.front with overs := putBit s.front.overs k out } }
  let s := if out && k < 4 then s.flag 0x3300 0x63 k else s
  if out && !was then s.post 0x2007 0 (le 4 k ++ le 4 code) else s

/-- (a · b) rounded half up for b = 1 / d. -/
def divNear (n : Int) (d : Nat) : Int := (2 * n + d) / (2 * (d : Int))

/-- 10⁸ × (1 + α × (T − 25 °C)) of a shunt's temperature source, ppm/K and 0.01 °C (R185). DESIGN CHOICE: a source that reads 0x8000
counts as none (log entry 149). -/
def Chip.shuntFactor (s : Chip) (i : Nat) : Int :=
  let src := s.rd 0x3300 (0x0F + i)
  let t := s.rd 0x3300 (0x38 + src)
  if src < 8 && t != 0x8000 then 100000000 + s.rdI 16 0x3300 (0x0D + i) * (toInt 16 t - 2500) else 100000000

/-- Shunt current (R185): V × 1,000 / (Rsh × (1 + α × (T − 25 °C))), mA from nV and nΩ. A factor of 0 has no stated result: `free` (log
entry 149). -/
def Chip.shuntCurrent (s : Chip) (i free : Nat) : Nat :=
  let v := s.rd 0x3300 (0x01 + i)
  let rsh := s.rd 0x3300 (0x0B + i)
  let f := s.shuntFactor i
  if rsh == 0 then unusedCode
  else if v == satHi || v == satLo then v
  else if f == 0 then free % 2 ^ 32
  else satCode (divNear (toInt 32 v * 100000000000 * f.sign) (rsh * f.natAbs))

/-- Hall current (R186): (V − Voff) × G, in binary32 for G. -/
def Chip.hallCurrent (s : Chip) (i : Nat) : Nat :=
  let v := s.rd 0x3300 (0x03 + i)
  if v == satHi || v == satLo then v
  else satCode (fRound (fMul (fInt (toInt 32 v - s.rdI 32 0x3300 (0x13 + i))) (BitVec.ofNat 32 (s.rd 0x3300 (0x11 + i))))
    (-2147483647) 2147483647)

/-- Current of source `i`: 0 CSA, 1 CSB, 2 HLA, 3 HLB. -/
def Chip.sourceIn (s : Chip) (i : Nat) : Chip :=
  let (free, s) := if i < 2 && s.shuntFactor i == 0 then s.draw else (0, s)
  s.wr 0x3300 (0x05 + i) (if i < 2 then s.shuntCurrent i free else s.hallCurrent (i - 2))

/-- Is R(t) ≥ r by the β equation, with t = (2c − 1) / 200 °C (R194)? -/
def betaAbove (r r0 beta : Nat) (c : Int) : Bool :=
  let t := (54630 + 2 * c - 1).toNat
  let num : Int := 200 * (beta : Int) * (59630 - t)
  let e := expAbs num.natAbs (t * 59630)
  if 0 ≤ num then decide (r * 2 ^ 120 ≤ r0 * e) else decide (r * e ≤ r0 * 2 ^ 120)

/-- Greatest c in [lo, lo + 2^n) at which R is still at or above r. -/
def betaSearch (r r0 beta : Nat) : Nat → Int → Int
  | 0, lo => lo
  | n + 1, lo => if betaAbove r r0 beta (lo + 2 ^ n) then betaSearch r r0 beta n (lo + 2 ^ n) else betaSearch r r0 beta n lo

/-- Temperature of a thermistor to the nearest 0.01 °C; an open or a short is none with 0 or 1 (R194). Above the
resistance at −50 °C: open; below that at +160 °C: short. A reference or β of 0 gives no temperature and reads as open
(log entry 40). -/
def thermistor (r r0 beta : Nat) : Except Nat Int :=
  if r0 == 0 || beta == 0 then .error 0
  else
    let at_ (c2 : Nat) (r : Nat) : Bool × Bool :=
      -- r above, r below R at temperature c2 / 200 K
      let num : Int := 200 * (beta : Int) * (59630 - c2)
      let e := expAbs num.natAbs (c2 * 59630)
      if 0 ≤ num then (decide (r0 * e < r * 2 ^ 120), decide (r * 2 ^ 120 < r0 * e))
      else (decide (r0 * 2 ^ 120 < r * e), decide (r * e < r0 * 2 ^ 120))
    if (at_ (54630 - 10000) r).1 then .error 0
    else if (at_ (54630 + 32000) r).2 then .error 1
    else .ok (min 16000 (betaSearch r r0 beta 15 (-5000)))

/-- One thermistor channel. -/
def Chip.thermistorIn (s : Chip) (i r : Nat) : Chip :=
  let was := (s.rdBit 0x3300 0x63 (16 + i), s.rdBit 0x3300 0x63 (24 + i))
  match thermistor r (s.rd 0x3300 (0x40 + i)) (s.rd 0x3300 (0x48 + i)) with
  | .ok t => ((s.wrI 16 0x3300 (0x38 + i) t).wrBit 0x3300 0x63 (16 + i) false).wrBit 0x3300 0x63 (24 + i) false
  | .error k =>
    let s := ((s.wr 0x3300 (0x38 + i) 0x8000).wrBit 0x3300 0x63 (16 + i) (k == 0)).wrBit 0x3300 0x63 (24 + i) (k == 1)
    if was == (k == 0, k == 1) then s else s.post 0x200B 0 (le 4 i ++ le 4 r)

/-- One HV channel (R188, R189): the bus voltage; an open divider holds 0x80000000, and in the tick of the divider test
the previous value stands. -/
def Chip.hvIn (s : Chip) (i : Nat) (uv : Int) : Chip :=
  if s.front.hvTest == s.ticks + 1 || s.rdBit 0x3300 0x63 (8 + i) then s
  else
    let c := if uv > 1250000 then satHi else if uv < -1250000 then satLo
      else satCode (divNear (uv * s.rd 0x3300 (0x20 + i)) 1000000)
    (s.wr 0x3300 (0x18 + i) c).overRange (4 + i) c

/-- The section current in use of the primary and secondary sources, and the run of their disagreement (R187). DESIGN CHOICE: the
relative tolerance is of the larger magnitude, and an unusable source does not disagree (log entry 150). -/
def Chip.sectionCurrents (s : Chip) : Chip :=
  let src := s.rd 0x3300 0x15
  let p := s.rd 0x3300 (0x05 + bits src 3 0)
  let q := s.rd 0x3300 (0x05 + bits src 7 4)
  let s := (s.wr 0x3300 0x09 p).wr 0x3300 0x0A q
  let (pi, qi) := (toInt 32 p, toInt 32 q)
  let tol := max (s.rd 0x3300 0x16 * max pi.natAbs qi.natAbs) (s.rd 0x3300 0x17 * 10000)
  let f := s.front
  if usableCode p && usableCode q && decide (10000 * (pi - qi).natAbs > tol) then
    { s with front := { f with disagree := f.disagree + 1 } }
  else { s with front := { f with disagree := 0, disSaid := false } }

/-- Supplies and die temperatures (R583). -/
def Chip.housekeeping (s : Chip) (x : FrontEnd) : Chip :=
  let s := (s.wrI 16 0x6020 0x01 x.cdTemp).wrI 16 0x6020 0x02 x.pdTemp
  let s := (List.range 5).foldl (fun s i => s.wr 0x6020 (0x03 + i) (min 65535 (x.supply.getD i 0))) s
  let s := s.wrI 16 0x6020 0x08 (max (s.rdI 16 0x6020 0x08) x.cdTemp)
  let s := s.wrI 16 0x6020 0x09 (max (s.rdI 16 0x6020 0x09) x.pdTemp)
  let hot := s.front.hotMs + (if x.cdTemp > 10500 || x.pdTemp > 10500 then s.clk.p else 0)
  if hot ≥ 3600000 then ({ s with front := { s.front with hotMs := hot - 3600000 } }).inc 32 0x6020 0x0A
  else { s with front := { s.front with hotMs := hot } }

/-- Channel `k`'s measurements (R380, R385): output current and voltage; in ON with at least 1 A the on-resistance of the
active segment, whose run above the threshold the spare manager looks at (R443); 20 mA end an open load (R379). -/
def Chip.channelIn (s : Chip) (x : FrontEnd) (k : Nat) : Chip :=
  let ma := x.outMa.getD k 0
  let s := (s.wr (0x2410 + k) 0x0C (ma % 2 ^ 32)).wr (0x2410 + k) 0x0D (min 65535 (x.outMv.getD k 0))
  let s := if ma ≥ 20 then s.wrBit (0x2410 + k) 0x0F 8 false else s
  if (s.ch k).state == .on && decide (ma ≥ 1000) then
    let r := min 65535 (x.segR.getD k 0)
    let s := s.wr (0x2410 + k) 0x11 r
    let above := decide (1000 * r > Config.fetRef k * s.rd 0x2A00 0x13)
    s.setCh k { s.ch k with fetRun := if above then (s.ch k).fetRun + 1 else 0 }
  else s

/-- SAMPLE_INSTANT (R172). -/
def Chip.sampleInstant (s : Chip) (x : FrontEnd) : Chip :=
  let s := (List.range 2).foldl (fun s i =>
    let c := frontCode (x.shunt.getD i 0) 75000000
    (s.wr 0x3300 (0x01 + i) c).overRange i c) s
  let s := (List.range 2).foldl (fun s i =>
    let c := frontCode (x.hall.getD i 0) 4000000
    (s.wr 0x3300 (0x03 + i) c).overRange (2 + i) c) s
  let s := (List.range 8).foldl (fun s i => s.thermistorIn i (x.th.getD i 0)) s
  let s := (List.range 4).foldl Chip.sourceIn s
  let s := s.sectionCurrents
  let old := (List.range 8).map (fun i => s.rd 0x3300 (0x18 + i))
  let s := { s with front := { s.front with hvPrev := old, hvAt := s.ticks + 1 } }
  let s := (List.range 8).foldl (fun s i => s.hvIn i (x.hv.getD i 0)) s
  let s := s.housekeeping x
  let s := (List.range 4).foldl (fun s g =>
    ((s.setGrp g { s.grp g with fell := false }).wr (0x2404 + g) 0x01 (min 65535 (x.groupMv.getD g 0))).wrI 16 (0x2404 + g) 0x02
      (x.groupT.getD g 0)) s
  let s := (List.range 16).foldl (fun s k => s.channelIn x k) s
  let on := s.rd 0x3300 0x62
  let n := s.rd 0x3300 0x51
  let bs := (List.range 4).map (fun i => if bit on i then (x.bursts.getD i []).take n else [])
  { s with front := { s.front with bursts := s.front.burstsNew, burstsNew := bs } }

def execSampleInstant (x : FrontEnd) : State → Host.Outcome State Fault Refusal := lift (·.sampleInstant x)

/-- SOURCE_DISAGREEMENT (R187): 10 consecutive ticks beyond the tolerance, recorded once while it lasts. -/
def execSourceDisagreement : State → Host.Outcome State Fault Refusal :=
  lift (fun s =>
    if s.front.disagree ≥ 10 && !s.front.disSaid then
      let s := (s.flag 0x3300 0x63 5).post 0x2006 0 (le 4 (s.rd 0x3300 0x09) ++ le 4 (s.rd 0x3300 0x0A))
      { s with front := { s.front with disSaid := true } }
    else s)

/-- HV_DIVIDER_TEST (R189): shifts in µV. The tick's values are discarded; an open divider reads 0x80000000 until a test
finds it closed again (log entry 41). -/
def Chip.hvDividerTest (s : Chip) (shifts : List Int) : Chip :=
  let s := if s.front.hvAt == s.ticks + 1 then
      (List.range 8).foldl (fun s i => s.wr 0x3300 (0x18 + i) (s.front.hvPrev.getD i 0)) s
    else s
  let s := { s with front := { s.front with hvTest := s.ticks + 1 } }
  (List.range 8).foldl (fun s i =>
    let d := shifts.getD i 0
    if d < 2000 then
      let was := s.rdBit 0x3300 0x63 (8 + i)
      let s := (s.wr 0x3300 (0x18 + i) unusedCode).wrBit 0x3300 0x63 (8 + i) true
      if was then s else s.post 0x200C 0 (le 4 i ++ le 4 (ofInt 32 d))
    else s.wrBit 0x3300 0x63 (8 + i) false) s

def execHvDividerTest (shifts : List Int) : State → Host.Outcome State Fault Refusal := lift (·.hvDividerTest shifts)

/-- Does the channel of bus `b` (0 IMA, 1 IMB) hold its pin at high impedance (R191): the buses are connected, and the other channel
measures in this period? -/
def Chip.imHighZ (s : Chip) (b : Nat) : Bool := s.rd 0x3300 0x37 == 1 && (b == 1) != s.front.imB

/-- The end of a period: with the buses connected the channels take turns (R191). -/
def Chip.imTurn (s : Chip) : Chip :=
  if s.rd 0x3300 0x37 == 1 then { s with front := { s.front with imB := !s.front.imB } } else s

/-- A result of a measuring channel (R190, R192, R193). -/
def Chip.insulationIn (s : Chip) (b : Nat) (result : Option Nat) : Chip :=
  let f := s.front
  match result with
  | none =>
    let n := Map.read 0 f.invalid b + 1
    let s := ({ s with front := { f with invalid := Map.write 0 f.invalid b n } }).flag 0x3300 0x63 4
    if n == 3 then s.post 0x200A b (le 4 n) else s
  | some k =>
    let v := if k < 10 then 0 else if k > 50000 then 0xFFFFFFFF else k
    let old := Map.read 0xFFFFFFFE f.prev b
    let warn := s.rd 0x3300 (0x32 + b)
    let alarm := s.rd 0x3300 (0x34 + b)
    let below := if v < alarm then Map.read 0 f.below b + 1 else 0
    let above := if 10 * v ≥ 11 * alarm then Map.read 0 f.above b + 1 else 0
    let f := { f with invalid := Map.write 0 f.invalid b 0, prev := Map.write 0xFFFFFFFE f.prev b v,
                      below := Map.write 0 f.below b below, above := Map.write 0 f.above b above }
    let s := ({ s with front := f }).wr 0x3300 (0x30 + b) v
    let s := if v < warn && (old == 0xFFFFFFFE || decide (warn ≤ old)) then s.post 0x2008 b (le 4 v) else s
    let src := 32 + b
    if below ≥ 2 && !s.rdBit 0x3300 0x63 (6 + b) then
      ((s.wrBit 0x3300 0x63 (6 + b) true).post 0x2009 b (le 4 old ++ le 4 v)).tripAssert src
    else if above ≥ 2 && s.rdBit 0x3300 0x63 (6 + b) then (s.wrBit 0x3300 0x63 (6 + b) false).tripDeassert src
    else s

/-- INSULATION_RESULT (R190–R193): kΩ; none where the result did not settle. Sources 32 and 33 are the alarm sources of
IMA and IMB. A channel at high impedance has no result. -/
def Chip.insulation (s : Chip) (b : Nat) (result : Option Nat) : Chip :=
  if s.imHighZ b then s else (s.insulationIn b result).imTurn

def execInsulationResult (busB : Bool) (result : Option Nat) : State → Host.Outcome State Fault Refusal :=
  lift (·.insulation (if busB then 1 else 0) result)

/-- FILTER_SETTLED (R178): the stale marking of the half ends. -/
def execFilterSettled (r : RingNo) (upper : Bool) : State → Host.Outcome State Fault Refusal :=
  lift (fun s => { s with settling := Map.write 0 s.settling (r.val * 2 + (if upper then 1 else 0)) 0 })

/-! ## Sense taps and channels (R195–R206) -/

/-- Element codes of a KS16 slot, 100 µV. -/
def slotCode (b : List Byte) (e : Nat) : Nat := beAt b (2 * e) 2

/-- Is the channel valid and enabled in the slot? -/
def slotValid (b : List Byte) (e : Nat) : Bool := slotCode b e != 0 && slotCode b e != 0xFFFF && !bit (slotStatus b) e

/-- The fault word of a position (302n). -/
def Chip.faultWord (s : Chip) (r p : Nat) : Nat := s.rd (0x3020 + r) (p + 1)
def Chip.setFaultWord (s : Chip) (r p v : Nat) : Chip := s.wr (0x3020 + r) (p + 1) v

/-- Is the slot of a position fresh in this tick: arrived, its half not settling (R178)? -/
def Chip.freshSlot (s : Chip) (r p : Nat) : Bool :=
  let x := Map.read {} s.slotData (r * 64 + p)
  x.bytes != [] && x.age == 0 && Map.read 0 s.settling (r * 2 + halfIdx p) == 0

/-- The elements beside tap t. -/
def besideTap (t : Nat) : List Nat := (if t ≥ 1 then [t - 1] else []) ++ (if t ≤ 15 then [t] else [])

/-- Elements whose sample an injection perturbs: those beside the taps injected in an INJ sample (R197). -/
def Chip.injected (s : Chip) (r p e : Nat) : Bool :=
  let u := s.sus (r * 64 + p)
  bit (slotStatus (s.slotAt r p)) 18 && (bit u.inj e || bit u.inj (e + 1))

/-- Is the channel valid in the slot, and not invalid by its classification (R203)? -/
def channelOk (w : Nat) (b : List Byte) (e : Nat) : Bool := slotValid b e && !bit w (48 + e)

/-- The elements whose sum stands for element `e` in the observation: those joined to it by taps classified open (R205). -/
def obsRun (w : Nat) (b : List Byte) (e : Nat) : List Nat :=
  let es := (List.range 16).filter (fun i => (List.range 16).all (fun t => t ≤ min e i || max e i < t || bit w t))
  if es.all (channelOk w b) then es else [e]
def obsSum (w : Nat) (b : List Byte) (e : Nat) : Nat := ((obsRun w b e).map (slotCode b)).foldl (· + ·) 0

/-- Twice the value of an element in the median: the mean of the sum that stands for it. -/
def obsValue (w : Nat) (b : List Byte) (e : Nat) : Nat := 2 * obsSum w b e / (obsRun w b e).length

/-- Twice the median of the slice's valid channels (R200). -/
def median2 (xs : List Nat) : Nat :=
  let ys := sortBy (fun a b => decide (a ≤ b)) xs
  let n := ys.length
  if n == 0 then 0 else (ys.getD (n / 2) 0 + ys.getD ((n - 1) / 2) 0) / 2

/-- Twice the slice median: channels that are invalid, in the slot or by their classification, and the elements in `out` take no part
(R200). -/
def slotMedian (b : List Byte) (w : Nat) (out : Nat → Bool) : Int :=
  median2 (((List.range 16).filter (fun e => channelOk w b e && !out e)).map (obsValue w b))

/-- Twice the distance of an element, or of the sum that stands for it, from the median `m` of each channel. -/
def obsDev (w : Nat) (b : List Byte) (m : Int) (e : Nat) : Int := 2 * (obsSum w b e : Int) - (obsRun w b e).length * m

/-- Twice the deviation of each element from the slice median, 0 where it does not deviate or is excluded (R200). DESIGN CHOICE: an
element classified as faulty and an end element beside an open end tap are not observed again (log entry 151). -/
def Chip.deviations (s : Chip) (r : Nat) (b : List Byte) (w : Nat) (out : Nat → Bool) : List Int :=
  let m := slotMedian b w out
  (List.range 16).map (fun e =>
    let d := obsDev w b m e
    let edge := (e == 0 && bit w 0) || (e == 15 && bit w 16)
    if channelOk w b e && !out e && !edge && !bit w (32 + e) && decide (d.natAbs > 2 * s.rd (0x3010 + r) 0x26) then d else 0)

/-- Two deviations of opposite sign whose magnitudes differ by no more than 25 % of the larger (R200). -/
def oppositePair (a b : Int) : Bool :=
  decide (a * b < 0) && decide (4 * ((a.natAbs : Int) - b.natAbs).natAbs ≤ max a.natAbs b.natAbs)

/-- The observation of R200: an opposite pair at e and e + 1 (1 + e), element e alone (17 + e), or none. -/
def obsOf (ds : List Int) : Nat :=
  match (List.range 15).find? (fun e => oppositePair (ds.getD e 0) (ds.getD (e + 1) 0)) with
  | some e => 1 + e
  | none =>
    match (List.range 16).filter (fun e => ds.getD e 0 != 0) with
    | [e] => 17 + e
    | _ => 0

/-- Taps concerned by an observation (R201), and its elements. -/
def obsTaps (obs : Nat) : Nat :=
  if obs == 0 then 0 else if obs ≤ 16 then 2 ^ obs else 2 ^ (obs - 17) + 2 ^ (obs - 16)
def obsElems (obs : Nat) : List Nat := if obs == 0 then [] else if obs ≤ 16 then [obs - 1, obs] else [obs - 17]

/-- A READ of STACK and then CTRL INJECT on the taps concerned (R201). -/
def Chip.askInjection (s : Chip) (r p taps : Nat) : Chip :=
  let s := s.request r p 4 (be 2 0x24 ++ be 1 1 ++ be 1 0)
  (bitsSet 17 taps).foldl (fun s t => s.ctrl r p 0x05 t) s

/-- The slice becomes suspect (R200, R206). -/
def Chip.makeSuspect (s : Chip) (r p obs : Nat) : Chip :=
  let k := r * 64 + p
  let s := s.setFaultWord r p (putBit (s.faultWord r p) 17 true)
  (s.setSus k { s.sus k with obs := obs, taps := obsTaps obs, tries := 0 }).askInjection r p (obsTaps obs)

/-- Is the latest slot of a position fresh, timed and an INJ sample? -/
def SlotRec.injFresh (x : SlotRec) : Bool := x.age == 0 && x.bytes != [] && bit (slotStatus x.bytes) 18

/-- The larger shift of the elements beside a tap between two samples (R199); none where a channel is not valid. -/
def tapShift (b0 b1 : List Byte) (t : Nat) : Option Nat :=
  let es := besideTap t
  if b0 != [] && es.all (fun e => slotValid b0 e && slotValid b1 e) then
    some ((es.map (fun e => ((slotCode b1 e : Int) - slotCode b0 e).natAbs)).foldl max 0)
  else none

/-- Is the observation of a classified item of 302n present? A tap by its pair or end element, with its own classification left aside,
an element or a channel by its deviation (R204). -/
def Chip.itemPresent (s : Chip) (r : Nat) (b : List Byte) (w : Nat) (out : Nat → Bool) (item : Nat) : Bool :=
  let w := if item ≤ 16 then putBit w item false else w
  let m := slotMedian b w out
  let raw (e : Nat) : Int :=
    let d := obsDev w b m e
    if slotValid b e && !out e && decide (d.natAbs > 2 * s.rd (0x3010 + r) 0x26) then d else 0
  if item == 0 then raw 0 != 0
  else if item == 16 then raw 15 != 0
  else if item < 16 then oppositePair (raw (item - 1)) (raw item)
  else if item ≥ 32 then raw (item % 16) != 0
  else false

/-- The elements by which a classified item is observed. -/
def itemElems (item : Nat) : List Nat := if item ≤ 16 then besideTap item else [item % 16]

/-- Fresh ticks for which each classified item has been absent; a tick in which its elements are stale neither counts nor resets
(R200, R204). -/
def absences (present : Nat → Bool) (w : Nat) (m : Map Nat) (stale : Nat → Bool) : Map Nat :=
  ((List.range 64).filter (fun i => bit w i && (i ≤ 16 || 32 ≤ i))).map (fun i =>
    (i, if (itemElems i).any stale then Map.read 0 m i else if present i then 0 else min 255 (Map.read 0 m i + 1)))
    |>.filter (·.2 != 0)

/-- Each element's last fresh code and its CHINV bit, as a slot (R199): those of `b` but for the stale elements. -/
def keepFresh (prev b : List Byte) (stale : Nat → Bool) : List Byte :=
  let p := if prev == [] then zeros 44 else prev
  let st := (List.range 16).foldl (fun v e => if stale e then putBit v e (bit (slotStatus p) e) else v) (slotStatus b)
  (List.range 16).flatMap (fun e => ((if stale e then p else b).drop (2 * e)).take 2) ++ (b.drop 32).take 8 ++ be 4 st

/-- Results of the taps injected in the sample: 1 + the larger shift of each (R199). -/
def Chip.tapResults (s : Chip) (r p : Nat) (x : SlotRec) : Map Nat :=
  let u := s.sus (r * 64 + p)
  if !bit (slotStatus x.bytes) 18 then u.shift
  else (bitsSet 17 u.inj).foldl (fun m t => match tapShift x.prev x.bytes t with
    | some d => Map.write 0 m t (d + 1)
    | none => m) u.shift

/-- A tap that fails in this sample without being under test: none that is classified open (R206). -/
def Chip.failedTap (s : Chip) (r p w : Nat) (x : SlotRec) : Option Nat :=
  let u := s.sus (r * 64 + p)
  if !bit (slotStatus x.bytes) 18 || bit w 17 && u.taps != 0 then none
  else (bitsSet 17 u.inj).find? (fun t => !bit w t && decide ((tapShift x.prev x.bytes t).getD 0 > s.rd (0x3010 + r) 0x28))

/-- Taps to be injected anew: those of classified items that have just been absent for the persistence count (log entry 42). -/
def retest (w n : Nat) (old new : Map Nat) : Nat :=
  let due (i : Nat) : Bool := bit w i && decide (Map.read 0 old i < n) && Map.read 0 new i == n
  maskOf 17 (fun t => due t || (List.range 16).any (fun e => due (48 + e) && (t == e || t == e + 1)))

/-- What the lane observes of a fresh KS16 slot in the fast tier (R200, R204, R206), and what it keeps of it (R199). A tick in which
elements of the observation are stale neither counts nor resets. -/
def Chip.observe (s : Chip) (r p : Nat) : Chip :=
  let k := r * 64 + p
  let x := Map.read {} s.slotData k
  if !s.freshSlot r p || !s.isKs16 r p then s
  else
    let w := s.faultWord r p
    let u := s.sus k
    let stale (e : Nat) : Bool := s.injected r p e
    let sh := s.tapResults r p x
    let bad := s.failedTap r p w x
    let obs := obsOf (s.deviations r x.bytes w stale)
    let ab := absences (s.itemPresent r x.bytes w stale) w u.absent stale
    let again := if bit w 17 then 0 else retest w (s.rd (0x3010 + r) 0x29) u.absent ab
    let u := { u with absent := ab, shift := sh.filter (fun (y : Nat × Nat) => !bit again y.1) }
    let u := if bit w 17 || (obsElems u.obs).any stale then u
      else { u with obs := obs, count := if obs == 0 then 0 else if obs == u.obs then u.count + 1 else 1 }
    let s := { s.setSus k u with slotData := Map.write {} s.slotData k { x with prev := keepFresh x.prev x.bytes stale } }
    let s := (bitsSet 17 again).foldl (fun s t => s.ctrl r p 0x05 t) s
    match bad with
    | some t => s.makeSuspect r p (if t == 0 then 17 else if t == 16 then 32 else t)
    | none => s

/-- SLICE_SUSPECT (R200): the same observation has held for the persistence count of fresh ticks. -/
def Chip.sliceSuspect (s : Chip) (r p : Nat) : Chip :=
  let u := s.sus (r * 64 + p)
  if u.obs != 0 && decide (s.rd (0x3010 + r) 0x29 ≤ u.count) && !bit (s.faultWord r p) 17 then s.makeSuspect r p u.obs else s

def execSliceSuspect (r : RingNo) (p : Pos) : State → Host.Outcome State Fault Refusal := lift (·.sliceSuspect r p)

/-- The sum check of R195: difference of STACK and the channel sum of the slot with the same SEQ, 100 µV. -/
def stackDiff (x : SlotRec) (stack : Nat) : Option (Int × Nat) :=
  let sum (b : List Byte) : Nat := ((List.range 16).map (slotCode b)).foldl (· + ·) 0
  let v := bits stack 31 16 * 20
  if x.last != [] && bits stack 15 0 == x.lastSeq then some ((v : Int) - sum x.last, sum x.last)
  else if bits stack 15 0 == x.seq then some ((v : Int) - sum x.bytes, sum x.bytes)
  else none

/-- The test ends: the slice is no longer suspect, and its results are no new injection (R204). -/
def Chip.endTest (s : Chip) (r p : Nat) : Chip :=
  let s := s.setFaultWord r p (putBit (s.faultWord r p) 17 false)
  let u := s.sus (r * 64 + p)
  s.setSus (r * 64 + p) { u with obs := 0, count := 0, taps := 0, tries := 0, shift := [] }

/-- Classify by the first row of R202 that applies. `shift t` is the result of tap t, `dev e` the deviation of element e,
both in 100 µV; `devs` are the channels that deviate in the slot. DESIGN CHOICE: after a background failure the elements beside the
tap stand for the deviating ones (log entry 152). -/
def Chip.classify (s : Chip) (r p obs : Nat) (diff : Int) (sum : Nat) (shift : Nat → Nat) (dev : Nat → Int) (devs : List Nat) : Chip :=
  let k := r * 64 + p
  let m := 0x3010 + r
  let fails (t : Nat) : Bool := decide (shift t > s.rd m 0x28)
  let consistent := decide (diff.natAbs ≤ s.rd m 0x27)
  let pair := obs ≤ 16
  let e := if pair then obs - 1 else obs - 17
  let tapEv (s : Chip) (t : Nat) : Chip :=
    (s.setFaultWord r p (putBit (s.faultWord r p) t true)).post 0x2001 r
      (le 1 p ++ le 1 t ++ le 4 (ofInt 32 (dev e)) ++ le 4 (shift t))
  let elEv (s : Chip) (e : Nat) : Chip :=
    (s.setFaultWord r p (putBit (s.faultWord r p) (32 + e) true)).post 0x2003 r (le 1 p ++ le 1 e ++ le 4 (ofInt 32 (dev e)))
  let chEv (s : Chip) (es : List Nat) : Chip :=
    (es.foldl (fun s e => s.setFaultWord r p (putBit (s.faultWord r p) (48 + e) true)) s).post 0x2004 r
      (le 1 p ++ le 4 sum ++ le 4 (s.sus k).stack)
  let endTap := if e == 0 then 0 else 16
  let byDev := decide (4 * ((diff.natAbs : Int) - (dev e).natAbs).natAbs ≤ (dev e).natAbs)
  let es := (List.range 16).filter (fun i => (obsElems obs).contains i || devs.contains i)
  let s' :=
    if pair && consistent && fails obs then tapEv s obs
    else if !pair && (e == 0 || e == 15) && !consistent && byDev && fails endTap then tapEv s endTap
    else if pair && consistent then elEv (elEv s e) (e + 1)
    else if consistent && !fails e && !fails (e + 1) then elEv s e
    else if !consistent then chEv s es
    else chEv s [e]
  s'.endTest r p

/-- TAP_CLASSIFICATION (R201–R203): in the tick of the sample that the INJECT belongs to; the test is repeated at most three times. -/
def Chip.tapClassification (s : Chip) (r p : Nat) : Chip :=
  let k := r * 64 + p
  let u := s.sus k
  let x := Map.read {} s.slotData k
  if !bit (s.faultWord r p) 17 || u.taps &&& u.inj == 0 then s
  else
    let taps := bitsSet 17 u.taps
    let results := taps.map (tapShift x.prev x.bytes)
    match s.freshSlot r p && x.injFresh && u.taps &&& u.inj == u.taps, stackDiff x u.stack, results.all Option.isSome with
    | true, some (diff, sum), true =>
      let shift (t : Nat) : Nat := (tapShift x.prev x.bytes t).getD 0
      let w := s.faultWord r p
      let m := slotMedian x.prev w (fun _ => false)
      let ds := s.deviations r x.prev w (fun _ => false)
      s.classify r p u.obs diff sum shift (fun e => obsDev w x.prev m e / 2) ((List.range 16).filter (fun e => ds.getD e 0 != 0))
    | _, _, _ =>
      let n := u.tries + 1
      if n ≥ 3 then
        (s.setSus k { u with tries := n, taps := 0 }).post 0x2005 r (le 1 p ++ le 1 (taps.headD 0) ++ le 4 n)
      else (s.setSus k { u with tries := n }).askInjection r p u.taps

def execTapClassification (r : RingNo) (p : Pos) : State → Host.Outcome State Fault Refusal :=
  lift (·.tapClassification r p)

/-- CLASSIFICATION_CLEAR (R204): `item` is the bit of 302n. A tap or a channel clears once its observation has been absent
and the taps concerned pass; an element fault without an injection. -/
def Chip.classificationClear (s : Chip) (r p item : Nat) : Chip :=
  let k := r * 64 + p
  let u := s.sus k
  let w := s.faultWord r p
  let gone := decide (s.rd (0x3010 + r) 0x29 ≤ Map.read 0 u.absent item)
  let pass (t : Nat) : Bool := Map.read 0 u.shift t != 0 && decide (Map.read 0 u.shift t ≤ s.rd (0x3010 + r) 0x28 + 1)
  let tests := if item ≤ 16 then pass item else if item ≥ 48 then pass (item - 48) && pass (item - 47) else true
  if bit w item && (item ≤ 16 || item ≥ 32) && gone && tests then
    let s := (s.setFaultWord r p (putBit w item false)).setSus k { u with absent := Map.erase item u.absent }
    if 32 ≤ item && item < 48 then s else s.post 0x2002 r (le 1 p ++ le 1 (if item < 32 then item else item - 48))
  else s

def execClassificationClear (r : RingNo) (p : Pos) (item : Fin 64) : State → Host.Outcome State Fault Refusal :=
  lift (·.classificationClear r p item)

/-- The first tap that the round in progress has not done, over some positions. -/
def nextTap (done : Map Nat) (ps : List Nat) : Option (Nat × Nat) :=
  ps.findSome? (fun p => ((List.range 17).find? (fun t => !bit (Map.read 0 done p) t)).map (fun t => (p, t)))

/-- Background injection of one tap per tick (R206), of an admitted KS16 whose elements do not burst in the tick of the sample. A round
ends when every slice has had all its taps but those whose test is still going on and those that burst in every tick; a slice that
bursts in some ticks is waited for. -/
def Chip.backgroundInjection (s : Chip) (r : Nat) : Chip :=
  if s.rd (0x3010 + r) 0x25 == 0 || s.ringState r != 2 || decide (s.rd 0x2100 0x03 ≥ 2) || !s.sweeps r then s
  else
    let bursting := (s.burstList r false ++ s.burstList r true).map (·.1)
    let g := s.ring r
    let ks := (List.range 64).filter (fun p => s.isKs16 r p && !(bit (s.faultWord r p) 17 && (s.sus (r * 64 + p)).taps != 0))
    let free := ks.filter (fun p => !bursting.contains p)
    let waited := if s.rd 0x2100 0x04 ≤ 1 then [] else ks.filter (fun p => bursting.contains p)
    let done := if (nextTap g.bgDone (free ++ waited)).isNone then g.bgDone.filter (fun (x : Nat × Nat) => !ks.contains x.1) else g.bgDone
    match nextTap done free with
    | none => s.setRing r { g with bgDone := done }
    | some (p, t) => (s.setRing r { g with bgDone := Map.write 0 done p (Map.read 0 done p ||| 2 ^ t) }).ctrl r p 0x05 t

/-- At a tick edge the taps whose INJECT has left are injected (R196). -/
def Chip.injectEdge (s : Chip) : Chip :=
  let us := s.suspects.each {} (fun x => { x with inj := x.injNext, injNext := 0 })
  { s with suspects := us.filter (fun x => decide (x.2 ≠ ({} : Suspect))) }

end Sys2Proof.Machine
end

