-- ==== Sys2Proof/Machine/Protect.lean ====
section
/-!
DEFINITION. Sys2Proof/Machine/Protect.lean: fault loops, section comparators and the trip matrix (06_hardware_protection).
-/

namespace Sys2Proof.Machine

/-! ## Fault loops (R213, R214, R236, R237) -/

/-- A short or the loss of the heartbeat on the loop of ring `r`: its own record, and source LOOPn where it is enabled. -/
def Chip.loopFault (s : Chip) (r : Nat) (short : Bool) : Chip :=
  let g := s.ring r
  let s := s.setRing r (if short then { g with short := true } else { g with hbLost := true })
  (s.tripRecord (if short then .short r else .heartbeat r)).tripAssert r

def execLoopShort (r : RingNo) : State → Host.Outcome State Fault Refusal := lift (·.loopFault r true)

def execHeartbeatLost (r : RingNo) : State → Host.Outcome State Fault Refusal := lift (·.loopFault r false)

/-- LOOP_DEASSERT (R214). -/
def execLoopDeassert (r : RingNo) : State → Host.Outcome State Fault Refusal :=
  lift (fun s => (s.setRing r { s.ring r with short := false, hbLost := false }).tripDeassert r)

/-! ## Comparators and monitors (R220–R222) -/

/-- OC_TRIP (R220): a comparator whose shunt input is unused never trips. -/
def execOcTrip (k : Fin 8) : State → Host.Outcome State Fault Refusal :=
  lift (fun s => if k.val < 4 && s.rd 0x3300 (0x0B + k.val / 2) == 0 then s else s.tripAssert (16 + k.val))

/-- HW_TRIP (R221): the output is held during the divider test. -/
def execHwTrip (k : Fin 8) : State → Host.Outcome State Fault Refusal :=
  lift (fun s => if s.front.hvTest == s.ticks + 1 then s else s.tripAssert (24 + k.val))

/-- SUPERVISOR_WATCHDOG (R222). -/
def execSupervisorWatchdog : State → Host.Outcome State Fault Refusal := lift (·.tripAssert 42)

/-- VAUX_OUT_OF_RANGE, POWER_DIE_OVERTEMP, COMPUTE_DIE_OVERTEMP, FAULT_LOOP_BIAS_SUPPLY (R222). -/
def execVauxOutOfRange : State → Host.Outcome State Fault Refusal := lift (·.tripAssert 34)

def execPowerDieOvertemp : State → Host.Outcome State Fault Refusal := lift (·.tripAssert 35)

def execComputeDieOvertemp : State → Host.Outcome State Fault Refusal := lift (·.tripAssert 36)

def execFaultLoopBiasSupply : State → Host.Outcome State Fault Refusal := lift (·.tripAssert 45)

/-- A lane pair of a region stands stopped by a mismatch or a checker fault (R484). -/
def Chip.regionStopped (s : Chip) (r : Nat) : Bool := s.tines.any (fun x => decide (x.1 / 20 = r) && decide (x.1 < 80) && x.2.stopped)

/-- Does the block itself hold the condition of a source: an insulation alarm (R193), the die link (R11), HOLDUP (R641),
a stopped pair (R484, R489)? An HV comparator holds its output during the divider test (R221). -/
def Chip.conditionHeld (s : Chip) (i : Nat) : Bool :=
  i < 16 || i == 47 || (i == 32 && s.rdBit 0x3300 0x63 6) || (i == 33 && s.rdBit 0x3300 0x63 7) ||
  (i == 43 && (s.link.lostDown || s.link.lostUp)) || (i == 44 && s.pager.hold) || (i == 41 && s.lock.supFault) ||
  (24 ≤ i && i < 32 && s.front.hvTest == s.ticks + 1) ||
  (37 ≤ i && i ≤ 40 && s.regionStopped (i - 37))

/-- TRIP_CONDITION_CLEARED (R226). -/
def execTripConditionCleared (source : Fin 48) : State → Host.Outcome State Fault Refusal :=
  lift (fun s => if s.conditionHeld source then s else s.tripDeassert source)

/-! ## ETRIP and latches (R224, R227, R228) -/

/-- EMERGENCY_TRIP (R224): any master, no semaphore; REFUSED while the power die takes no command write (R13; log entry 142). -/
def Chip.emergencyTrip (s : Chip) (m : Master) (v : Nat) : Chip :=
  if m = .observer then s.answer .role
  else if v ≠ 1 then (s.answer .range).commanded m 0x2300 0x07 1 v .range
  else if !s.adopted then (s.answer .refused 1).commanded m 0x2300 0x07 1 v .refused
  else (s.answer .ok).etrip m

def execEmergencyTrip (m : Master) (v : Byte) : State → Host.Outcome State Fault Refusal := lift (·.emergencyTrip m v.toNat)

/-- ETRIP_EXPIRY (R224). -/
def execEtripExpiry : State → Host.Outcome State Fault Refusal := lift (·.tripDeassert 47)

/-- One named source of a write to 2300:06 (R227). -/
def Chip.clearLatch (s : Chip) (m : Master) (i : Nat) : Chip :=
  if !s.trip.latched.getLsbD i then s
  else if s.trip.asserted.getLsbD i then s.post 0x3004 i (le 1 (masterCode m))
  else
    ({ s with trip := { s.trip with latched := s.trip.latched &&& ~~~ BitVec.twoPow 48 i,
                                    latchWord := Map.erase i s.trip.latchWord } }).post 0x3003 i (le 1 (masterCode m))

/-- CLEAR_LATCHES (R227): REFUSED with the number of the lowest refused source. Channels that no action names any more
leave TRIPPED and stay off (R226). The power die rejects the write before the adopt handshake is complete (R13; log entry 142). -/
def Chip.clearLatches (s : Chip) (m : Master) (mask : Nat) : Chip :=
  s.action m 0 (fun s =>
    if !s.adopted then s.answer .refused 0xFF else
    let named := bitsSet 48 mask
    let refused := named.filter (fun i => s.trip.asserted.getLsbD i && s.trip.latched.getLsbD i)
    let s := (List.range 16).foldl Chip.tripOne (named.foldl (fun s i => s.clearLatch m i) s)
    match refused with
    | [] => s
    | i :: _ => s.answer .refused i)

def execClearLatches (m : Master) (mask : BitVec 64) : State → Host.Outcome State Fault Refusal :=
  lift (·.clearLatches m mask.toNat)

/-! ## The active matrix (R234, R235) -/

/-- OVERLAP_END (R234). -/
def execOverlapEnd : State → Host.Outcome State Fault Refusal :=
  lift (fun s => (List.range 16).foldl Chip.tripOne { s with trip := { s.trip with oldAct := none } })

/-- Objects of the matrix: action words, loop enable mask, deglitch times, watchdog timeout and thresholds (R232). -/
def matrixObjects : List (Nat × Nat) :=
  (List.range 48).map (fun i => (0x2302, i + 1)) ++ [(0x2300, 0x03), (0x2300, 0x08), (0x2300, 0x09), (0x2300, 0x0A)] ++
    (List.range 24).map (fun i => (0x2304, i + 1))

/-- The committed matrix (R629): action words are set in 2301 and shown in 2302. -/
def Chip.committedMatrix (s : Chip) : Map Nat :=
  matrixObjects.foldl (fun m (x : Nat × Nat) => Map.write (dflt (okey x.1 x.2)) m (okey x.1 x.2)
    (s.rd (if x.1 == 0x2302 then 0x2301 else x.1) x.2)) []

def Chip.committedCrc (s : Chip) : Word := crc32c (matrixBytes (fun i j => s.rd (if i == 0x2302 then 0x2301 else i) j))

/-- LOOPn follows its enable bit: it is asserted while its loop is short or without heartbeat, and never while the bit is 0
(R222, R236). -/
def Chip.loopsFollow (s : Chip) : Chip :=
  (List.range 16).foldl (fun s r =>
    if !bit s.trip.loopMask r then s.tripDeassert r
    else if (s.ring r).short || (s.ring r).hbLost then s.tripAssert r
    else s) s

/-- The swap of a commit (R234): for 10 µs asserted sources act with the OR of old and new words; parity errors end. -/
def Chip.swapMatrix (s : Chip) : Chip :=
  let before := s.trip.rings
  let old := s.activeCrc.toNat
  let s := { s with trip := { s.trip with act := s.committedMatrix, oldAct := some s.trip.act, parity := [], unseen := [], swapDue := false } }
  ((s.post 0x3005 0 (le 4 old ++ le 4 s.activeCrc.toNat)).applyTrips before 0).loopsFollow

/-- The commit is sent over the die link with its CRC, and the power die swaps only if its own agrees (R234). A commit that finds the
link lost is sent when the link has recovered (DESIGN CHOICE, log entry 63). -/
def Chip.sendCommit (s : Chip) : Chip :=
  if s.link.lostDown || s.link.lostUp then { s with trip := { s.trip with swapDue := true } }
  else if s.trip.unseen.isEmpty || s.shadowCrc == s.committedCrc then s.swapMatrix
  else s

/-- LINK_RECOVERY (R41), and a commit that has waited for it. -/
def execLinkRecovery : State → Host.Outcome State Fault Refusal :=
  lift (fun s =>
    let s := s.linkRecovery
    if s.trip.swapDue then s.sendCommit else s)

/-- Number of an item of the active matrix in events and trip records (log entry 43). -/
def matrixItemNo : MatrixItem → Nat
  | .action i => i
  | .loopMask => 48
  | .oc k => 49 + k
  | .hwLow k => 57 + k
  | .hwHigh k => 65 + k
  | .ocDeglitch => 73
  | .hwDeglitch => 74
  | .watchdog => 75

/-- MATRIX_PARITY_ERROR (R235): the item falls back until the next commit; an asserted source acts with its default
added. -/
def Chip.parityError (s : Chip) (x : MatrixItem) : Chip :=
  let before := s.trip.rings
  let p := s.trip.parity
  let s := { s with trip := { s.trip with parity := if p.contains x then p else p ++ [x] } }
  (((s.flag 0x2300 0x0B 4).tripRecord (.parity (matrixItemNo x))).applyTrips before (matrixItemNo x)).loopsFollow

def execMatrixParityError (item : MatrixItem) : State → Host.Outcome State Fault Refusal := lift (·.parityError item)

end Sys2Proof.Machine
end

