-- ==== Sys2Proof/Machine/Estimate.lean ====
section
/-!
DEFINITION. Sys2Proof/Machine/Estimate.lean: the state of one element and its update in the fast tier
(07_element_estimation R240–R273), with the limits formed from it (09 R315, R316). Arithmetic is binary32, one rounding
an operation, in the order of the pseudocode; sums run from left to right (log entry 44).
-/

namespace Sys2Proof.Machine

/-! ## Profiles (R244, R245) -/

/-- Index of the profile objects of a string. -/
def Chip.profIdx (s : Chip) (n : Nat) : Nat := 0x2810 + s.rd (0x2840 + n) 0x01

def centi (t : Int) : F32 := f32OfFrac t 100
def Chip.profGrid (s : Chip) (pi j : Nat) : F32 := centi (toInt 16 (leAt (s.rdDom pi 0x06) (2 * j) 2))
/-- OCV entries in 100 µV: s major, temperature minor. -/
def Chip.profOcv (s : Chip) (pi i j : Nat) : Nat := leAt (s.rdDom pi 0x07) (2 * (8 * i + j)) 2
def Chip.profPar (s : Chip) (pi k i j : Nat) : F32 := BitVec.ofNat 32 (leAt (s.rdDom pi 0x08) (24 * (8 * i + j) + 4 * k) 4)
/-- W(s) by trapezoids (R245): the sum of o(m) + o(m + 1) over 4,000,000. -/
def Chip.profEnergy (s : Chip) (pi i j : Nat) : F32 :=
  f32OfFrac (((List.range i).map (fun m => s.profOcv pi m j + s.profOcv pi (m + 1) j)).foldl (· + ·) 0 : Nat) 4000000

/-- OCV and its slope, a parameter, and W at (s, T). -/
def Chip.ocvAt (s : Chip) (pi : Nat) (x t : F32) : F32 × F32 :=
  let (v, d) := bilinear (fun i j => f32OfFrac (s.profOcv pi i j) 10000) (gridPos x hOcv 201) (tempPos (s.profGrid pi) t)
  (v, fDiv d hOcv)
def Chip.parAt (s : Chip) (pi k : Nat) (x t : F32) : F32 :=
  (bilinear (s.profPar pi k) (gridPos x hPar 21) (tempPos (s.profGrid pi) t)).1
def Chip.energyAt (s : Chip) (pi : Nat) (x t : F32) : F32 :=
  (bilinear (s.profEnergy pi) (gridPos x hOcv 201) (tempPos (s.profGrid pi) t)).1

/-- The true SoC at which the OCV is `v`: the segment of the mixed column that holds it, the end ones extrapolated. -/
def Chip.ocvInverse (s : Chip) (pi : Nat) (v t : F32) : F32 :=
  let (j, w) := tempPos (s.profGrid pi) t
  let col := (List.range 201).map (fun i =>
    fAdd (fMul (f32OfFrac (s.profOcv pi i j) 10000) (fSub fOne w)) (fMul (f32OfFrac (s.profOcv pi i (j + 1)) 10000) w))
  let i := ((List.range 200).reverse.find? (fun i => f32Le (col.getD i 0) v)).getD 0
  let (a, b) := (col.getD i 0, col.getD (i + 1) 0)
  fMul (fAdd (fInt i) (fDiv (fSub v a) (fSub b a))) hOcv

def Chip.profF (s : Chip) (pi sub d : Nat) : F32 := f32OfFrac (s.rd pi sub) d
def Chip.profSigma0 (s : Chip) (pi : Nat) : F32 := s.profF pi 0x0C 10000
def Chip.profQn (s : Chip) (pi i : Nat) : F32 := BitVec.ofNat 32 (leAt (s.rdDom pi 0x0A) (4 * i) 4)

/-! ## Fast records (R273) -/

def recF (b : List Byte) (i : Nat) : F32 := BitVec.ofNat 32 (leAt b i 4)
def putF (b : List Byte) (i : Nat) (x : F32) : List Byte := splice b i (le 4 x.toNat)

/-- 4 × 4 matrices, row by row. -/
abbrev Mat := List (List F32)
def mat4 (f : Nat → Nat → F32) : Mat := (List.range 4).map (fun i => (List.range 4).map (f i))
def mget (m : Mat) (i j : Nat) : F32 := (m.getD i []).getD j 0
def dot4 (f : Nat → F32) : F32 := fAdd (fAdd (fAdd (f 0) (f 1)) (f 2)) (f 3)
def mmul (a b : Mat) : Mat := mat4 (fun i j => dot4 (fun k => fMul (mget a i k) (mget b k j)))
def mtr (a : Mat) : Mat := mat4 (fun i j => mget a j i)
def madd (a b : Mat) : Mat := mat4 (fun i j => fAdd (mget a i j) (mget b i j))
def mdiag (f : Nat → F32) : Mat := mat4 (fun i j => if i = j then f i else 0)

/-- Place of P(i, j) among the ten stored. -/
def covIdx (i j : Nat) : Nat :=
  let (a, b) := if i ≤ j then (i, j) else (j, i)
  if a = 0 then b else if a = 1 then 3 + b else if a = 2 then 5 + b else 9

def covOf (b : List Byte) : Mat := mat4 (fun i j => recF b (48 + 4 * covIdx i j))
def putCov (b : List Byte) (m : Mat) : List Byte :=
  splice b 48 ([(0, 0), (0, 1), (0, 2), (0, 3), (1, 1), (1, 2), (1, 3), (2, 2), (2, 3), (3, 3)].flatMap (fun x =>
    le 4 (mget m x.1 x.2).toNat))

def consOf (b : List Byte) : Nat := leAt b 18 2
def Chip.fastRec (s : Chip) (g : Nat) : List Byte := Map.read [] s.fast g
def Chip.setFast (s : Chip) (g : Nat) (b : List Byte) : Chip := { s with fast := Map.write [] s.fast g b }
def Chip.el (s : Chip) (g : Nat) : Elem := Map.read {} s.elem g
def Chip.setEl (s : Chip) (g : Nat) (x : Elem) : Chip := { s with elem := Map.write {} s.elem g x }
def Chip.es (s : Chip) (n : Nat) : EStr := Map.read {} s.estr n
def Chip.setEs (s : Chip) (n : Nat) (x : EStr) : Chip := { s with estr := Map.write {} s.estr n x }

/-- Do the elements of a string run on a resident kernel, whose state bytes 32–127 hold (R264)? -/
def Chip.ownKernel (s : Chip) (n : Nat) : Bool := decide (1 ≤ s.kernelOf n) && decide (s.kernelOf n ≤ 4)

/-- String of a global element. -/
def Chip.strOf (s : Chip) (g : Nat) : Option Nat := s.stringOf (g / 1024) (g / 16 % 64)

/-- Put the capacity in use into an element's fast record (R243, R284). -/
def Chip.putQcap (s : Chip) (g : Nat) (q : F32) : Chip :=
  let b := s.fastRec g
  if b == [] || !(((s.strOf g).map s.ownKernel).getD false) then s else s.setFast g (putF b 92 q)

/-- KS16 positions of a string that are admitted, and its elements, as global numbers. -/
def Chip.ksOf (s : Chip) (n : Nat) : List (Nat × Nat) :=
  match s.headOf n with
  | none => []
  | some (r, _) => ((s.positionsOf n).filter (s.isKs16 r)).map (fun p => (r, p))
def Chip.elemsOf (s : Chip) (n : Nat) : List Nat :=
  (s.ksOf n).flatMap (fun x => (List.range 16).map (fun e => x.1 * 1024 + x.2 * 16 + e))

/-- Reserves released: low and high (2800:03). -/
def Chip.loFree (s : Chip) : Bool := bit (s.rd 0x2800 0x03) 0
def Chip.hiFree (s : Chip) : Bool := bit (s.rd 0x2800 0x03) 1
def Chip.sLo (s : Chip) (pi : Nat) : F32 := if s.loFree then fZero else s.profF pi 0x03 10000
def Chip.sHi (s : Chip) (pi : Nat) : F32 := if s.hiFree then fOne else s.profF pi 0x04 10000

/-- Coulomb SoC (R269): ANCHSOC + (counter A − ANCHCNT) · 10⁻⁶ / (3,600 · Q). -/
def coulombSoc (b : List Byte) (cntA : Nat) : F32 :=
  let d := toInt 64 (cntA + 2 ^ 64 - leAt b 100 8)
  fAdd (recF b 96) (fDiv (f32OfFrac d 1000000) (fMul (fInt 3600) (recF b 92)))

/-- A SoC on the usable scale of R264. -/
def Chip.usable (s : Chip) (pi : Nat) (x : F32) : Nat :=
  let (l, h) := (s.profF pi 0x03 10000, s.profF pi 0x04 10000)
  (fRound (fMul (fInt 50000) (fClamp (fDiv (fSub x l) (fSub h l)) fZero fOne)) 0 50000).toNat

/-- What one update brings to the derived fields. -/
structure Meas where
  /-- temperature in 0.01 °C and whether it is substituted -/
  t    : Int
  tSub : Bool
  /-- measured voltage code, 100 µV; none where there is none -/
  v    : Option Nat
  innov : F32
  pred : Bool
  gated : Bool
  tap  : Bool
  derived : Bool

/-- Recognition of an end (R265): recognised on reaching it, cleared 250 LSB and 20 mV back inside. -/
def recognise (was : Bool) (inside : Nat) (vAt vClear : Bool) : Bool :=
  if inside = 0 || vAt then true else was && !(decide (250 ≤ inside) && vClear)

/-- Bytes 0–31 from the state in bytes 32–127 (R264–R271). -/
def Chip.derive (s : Chip) (n : Nat) (b : List Byte) (cntA : Nat) (m : Meas) (el : Elem) : List Byte :=
  let pi := s.profIdx n
  let old := consOf b
  let x := recF b 32
  let t := centi m.t
  let q := recF b 92
  let sig := fSqrt (recF b 48)
  let scc := coulombSoc b cntA
  let (soc, socCc) := (s.usable pi x, s.usable pi scc)
  let true_ (y : F32) : Nat := (fRound (fMul (fInt 50000) (fClamp y fZero fOne)) 0 50000).toNat
  let (l, h) := (s.profF pi 0x03 10000, s.profF pi 0x04 10000)
  let sigU := (fRound (fMul (fInt 50000) (fDiv sig (fSub h l))) 0 50000).toNat
  let w (y : F32) : F32 := s.energyAt pi y t
  let mwh (a c : F32) : Nat := (fRound (fMul (fMul (fInt 1000) q) (fSub (w a) (w c))) 0 4294967295).toNat
  let eav := if f32Le x (s.sLo pi) then 0 else mwh x (s.sLo pi)
  let efu := if f32Le (s.sHi pi) x then 0 else mwh (s.sHi pi) x
  let rsMicro := fMul (recF b 88) (fInt 1000000)
  let rs := if f32Lt (fInt 65534) rsMicro then 65535 else (fRound rsMicro 0 65534).toNat
  let code := m.v.getD (leAt b 20 2)
  let vNow := m.v.isSome
  -- ends: the lower of the two for discharge, the higher for charge (R265, R267)
  let lo := if s.loFree then min (true_ x) (true_ scc) else min soc socCc
  let hi := if s.hiFree then max (true_ x) (true_ scc) else max soc socCc
  let dcut := s.rd pi (if s.loFree then 0x0F else 0x0D)
  let ccut := s.rd pi (if s.hiFree then 0x10 else 0x0E)
  let eod := recognise (bit old 5) lo (vNow && dcut != 0 && decide (code ≤ dcut)) (dcut == 0 || decide (dcut + 200 ≤ code))
  let eoc := recognise (bit old 4) (50000 - hi) (vNow && ccut != 0xFFFF && decide (ccut ≤ code))
    (ccut == 0xFFFF || decide (code + 200 ≤ ccut))
  -- divergence (R271)
  let d := f32Abs (fSub x scc)
  let thr := fMax (s.profF 0x2800 0x04 10000) (fMul (fInt 3) sig)
  let far := f32Lt thr d
  let dis := bit old 12
  let init := bit old 14
  let cons := (if init then 2 ^ 14 else 0) + (if bit old 13 then 2 ^ 13 else 0) + (if dis then 2 ^ 12 else 0) +
    (if far && !dis then 2 ^ 11 else 0) + (if m.tap then 2 ^ 10 else 0) + (if m.pred then 2 ^ 9 else 0) +
    (if m.tSub then 2 ^ 8 else 0) + (if m.derived then 2 ^ 7 else 0) + (if f32Lt x l || f32Lt h x then 2 ^ 6 else 0) +
    (if eod then 32 else 0) + (if eoc then 16 else 0) + (if s.rd 0x2800 0x03 != 0 then 8 else 0) + (if m.gated then 4 else 0) +
    (if !far && !dis && !init && el.sinceGate == 16 then 1 else 0)
  let ocv := (fRound (fMul (s.ocvAt pi x t).1 (fInt 10000)) 0 65535).toNat
  let ds := if far then (if leAt b 108 4 == 0 then s.ticks % 2 ^ 32 else leAt b 108 4) else 0
  let head := le 2 soc ++ le 2 sigU ++ le 2 socCc ++ le 2 (true_ x) ++ le 4 eav ++ le 4 efu ++ le 2 rs ++ le 2 cons ++
    le 2 code ++ le 2 (ofInt 16 m.t) ++ le 2 ocv ++
    le 2 (ofInt 16 (fRound (fMul m.innov (fInt 100000)) (-32768) 32767)) ++ le 1 0 ++ [b.getD 29 0] ++
    le 1 (s.rd (0x2840 + n) 0x01) ++ le 1 0
  splice (splice b 0 head) 108 (le 4 ds)

/-! ## Limits of an element (R316) -/

/-- 0 below t1, linear to 1 at t2, 1 to t3, linear to 0 at t4. -/
def derate (t t1 t2 t3 t4 : Int) : F32 :=
  if t < t1 || t4 < t then fZero
  else if t < t2 then f32OfFrac (t - t1) (t2 - t1).toNat
  else if t ≤ t3 then fOne
  else f32OfFrac (t4 - t) (t4 - t3).toNat

/-- Limits of the four horizons in both directions, mA rounded down, with vrel, the resistance sums and the marks of
temperature derating and of the SoC margin (R316, R318). -/
def Chip.limits (s : Chip) (n : Nat) (b : List Byte) (cntA : Nat) (el : Elem) : Elem :=
  let pi := s.profIdx n
  let li := 0x2610 + (pi - 0x2810)
  let temp := toInt 16 (leAt b 22 2)
  let t := centi temp
  let x := recF b 32
  let scc := coulombSoc b cntA
  let sig := fSqrt (recF b 48)
  let (ocv, slope) := s.ocvAt pi x t
  let par (k : Nat) : F32 := s.parAt pi k x t
  let (rf, tauf, rd, taud, mm) := (par 1, par 2, par 3, par 4, par 5)
  let q := recF b 92
  let q36 := fMul (fInt 3600) q
  let margin := fMul (s.profF 0x2600 0x20 10) sig
  let sd := fSub (fMin x scc) margin
  let sc := fAdd (fMax x scc) margin
  let eta := s.profF pi 0x05 10000
  let qn := s.profF pi 0x02 1000
  let drd := derate temp (s.rdI 16 li 0x09) (s.rdI 16 li 0x0A) (s.rdI 16 li 0x0B) (s.rdI 16 li 0x0C)
  let drc := derate temp (s.rdI 16 li 0x05) (s.rdI 16 li 0x06) (s.rdI 16 li 0x07) (s.rdI 16 li 0x08)
  let cons := consOf b
  let one (dis : Bool) (h : Nat) : Nat × F32 × F32 × Bool :=
    let th := fInt ([2, 10, 30, 300].getD h 2 : Nat)
    let ef := fExp (f32Neg (fDiv th tauf))
    let ed := fExp (f32Neg (fDiv th taud))
    let rdyn := fAdd (fAdd (recF b 88) (fMul rf (fSub fOne ef))) (fMul rd (fSub fOne ed))
    let vrel := fAdd (fAdd (fAdd ocv (fMul mm (recF b 44))) (fMul (recF b 36) ef)) (fMul (recF b 40) ed)
    let kq := fDiv (fMul slope th) q36
    let rsum := fAdd rdyn (if dis then kq else fMul eta kq)
    let iv := if dis then fDiv (fSub vrel (s.profF li 0x01 10000)) rsum else fDiv (fSub (s.profF li 0x02 10000) vrel) rsum
    let is_ := if dis then fDiv (fMul q36 (fSub sd (s.sLo pi))) th else fDiv (fMul q36 (fSub (s.sHi pi) sc)) (fMul eta th)
    let ir := fMul (s.profF li (if dis then 0x03 else 0x04) 1000) qn
    let i := fMul (fMax fZero (fMin (fMin iv is_) ir)) (if dis then drd else drc)
    let zero := if dis then bit cons 5 else bit cons 4
    let ma := if zero then 0 else (max 0 (min 4294967295 (f32Floor (fMul i (fInt 1000))))).toNat
    (ma, vrel, rsum, f32Le is_ iv && f32Le is_ ir && f32Lt fZero margin)
  let all := (List.range 4).map (one true) ++ (List.range 4).map (one false)
  { el with lims := all.map (·.1), vrel := all.map (·.2.1), rsum := all.map (·.2.2.1),
            sigma := maskOf 8 (fun k => (all.getD k (0, 0, 0, false)).2.2.2),
            thermal := maskOf 8 (fun k => f32Lt (if k < 4 then drd else drc) fOne) }

/-! ## Temperature (R259) -/

/-- Temperature channel `c` of a slot; none where it is invalid. -/
def slotTemp (b : List Byte) (c : Nat) : Option Int :=
  let v := beAt b (32 + 2 * c) 2
  if v == 0x8000 then none else some (toInt 16 v)

def slotTemps (b : List Byte) : List Int := (List.range 4).filterMap (slotTemp b)

/-- The element's temperature and whether it is substituted. -/
def Chip.tempOf (s : Chip) (b : List Byte) (e : Nat) (mean : Int) : Int × Bool :=
  let c := bits (s.rd 0x2800 0x0B) (2 * e + 1) (2 * e)
  match slotTemp b c with
  | some t => (t, false)
  | none =>
    let near := ([1, 2, 3].flatMap (fun d => (if d ≤ c then [c - d] else []) ++ (if c + d < 4 then [c + d] else []))).findSome?
      (slotTemp b)
    match near with
    | some t => (t, true)
    | none => (mean, true)

/-- Mean of the string's valid slice temperatures of the tick, those of its KH2 among them. -/
def Chip.meanTemp? (s : Chip) (n : Nat) : Option Int :=
  let ts := ((s.ksOf n ++ (s.headOf n).toList).filter (fun x => s.freshSlot x.1 x.2)).flatMap (fun x => slotTemps (s.slotAt x.1 x.2))
  if ts.isEmpty then none else some ((ts.foldl (· + ·) 0) / ts.length)

/-- The same for the estimator. R259 states none where the string has none: a free value where a fresh slot needs it (log entry
114). -/
def Chip.meanTemp (s : Chip) (n : Nat) : Int × Chip :=
  match s.meanTemp? n with
  | some t => (t, s)
  | none =>
    if (s.ksOf n).any (fun x => s.freshSlot x.1 x.2) then
      let (v, s) := s.draw
      (toInt 16 v, s)
    else (0, s)

/-! ## Disagreement (R271, R275) -/

/-- KS16 positions of a string whose slice was last admitted there and that no port reaches: their elements are stale (R262). -/
def Chip.cutKs (s : Chip) (n : Nat) : List (Nat × Nat) :=
  match s.headOf n with
  | none => []
  | some (r, _) => ((s.positionsOf n).filter (fun p =>
      s.herdState r p == 4 && s.herdType r p == 1 && (s.hrd (r * 64 + p)).state == 2)).map (fun p => (r, p))

/-- Their elements, which go on from what they hold where they come back in time (R257). -/
def Chip.cutElems (s : Chip) (n : Nat) : List Nat := (s.cutKs n).flatMap (fun x => (List.range 16).map (fun e => x.1 * 1024 + x.2 * 16 + e))

/-- Does an element of the string have DISAGREE set? -/
def Chip.anyDisagree (s : Chip) (n : Nat) : Bool :=
  (s.ksOf n ++ s.cutKs n).any (fun x => (List.range 16).any (fun e => bit (consOf (s.fastRec (x.1 * 1024 + x.2 * 16 + e))) 12))

/-- The string's DISAGREE ends with that of its last element. -/
def Chip.dropDisagree (s : Chip) (n : Nat) : Chip :=
  let s := (s.wrBit (0x2840 + n) 0x0E 3 false).setEs n { s.es n with disAt := none }
  s.wrBit 0x2800 0x01 3 ((List.range 32).any (fun n => s.rdBit (0x2840 + n) 0x0E 3))

/-- The string's DISAGREE follows its elements'; 0x4005 when the last one clears. -/
def Chip.disagreeShown (s : Chip) (n cause : Nat) : Chip :=
  if s.rdBit (0x2840 + n) 0x0E 3 && !s.anyDisagree n then (s.dropDisagree n).post 0x4005 n (le 1 cause) else s

/-! ## Initialisation (R255, R256) -/

/-- Operating time 1040:01. -/
def Chip.optime (s : Chip) : Nat := s.rd 0x1040 0x01

/-- Does the initialisation of an element use its measured voltage: method "OCV", and "profile" below C/100 (R255)? -/
def Chip.initByOcv (s : Chip) (n g : Nat) (inow : Int) : Bool :=
  !(bit (leAt (s.slowRec g) 6 2) 0 && (s.el g).want != 4) || decide (100 * inow.natAbs < s.qnom n)

/-- Re-anchor an element on its s and the counter of the tick: the counter's SoC is the filter's, and no difference is left (R272). -/
def Chip.anchorElem (s : Chip) (n g : Nat) : Chip :=
  let b := s.fastRec g
  let c := putBit (putBit (putBit (consOf b) 13 false) 12 false) 11 false
  let ok := !bit c 14 && (s.el g).sinceGate == 16
  let b := splice (putF b 96 (recF b 32)) 100 (le 8 (s.rd (0x2840 + n) 0x03) ++ le 4 0)
  let b := splice (splice b 4 (le 2 (s.usable (s.profIdx n) (recF b 32)))) 18 (le 2 (putBit c 0 ok))
  (s.setFast g b).setEl g { s.el g with anchorDue := false }

/-- Initialise an element, from the measured voltage where the method uses it. Cause 2 is a change of profile, 4 a changed identity. The
counter has a new anchor, so a DISAGREE of the element ends with it (0x4005 with cause re-anchor: DESIGN CHOICE, log entry 134). -/
def Chip.initElem (s : Chip) (n g : Nat) (inow : Int) (v : Option Nat) (t : Int × Bool) (derived : Bool) : Chip :=
  let pi := s.profIdx n
  let el := s.el g
  let b0 := s.fastRec g
  let slow := s.slowRec g
  let saved := bit (leAt slow 6 2) 0 && el.want != 4
  let small := decide (100 * inow.natAbs < s.qnom n)
  let tf := centi t.1
  let sig0 := s.profSigma0 pi
  let ocvS := s.ocvInverse pi (f32OfFrac ((v.getD 0 : Nat) : Int) 10000) tf
  let change := el.want == 2 && b0 != []
  let (meth, x, h, sig) :=
    if !saved then (1, ocvS, fZero, sig0)
    else if change then
      if small then (3, ocvS, fZero, fMax sig0 (fSqrt (recF b0 48)))
      else (3, recF b0 32, recF b0 44, fMax sig0 (fSqrt (recF b0 48)))
    else if small then (1, ocvS, fZero, sig0)
    else
      let hrs := f32OfFrac ((s.optime : Int) - leAt slow 8 4) 3600
      (2, f32OfFrac (leAt slow 12 2) 50000, f32OfFrac (toInt 16 (leAt slow 16 2)) 32767,
        fMin sig0 (fAdd (f32OfFrac (leAt slow 14 2) 50000) (fMul (f32OfFrac 2 100) hrs)))
  let q := s.capacityOf g slow
  let rs := fMul (s.parAt pi 0 x tf) (recF slow 320)
  let cntA := s.rd (0x2840 + n) 0x03
  let b := if b0 == [] then zeros 128 else b0
  let b := splice b 18 (le 2 (2 ^ 14 + 2 ^ 13))
  let b := splice b 29 (le 1 0)
  let b := putF (putF (putF (putF b 32 x) 36 fZero) 40 fZero) 44 h
  let b := putCov b (mdiag (fun i => if i = 0 then fMul sig sig else if i = 3 then fOne else f32OfFrac 1 10000))
  let b := putF (putF (putF b 88 rs) 92 q) 96 x
  let b := splice b 100 (le 8 cntA ++ le 4 0)
  let i := fSub (f32OfFrac inow 1000) (fMul (s.es n).bias (f32OfFrac 1 1000))
  let b := putF b 112 i
  let b := splice b 116 (le 4 (cntA % 2 ^ 32) ++ le 4 (s.ticks % 2 ^ 32) ++ le 4 0)
  let (fi, fo) := if b0 == [] then (s.rd (0x2920 + n) 0x0F, s.rd (0x2920 + n) 0x10) else (el.foldIn, el.foldOut)
  let el := { el with foldIn := fi, foldOut := fo,
                      tLo := if b0 == [] then t.1 else min el.tLo t.1, tHi := if b0 == [] then t.1 else max el.tHi t.1 }
  let el := { el with want := 0, updated := false, sinceGate := 16, reacq := false, nuPrev := fZero, wait := 0, anchorDue := false
                      y := fAdd (fAdd (s.ocvAt pi x tf).1 (fMul (s.parAt pi 5 x tf) h)) (fMul rs i) }
  let b := s.derive n b cntA ⟨t.1, t.2, v, fZero, false, false, false, derived⟩ el
  let el := s.limits n b cntA el
  (((s.setFast g b).setEl g el).disagreeShown n 2).post 0x4001 (g / 1024) (le 1 (g / 16 % 64) ++ le 1 (g % 16) ++ le 1 meth)

/-! ## The update (R258–R263) -/

/-- The voltage an element is updated with: its own, the substitute beside an open tap with the partner's modelled
voltage of the tick before (R260), or none. -/
def Chip.measured? (s : Chip) (r p e w : Nat) (b : List Byte) : Option (F32 × Nat × Bool) :=
  let own := if slotValid b e && !bit w (48 + e) then some (slotCode b e) else none
  let partner := if 1 ≤ e && bit w e then some (e - 1) else if e < 15 && bit w (e + 1) then some (e + 1) else none
  if bit w 0 && e == 0 || bit w 16 && e == 15 then none
  else match partner with
    | none => own.map (fun c => (f32OfFrac (Int.ofNat c) 10000, c, false))
    | some q =>
      match own, (if slotValid b q && !bit w (48 + q) then some (slotCode b q) else none) with
      | some c, some d =>
        let y := (Map.read {} s.elemOld (r * 1024 + p * 16 + q) : Elem).y
        let v := fSub (f32OfFrac ((c + d : Nat) : Int) 10000) y
        some (v, (fRound (fMul v (fInt 10000)) 1 65534).toNat, true)
      | _, _ => none

def f32Sign (x : F32) : F32 := if f32Lt fZero x then fOne else if f32Lt x fZero then f32Neg fOne else fZero

/-- An element that must be initialised again (R261): event 0x400D and REACQ. -/
def Chip.reinit (s : Chip) (g cause : Nat) : Chip :=
  let s := if cause = 1 then s else s.setEl g { s.el g with want := 3 }
  (s.flag 0x2800 0x01 7).post 0x400D (g / 1024) (le 1 (g / 16 % 64) ++ le 1 (g % 16) ++ le 1 cause)

/-- A stale result (R70, R262): STALE is set and STALEAGE counts, saturating; no limits of this tick, which is one without a gated
update (R271). -/
def Chip.markStale (s : Chip) (g : Nat) : Chip :=
  let b := s.fastRec g
  let s := s.setEl g { s.el g with updated := false, sinceGate := min 16 ((s.el g).sinceGate + 1) }
  if b == [] then s.setEl g { s.el g with wait := min 255 ((s.el g).wait + 1) }
  else s.setFast g (splice (splice b 18 (le 2 (putBit (consOf b) 15 true))) 28 (le 1 (min 255 (leAt b 28 1 + 1))))

/-- The pseudocode of R258 for one element with a fresh slot. -/
def Chip.updateElem (s : Chip) (n g : Nat) (inowMa : Int) (vm : Option (F32 × Nat × Bool)) (timed : Bool) (t : Int × Bool)
    (derived : Bool) : Chip :=
  let pi := s.profIdx n
  let b := s.fastRec g
  let el := s.el g
  let cntA := s.rd (0x2840 + n) 0x03
  let bias := (s.es n).bias
  let k := s.ticks
  let dtMs : Nat := ((k + 2 ^ 32 - leAt b 120 4) % 2 ^ 32) * s.clk.p
  let dt := f32OfFrac (Int.ofNat dtMs) 1000
  let milli := f32OfFrac 1 1000
  let iavg := fSub (fDiv (f32OfFrac (toInt 32 (cntA + 2 ^ 32 - leAt b 116 4)) 1000000) dt) (fMul bias milli)
  let inow := fSub (f32OfFrac inowMa 1000) (fMul bias milli)
  let tf := centi t.1
  let x0 := recF b 32
  let q := fMul (recF b 92) (fInt 3600)
  let par (i : Nat) : F32 := s.parAt pi i x0 tf
  let (rs0, rf, rd, mm) := (par 0, par 1, par 3, par 5)
  let af := fExp (f32Neg (fDiv dt (par 2)))
  let ad := fExp (f32Neg (fDiv dt (par 4)))
  let gamma := BitVec.ofNat 32 (s.rd pi 0x09)
  let ah := fExp (f32Neg (fDiv (fMul (fMul gamma (f32Abs iavg)) dt) q))
  let eta := if f32Lt fZero iavg then s.profF pi 0x05 10000 else fOne
  -- predict
  let x := fAdd x0 (fDiv (fMul (fMul eta iavg) dt) q)
  let v1 := fAdd (fMul af (recF b 36)) (fMul (fMul rf (fSub fOne af)) iavg)
  let v2 := fAdd (fMul ad (recF b 40)) (fMul (fMul rd (fSub fOne ad)) iavg)
  let h := fAdd (fMul ah (recF b 44)) (fMul (fSub fOne ah) (f32Sign iavg))
  let f := mdiag (fun i => if i = 0 then fOne else if i = 1 then af else if i = 2 then ad else ah)
  let pm := madd (mmul (mmul f (covOf b)) (mtr f)) (mdiag (fun i => fMul (s.profQn pi i) dt))
  -- measure
  let (ocv, slope) := s.ocvAt pi x tf
  let rs := recF b 88
  let y := fAdd (fAdd (fAdd (fAdd ocv (fMul mm h)) v1) v2) (fMul rs inow)
  let nu := match vm with | some v => fSub v.1 y | none => fZero
  let hr (i : Nat) : F32 := if i = 0 then slope else if i = 3 then mm else fOne
  let sv := s.profF pi 0x0B 1000000
  let tap := match vm with | some v => v.2.2 | none => false
  let sv2 := fMul (fMul sv sv) (if tap && !el.reacq then fInt 4 else fOne)
  let ph := (List.range 4).map (fun i => dot4 (fun j => fMul (mget pm i j) (hr j)))
  let S := fAdd (dot4 (fun i => fMul (hr i) (ph.getD i 0))) sv2
  let allowed := vm.isSome && timed
  let within := f32Le (f32Abs nu) (fMul (fInt 6) (fSqrt S))
  let upd := allowed && within
  let gated := allowed && !within
  -- correct
  let kg := (List.range 4).map (fun i => fDiv (ph.getD i 0) S)
  let kgi (i : Nat) : F32 := kg.getD i 0
  let cor (i : Nat) (z : F32) : F32 := if upd then fAdd z (fMul (kgi i) nu) else z
  let a := mat4 (fun i j => fSub (if i = j then fOne else fZero) (fMul (kgi i) (hr j)))
  let pj := madd (mmul (mmul a pm) (mtr a)) (mat4 (fun i j => fMul (fMul (kgi i) sv2) (kgi j)))
  let pm := if upd then pj else pm
  let (x, v1, v2, h) := (cor 0 x, cor 1 v1, cor 2 v2, fClamp (cor 3 h) (f32Neg fOne) fOne)
  -- resistance (R263)
  let di := fSub inow (recF b 112)
  let step := f32Le (fMul (s.profF 0x2800 0x08 1000) (s.profF pi 0x02 1000)) (f32Abs di)
  let learn := step && el.updated && upd
  let wgt := fInt (2 ^ s.rd 0x2800 0x09 : Nat)
  let rsobs := fAdd rs (fDiv (fSub nu el.nuPrev) di)
  let rsNew := if learn then fClamp (fAdd rs (fDiv (fSub rsobs rs) wgt)) (fMul (f32OfFrac 1 4) rs0) (fMul (fInt 4) rs0) else rs
  -- the state must be finite, S positive and the diagonal of P not negative (R261)
  let state := [x, v1, v2, h] ++ pm.flatMap id
  let bad := if state.any (fun z => !f32IsFinite z) then 2 else if !f32Lt fZero S then 3
    else if (List.range 4).any (fun i => f32Lt (mget pm i i) fZero) then 4 else 0
  if bad ≠ 0 then (s.markStale g).reinit g bad
  else
    -- gated ticks are consecutive where the tick before, or at half rate the one before that, was the last update
    let gap := if s.estRuns (g / 1024) (g / 16 % 64) 0 && s.estRuns (g / 1024) (g / 16 % 64) 1 then 1 else 2
    let run := if (k + 2 ^ 32 - leAt b 120 4) % 2 ^ 32 ≤ gap then leAt b 29 1 else 0
    let gates := if gated then min 255 (run + 1) else 0
    let reacq := gates == 16
    let sig0 := s.profSigma0 pi
    let pm := if reacq then mat4 (fun i j => if i = 0 && j = 0 then fMul sig0 sig0 else mget pm i j) else pm
    let b := putF (putF (putF (putF b 32 x) 36 v1) 40 v2) 44 h
    let b := putF (putCov b pm) 88 rsNew
    let b := splice (putF b 112 inow) 116 (le 4 (cntA % 2 ^ 32) ++ le 4 (k % 2 ^ 32))
    let b := splice b 29 (le 1 (if reacq then 0 else gates))
    let el := { el with
      nuPrev := nu, updated := upd, y := y
      sinceGate := if gated then 0 else min 16 (el.sinceGate + 1)
      reacq := if reacq then true else if upd then false else el.reacq
      rsSum := if learn then fAdd el.rsSum (fDiv rsNew rs0) else el.rsSum
      rsN := if learn then el.rsN + 1 else el.rsN }
    let b := s.derive n b cntA ⟨t.1, t.2, vm.map (·.2.1), nu, !upd, gated, tap, derived⟩ el
    let el := s.limits n b cntA el
    let ti := t.1
    let el := { el with tLo := min el.tLo ti, tHi := max el.tHi ti }
    let es := s.es n
    let s := if upd then s.setEs n { es with sum := fAdd es.sum (fMul q (fMul (kgi 0) nu)), cnt := es.cnt + 1 } else s
    let s := (s.setFast g b).setEl g el
    let s := if el.anchorDue then (s.anchorElem n g).disagreeShown n 2 else s
    if reacq then s.reinit g 1 else s

/-- The fast records as they are published: an admitted element that is not initialised yet shows STALE and its STALEAGE (R262,
R273). -/
def Chip.fastShown (s : Chip) : Map (List Byte) :=
  s.elem.foldl (fun m (x : Nat × Elem) =>
    if x.2.wait == 0 || s.fastRec x.1 != [] then m
    else Map.write [] m x.1 (splice (splice (zeros 128) 18 (le 2 (2 ^ 15))) 28 (le 1 x.2.wait))) s.fast

/-- True SoC and temperature of every element's record count towards the hour's means (R296). -/
def Chip.sumHours (s : Chip) : Chip :=
  s.fast.foldl (fun s x =>
    let el := s.el x.1
    s.setEl x.1 { el with hourSoc := el.hourSoc + leAt x.2 6 2, hourT := el.hourT + toInt 16 (leAt x.2 22 2), hourN := el.hourN + 1 }) s

/-- The elements of one position in the fast tier: initialise, update or mark stale, as under a kernel that is disabled (R410). -/
def Chip.estimatePos (s : Chip) (n r p : Nat) (inow mean : Int) (derived : Bool) : Chip :=
  let k := r * 64 + p
  let x := Map.read {} s.slotData k
  let w := s.faultWord r p
  let resident := s.ownKernel n
  let off := !resident && (s.kernelSlot (s.kernelOf n)).isNone
  if !s.freshSlot r p || !s.estRuns r p (s.ticks % 2) || off then (List.range 16).foldl (fun s e => s.markStale (r * 1024 + p * 16 + e)) s
  else if !resident then s
  else
    let sub := (List.range 16).find? (fun e => (s.tempOf x.bytes e mean).2)
    let s := match sub, (s.sus k).tempSub with
      | some e, false => s.post 0x400C r (le 1 p ++ le 1 (bits (s.rd 0x2800 0x0B) (2 * e + 1) (2 * e)))
      | _, _ => s
    let s := s.setSus k { s.sus k with tempSub := sub.isSome }
    (List.range 16).foldl (fun s e =>
      let g := r * 1024 + p * 16 + e
      let b := s.fastRec g
      if s.injected r p e then s.markStale g
      else
        let vm := s.measured? r p e w x.bytes
        let t := s.tempOf x.bytes e mean
        if b == [] || (s.el g).want != 0 || leAt b 28 1 == 255 then
          let v := if x.untimed then none else vm.map (·.2.1)
          if v.isNone && s.initByOcv n g inow then s.markStale g else s.initElem n g inow v t derived
        else s.updateElem n g inow vm (!x.untimed) t derived) s

end Sys2Proof.Machine
end

