-- ==== Sys2Proof/Machine/Can.lean ====
section
/-!
DEFINITION. Sys2Proof/Machine/Can.lean: the CAN ports (18_can_ports): receive rings and queues, mailboxes and
attempts, error states and the lone node, and process data.
-/

namespace Sys2Proof.Machine

def Chip.can (s : Chip) (p : Nat) : CanPort := Map.read {} s.cans p
def Chip.setCan (s : Chip) (p : Nat) (x : CanPort) : Chip := { s with cans := Map.write {} s.cans p x }
def CanPort.box (x : CanPort) (m : Nat) : Mailbox := Map.read {} x.boxes m
def CanPort.setBox (x : CanPort) (m : Nat) (b : Mailbox) : CanPort := { x with boxes := Map.write {} x.boxes m b }
def CanPort.queue (x : CanPort) (q : Nat) : List (List Byte) := Map.read [] x.queues q

/-- Port object 2D1p. -/
def Chip.pd (s : Chip) (p sub : Nat) : Nat := s.rd (0x2D10 + p) sub

/-- Port modes: off, or listening only. -/
def Chip.canOff (s : Chip) (p : Nat) : Bool := s.pd p 0x01 == 0
def Chip.canListens (s : Chip) (p : Nat) : Bool := s.pd p 0x02 == 1
def Chip.busOff (s : Chip) (p : Nat) : Bool := s.pd p 0x0F == 2

/-! ## Receiving (R587–R590) -/

/-- Data bytes that a DLC stands for (R587): up to 8 in a classical frame, up to 64 in CAN FD. -/
def dlcBytes (fd : Bool) (d : Nat) : Nat :=
  if !fd then min d 8 else [0, 1, 2, 3, 4, 5, 6, 7, 8, 12, 16, 20, 24, 32, 48, 64].getD d 64

/-- Entries in use of the ring of 1,024. -/
def CanPort.used (x : CanPort) : Nat :=
  x.ring.length + x.usdo.length + ((List.range 9).map (fun q => (x.queue q).length)).foldl (· + ·) 0

/-- A receive ring entry (R587); byte 7 is written at the disposition. -/
def canEntry (f : CanFrame) (dropped : Bool) (quality time : Nat) : List Byte :=
  let n := if f.rtr then 0 else dlcBytes f.fdf f.dlc
  let id := (if f.ide then 2 ^ 31 else 0) + (if f.rtr then 2 ^ 30 else 0) + (if f.fdf then 2 ^ 29 else 0) +
    (if f.ide then f.ident % 2 ^ 29 else f.ident % 2 ^ 11)
  let fl := (if f.brs then 1 else 0) + (if f.esi then 2 else 0) + (if dropped then 4 else 0) + quality % 4 * 16
  le 4 id ++ le 1 (f.dlc % 16) ++ le 1 n ++ le 1 fl ++ le 1 0 ++ le 8 time ++ fit 64 (f.data.take n)

/-- Put an entry into a queue; one over the limit frees the oldest (R590). -/
def Chip.canEnqueue (s : Chip) (p q : Nat) (e : List Byte) : Chip :=
  let x := s.can p
  let es := x.queue q ++ [e]
  if es.length ≤ s.pd p (0x1E + q) then s.setCan p { x with queues := Map.write [] x.queues q es }
  else ((s.setCan p { x with queues := Map.write [] x.queues q (es.drop 1) }).inc 32 (0x2D20 + p) (0x0A + q)).post 0x8046 p (le 4 q)

/-- The oldest entry of the ring leaves it with disposition `d` (R588). -/
def Chip.canDispose (s : Chip) (p d : Nat) : Chip :=
  let x := s.can p
  match x.ring with
  | [] => s
  | e :: es =>
    let d := if d == 1 && s.rd 0x2C40 0x03 != p then 0xF else if 0xA ≤ d then 0xF else d
    let e := splice e 7 (le 1 d)
    let s := s.setCan p { x with ring := es }
    if d == 0 then s
    else if d == 1 then s.setCan p { s.can p with usdo := (s.can p).usdo ++ [e] }
    else if d == 0xF then s.canEnqueue p 8 e
    else s.canEnqueue p (d - 2) e

/-- What the resident filter program gives an entry (R588); a USDO request is an FD frame with base identifier 0x600 +
sender and the addressed node in data byte 0 (log entry 30). -/
def Chip.residentDisp (s : Chip) (p : Nat) (e : List Byte) : Nat :=
  let id := leAt e 0 4
  if s.rd 0x2C40 0x03 == p && !bit id 31 && !bit id 30 && bit id 29 && bits id 10 7 == 0xC && bits id 6 0 != 0 &&
      leAt e 16 1 == s.rd 0x2C40 0x01 then 1 else 0xF

/-- Slot of the filter image in force: the assignment, or the resident one where that image is disabled (R410). -/
def Chip.canImage (s : Chip) (p : Nat) : Nat :=
  let k := s.rd 0x2E00 (0x10 + p)
  if s.rd (0x2E10 + k) 0x01 == 4 then 6 else k

/-- Number and declared figure of the job of a ring controller, a CAN filter or the recorder that runs image `k` (R411). -/
def Chip.placeFigure (s : Chip) (t k : Nat) : Nat × Nat :=
  if t < 96 then (2000 + (t - 80), imgFig (s.image k) 0x10 0)
  else if t < 100 then (3000 + (t - 96), imgFig (s.image k) 0x20 0)
  else (3100, imgFig (s.image k) 0x30 0)

/-- Registers of a fresh invocation of a Tine outside the lanes that runs image `k` from entry `e`; its CYCLIM is its own effective figure
(R389, R401, R412). -/
def Chip.freshTine (s : Chip) (t : Nat) (k entry : Nat) : Chip :=
  let img := Map.read (imageDefault k) s.images k
  let (no, decl) := s.placeFigure t k
  let x := { Map.read {} s.tines t with run := true, ended := false, bad := false, wait := none, disp := none
                                        job := { image := k, pc := leAt img (28 + 4 * entry) 4, entry := entry, lim := s.effective no decl } }
  { s with tines := Map.write {} s.tines t x }

/-- The filter program goes on with the next entry: the resident one disposes of it, a customer image is invoked. -/
def Chip.canFilter (s : Chip) (p : Nat) : Nat → Chip
  | 0 => s
  | n + 1 =>
    match (s.can p).ring with
    | [] => s
    | e :: _ =>
      if (Map.read {} s.tines (96 + p)).stopped then (s.canDispose p 0xF).canFilter p n
      else if (Map.read {} s.tines (96 + p)).run then s
      else if s.canImage p == 6 then (s.canDispose p (s.residentDisp p e)).canFilter p n
      else s.freshTine (96 + p) (s.canImage p) 0

/-! ## Error states (R594–R596) -/

/-- Put the error state that the counters give, with its event. -/
def Chip.canState (s : Chip) (p : Nat) : Chip :=
  let tec := s.pd p 0x10
  let rec_ := s.pd p 0x11
  let old := s.pd p 0x0F
  let new := if tec > 255 then 2 else if tec ≥ 128 || rec_ ≥ 128 then 1 else 0
  let d := le 2 tec ++ le 2 rec_
  if old == 3 || old == 2 || old == new then s
  else
    let s := s.wr (0x2D10 + p) 0x0F new
    if new == 2 then ((s.inc 32 (0x2D10 + p) 0x16).post 0x8041 p d)
    else if new == 1 then s.post 0x8040 p d
    else s.post 0x8042 p d

/-- Free the oldest entries of a queue until it holds at most `n` (R590). -/
def Chip.canTrim (s : Chip) (p q : Nat) : Nat → Chip
  | 0 => s
  | k + 1 =>
    let x := s.can p
    if (x.queue q).length ≤ s.pd p (0x1E + q) then s
    else (((s.setCan p { x with queues := Map.write [] x.queues q ((x.queue q).drop 1) }).inc 32 (0x2D20 + p) (0x0A + q)).post
      0x8046 p (le 4 q)).canTrim p q k

def Chip.canLimits (s : Chip) (p : Nat) : Chip :=
  (List.range 9).foldl (fun s q => s.canTrim p q ((s.can p).queue q).length) s

/-- A port takes its mode: off, or error-active with both counters at 0 as it comes on (2D1p:0F). -/
def Chip.canPower (s : Chip) (p : Nat) : Chip :=
  let i := 0x2D10 + p
  if s.canOff p then s.wr i 0x0F 3
  else if s.pd p 0x0F == 3 then ((s.wr i 0x0F 0).wr i 0x10 0).wr i 0x11 0
  else s

/-- LONE and single-shot end (R596). -/
def Chip.canNotLone (s : Chip) (p : Nat) : Chip :=
  let s := s.wr (0x2D10 + p) 0x17 0
  if s.rdBit (0x2D10 + p) 0x12 0 then
    let n := (s.can p).loneFails
    ((s.wrBit (0x2D10 + p) 0x12 0 false).setCan p { s.can p with loneFails := 0 }).post 0x8045 p (le 4 n)
  else s

/-- Receive error counter after a frame received (ISO 11898-1): above 127 it is set to a value of 119 to 127. -/
def Chip.recDown (s : Chip) (p : Nat) : Chip :=
  let r := s.pd p 0x11
  if r > 127 then
    let (v, s) := s.draw
    s.wr (0x2D10 + p) 0x11 (119 + v % 9)
  else s.wr (0x2D10 + p) 0x11 (r - 1)

/-- CAN_FRAME_RECEIVED (R587–R589, R596). A CAN FD frame is a form error to a port in mode 1 (R585), which raises the receive error counter
by 1 (ISO 11898-1). -/
def Chip.canFrameReceived (s : Chip) (p : Nat) (f : CanFrame) : Chip :=
  if !s.netUp || s.canOff p || s.busOff p then s
  else if f.fdf && s.pd p 0x01 == 1 then (s.wr (0x2D10 + p) 0x11 (min 0xFFFF (s.pd p 0x11 + 1))).canState p
  else
    let s := ((s.inc 32 (0x2D10 + p) 0x13).recDown p).canNotLone p |>.canState p
    let x := s.can p
    if x.used ≥ 1024 then
      let s := s.inc 32 (0x2D10 + p) 0x15
      let s := if x.dropped then s else s.post 0x8043 p (leList 2 ((List.range 9).map (fun q => (x.queue q).length)))
      s.setCan p { s.can p with dropped := true }
    else
      let e := canEntry f x.dropped (s.rd 0x2200 0x03) s.now
      (s.setCan p { x with ring := x.ring ++ [e], dropped := false }).canFilter p 1024

def execCanFrameReceived (port : Fin 4) (f : CanFrame) : State → Host.Outcome State Fault Refusal :=
  lift (·.canFrameReceived port f)

/-- HOST_QUEUE_READ (R590): the oldest entries, up to 12; a master frees them. -/
def Chip.hostQueueRead (s : Chip) (m : Master) (p q : Nat) : Chip :=
  let x := s.can p
  let es := (x.queue q).take 12
  let s := if mayWrite m then s.setCan p { x with queues := Map.write [] x.queues q ((x.queue q).drop 12) } else s
  s.answer .ok 0 (es.flatMap (fun e => e))

def execHostQueueRead (m : Master) (port : Fin 4) (q : Fin 9) : State → Host.Outcome State Fault Refusal :=
  lift (·.hostQueueRead m port q)

/-! ## Mailboxes (R591–R593) -/

def Chip.boxOf (s : Chip) (p m : Nat) : Mailbox := (s.can p).box m

/-- Put a mailbox with its state as 2D4p shows it. -/
def Chip.setBoxOf (s : Chip) (p m : Nat) (b : Mailbox) : Chip :=
  (s.setCan p ((s.can p).setBox m b)).wr (0x2D40 + p) (m + 1) b.state

/-- Offer the lowest-numbered pending mailbox: its attempt begins (R591; log entry 31). -/
def Chip.canOffer (s : Chip) (p : Nat) : Chip :=
  let x := s.can p
  if x.attempt.isSome || !s.netUp || s.canOff p || s.canListens p || s.busOff p then s
  else s.setCan p { x with attempt := (List.range 32).find? (fun m => (x.box m).state == 1) }

/-- Queue a record in a free mailbox. -/
def Chip.boxQueue (s : Chip) (p m : Nat) (rec : List Byte) : Chip :=
  (s.setBoxOf p m { state := 1, data := rec }).canOffer p

/-- The device queues a frame of its own; a mailbox still in its attempt takes it when the attempt ends (R597). -/
def Chip.deviceQueue (s : Chip) (p m : Nat) (rec : List Byte) : Chip :=
  let b := s.boxOf p m
  if b.state == 1 || b.state == 2 then s.setBoxOf p m { b with next := some rec } else s.boxQueue p m rec

/-- A mailbox's last attempt has ended in state `st`; a record that waits for it is queued. -/
def Chip.boxEnd (s : Chip) (p m st : Nat) : Chip :=
  let b := s.boxOf p m
  match b.next with
  | some rec => s.setBoxOf p m { state := 1, data := rec }
  | none => s.setBoxOf p m { b with state := st, cancel := false }

/-- A record with a length that a DLC encodes (R592). -/
def recordOk (mode : Nat) (rec : List Byte) : Bool :=
  let id := leAt rec 0 4
  let n := leAt rec 4 1
  rec.length == 72 && !bit id 30 && (!bit id 29 || mode != 1) &&
  (if bit id 29 then [0, 1, 2, 3, 4, 5, 6, 7, 8, 12, 16, 20, 24, 32, 48, 64].contains n else n ≤ 8)

/-- MAILBOX_WRITE (R592), its checks in the order of R570. -/
def Chip.mailboxWrite (s : Chip) (m : Master) (p box : Nat) (rec : List Byte) : Chip :=
  let b := s.boxOf p (box + 10)
  if !mayWrite m then s.answer .role
  else if rec.length ≠ 72 then s.answer .type
  else if !recordOk (s.pd p 0x01) rec then s.answer .range
  else if b.state == 1 || b.state == 2 then s.answer .busy
  else if s.canOff p || s.canListens p then s.answer .state
  else (s.boxQueue p (box + 10) rec).answer .ok

def execMailboxWrite (m : Master) (port : Fin 4) (box : Fin 22) (bs : List Byte) : State → Host.Outcome State Fault Refusal :=
  lift (·.mailboxWrite m port box bs)

/-- Register a cancel of one mailbox (R593): without an attempt of its own it is withdrawn at once. -/
def Chip.cancelBox (s : Chip) (p m : Nat) : Chip :=
  let b := s.boxOf p m
  if b.state == 1 then
    if (s.can p).attempt == some m then s.setBoxOf p m { b with cancel := true } else s.boxEnd p m 4
  else if b.state == 2 then s.setBoxOf p m { b with cancel := true }
  else s

/-- MAILBOX_CANCEL (R593): the mask names mailboxes 10–31. -/
def Chip.mailboxCancel (s : Chip) (m : Master) (p mask : Nat) : Chip :=
  if !mayWrite m then s.answer .role
  else ((bitsSet 32 mask).foldl (fun s b => if 10 ≤ b then s.cancelBox p b else s) s).answer .ok

def execMailboxCancel (m : Master) (port : Fin 4) (mask : Word) : State → Host.Outcome State Fault Refusal :=
  lift (·.mailboxCancel m port mask.toNat)

/-- The start of frame of a reference message is its reference mark (R527): a moment of the tick in progress that the model's
clock does not resolve (log entry 59). -/
def Chip.markSof (s : Chip) (p m : Nat) : Chip :=
  if m ≠ 0 then s
  else
    let (v, s) := s.draw
    s.setCan p { s.can p with refMark := (s.clk.edge + v % s.periodNs) % 2 ^ 48 }

/-- ARBITRATION_WON (R593): the frame completes even if a cancel is registered. -/
def execArbitrationWon (port : Fin 4) : State → Host.Outcome State Fault Refusal :=
  lift (fun s => match (s.can port).attempt with
    | some m =>
      if (s.boxOf port m).state == 1 then (s.setBoxOf port m { s.boxOf port m with state := 2 }).markSof port m else s
    | none => s)

/-- SINGLE of 2D1p:12: every mailbox transmits single-shot while LONE is set and 2D1p:0D is 1 (R596). -/
def Chip.canSingle (s : Chip) (p : Nat) : Bool := s.rdBit (0x2D10 + p) 0x12 0 && s.pd p 0x0D == 1

/-- 2D1p:12: LONE, SINGLE, and DROPPING while the ring has no free entry (R599). -/
def Chip.canStatus (s : Chip) (p : Nat) : Nat :=
  putBit (putBit (s.pd p 0x12) 1 (s.canSingle p)) 2 (decide (1024 ≤ (s.can p).used))

/-- Does a failed attempt of a mailbox end it (R592, R596)? -/
def Chip.oneShot (s : Chip) (p m : Nat) : Bool := bit (leAt (s.boxOf p m).data 5 1) 0 || s.canSingle p

/-- The attempt in progress has failed by an error: retried, FAILED or CANCELLED (R592, R593). -/
def Chip.attemptFailed (s : Chip) (p m : Nat) : Chip :=
  let b := s.boxOf p m
  let s := s.setCan p { s.can p with attempt := none, loneFails := (s.can p).loneFails + (if s.rdBit (0x2D10 + p) 0x12 0 then 1 else 0) }
  let s := if b.cancel then s.boxEnd p m 4
    else if s.oneShot p m then s.boxEnd p m 6
    else s.setBoxOf p m { b with state := 1 }
  s.canOffer p

/-- ARBITRATION_LOST (R593): the mailbox stays pending, or becomes CANCELLED. -/
def execArbitrationLost (port : Fin 4) : State → Host.Outcome State Fault Refusal :=
  lift (fun s => match (s.can port).attempt with
    | some m =>
      let b := s.boxOf port m
      let s := s.setCan port { s.can port with attempt := none }
      (if b.cancel then s.boxEnd port m 4 else s.setBoxOf port m { b with state := 1 }).canOffer port
    | none => s)

/-- CAN_TX_COMPLETE (R592, R593, R595, R596): SENT, or TOOLATE where a cancel came. -/
def Chip.canTxComplete (s : Chip) (p : Nat) : Chip :=
  match (s.can p).attempt with
  | none => s
  | some m =>
    let b := s.boxOf p m
    let x := s.can p
    let s := s.setCan p { x with attempt := none, refSent := if m = 0 then x.refMark else x.refSent }
    let s := s.boxEnd p m (if b.cancel then 5 else 3)
    let s := (s.inc 32 (0x2D10 + p) 0x14).wr (0x2D10 + p) 0x10 (s.pd p 0x10 - 1)
    ((s.canNotLone p).canState p).canOffer p

def execCanTxComplete (port : Fin 4) : State → Host.Outcome State Fault Refusal := lift (·.canTxComplete port)

/-- CAN_ACK_ERROR (R594–R596): the transmit error counter rises by 8 while the port is not error-passive; the ACK run
reaching the retry limit sets LONE. -/
def Chip.canAckError (s : Chip) (p : Nat) : Chip :=
  match (s.can p).attempt with
  | none => s
  | some m =>
    let s := if s.pd p 0x0F == 1 then s else s.add 16 (0x2D10 + p) 0x10 8
    let s := (s.canState p).wr (0x2D10 + p) 0x17 (min 255 (s.pd p 0x17 + 1))
    let s := if s.pd p 0x17 ≥ s.pd p 0x0C && !s.rdBit (0x2D10 + p) 0x12 0 then
        (s.wrBit (0x2D10 + p) 0x12 0 true).post 0x8044 p (le 1 (s.pd p 0x17))
      else s
    s.attemptFailed p m

def execCanAckError (port : Fin 4) : State → Host.Outcome State Fault Refusal := lift (·.canAckError port)

/-- CAN_ERROR_FRAME (R594): a bus error changes the counters by what ISO 11898-1 gives; one that raises the transmit
counter ends the attempt in progress. -/
def Chip.canErrorFrame (s : Chip) (p tx rx : Nat) : Chip :=
  if s.canOff p || s.busOff p then s
  else
    let s := (s.wr (0x2D10 + p) 0x10 (min 0xFFFF (s.pd p 0x10 + tx))).wr (0x2D10 + p) 0x11 (min 0xFFFF (s.pd p 0x11 + rx))
    let s := s.canState p
    match (s.can p).attempt with
    | some m => if tx = 0 then s else s.attemptFailed p m
    | none => s

def execCanErrorFrame (port : Fin 4) (txInc rxInc : Nat) : State → Host.Outcome State Fault Refusal :=
  lift (·.canErrorFrame port txInc rxInc)

/-- BUS_OFF_RECOVERY (R585): the port is error-active again with both counters at 0. -/
def execBusOffRecovery (port : Fin 4) : State → Host.Outcome State Fault Refusal :=
  lift (fun s =>
    if s.busOff port then
      let i := 0x2D10 + port.val
      ((((s.wr i 0x10 0).wr i 0x11 0).wr i 0x0F 0).post 0x8042 port (le 2 0 ++ le 2 0)).canOffer port
    else s)

/-! ## Process data (R597) -/

/-- A value in units of `u`, rounded down and held at 0xFFFFFF. -/
def uint24 (v u : Nat) : List Byte := le 3 (min 0xFFFFFF (v / u))

/-- The record of a device frame: base identifier, classical or FD. -/
def deviceRecord (ident : Nat) (fd brs : Bool) (data : List Byte) : List Byte :=
  le 4 (ident % 2048 + (if fd then 2 ^ 29 else 0)) ++ le 1 data.length ++ le 1 (if brs then 2 else 0) ++ le 2 0 ++ fit 64 data

/-- Limits of the section: discharge and charge currents, and powers, of horizon k (2600:01–10). -/
def Chip.limI (s : Chip) (charge : Bool) (k : Nat) : Nat := s.rd 0x2600 ((if charge then 0x05 else 0x01) + k)
def Chip.limP (s : Chip) (charge : Bool) (k : Nat) : Nat := s.rd 0x2600 ((if charge then 0x0D else 0x09) + k)

/-- The classical frame k of a set. -/
def Chip.pdFrame (s : Chip) (k : Nat) : List Byte :=
  let fl := s.rd 0x2600 0x11
  let b7 := s.ticks % 64 + (if bit fl 8 then 64 else 0)
  if k < 4 then uint24 (s.limI false k) 100 ++ uint24 (s.limI true k) 100 ++ le 1 (fl % 256) ++ le 1 b7
  else if k < 8 then uint24 (s.limP false (k - 4)) 100 ++ uint24 (s.limP true (k - 4)) 100 ++ le 1 (fl % 256) ++ le 1 b7
  else le 2 (s.rd 0x2800 0x10) ++ le 2 (s.rd 0x2800 0x11) ++ le 1 s.mode.code ++ le 1 (s.rd 0x2600 0x12) ++ le 1 (fl % 256) ++ le 1 b7

/-- The CAN FD frame of a set. -/
def Chip.pdFdFrame (s : Chip) : List Byte :=
  let h := List.range 4
  h.flatMap (fun k => uint24 (s.limI false k) 100) ++ h.flatMap (fun k => uint24 (s.limI true k) 100) ++
  h.flatMap (fun k => uint24 (s.limP false k) 100) ++ h.flatMap (fun k => uint24 (s.limP true k) 100) ++
  le 2 (s.rd 0x2600 0x11) ++ le 2 (s.rd 0x2800 0x10) ++ le 2 (s.rd 0x2800 0x11) ++ le 1 s.mode.code ++
  le 1 (s.rd 0x2600 0x12) ++ le 8 s.ticks

/-- PROCESS_DATA_SET (R597): the unsent frames of the previous set are cancelled and counted, and the set is queued. -/
def Chip.processDataSet (s : Chip) (p : Nat) : Chip :=
  if s.pd p 0x18 ≠ 1 || s.canOff p || !s.netUp then s
  else
    let unsent := ((List.range 10).drop 1).filter (fun m => (s.boxOf p m).state == 1 || (s.boxOf p m).state == 2)
    let s := unsent.foldl (fun s m => (s.setBoxOf p m { s.boxOf p m with next := none }).cancelBox p m) s
    let s := if unsent.isEmpty then s
      else (s.add 32 (0x2D10 + p) 0x1C unsent.length).post 0x8047 p (le 4 unsent.length)
    let id := s.pd p 0x1A
    if s.pd p 0x19 == 1 then
      if s.pd p 0x01 ≥ 2 then s.deviceQueue p 1 (deviceRecord id true (s.pd p 0x01 == 3) s.pdFdFrame) else s
    else (List.range 9).foldl (fun s k => s.deviceQueue p (k + 1) (deviceRecord (id + k) false false (s.pdFrame k))) s

def execProcessDataSet (port : Fin 4) : State → Host.Outcome State Fault Refusal := lift (·.processDataSet port)

end Sys2Proof.Machine
end

