-- ==== Sys2Proof/Machine/Rest.lean ====
section
/-!
DEFINITION. Sys2Proof/Machine/Rest.lean: rest requests and the rest state of a string (08_learning R277–R290), as far as
several commands share them.
-/

namespace Sys2Proof.Machine

/-- RO bits of the learning status (2900:01): RESTREQ, LEARNSUSP, UNREFRESHED of the strings, IDFAIL of the positions. -/
def Chip.showLearning (s : Chip) : Chip :=
  let any (f : Nat → Bool) : Bool := (List.range 32).any f
  let s := s.wrBit 0x2900 0x01 0 (any (fun n => s.rd (0x2920 + n) 0x06 != 0))
  let s := s.wrBit 0x2900 0x01 1 (any (fun n => s.rdBit (0x2920 + n) 0x0C 0))
  let s := s.wrBit 0x2900 0x01 2 (any (fun n => s.rdBit (0x2920 + n) 0x0C 1))
  s.wrBit 0x2900 0x01 4 ((List.range 16).any (fun r => (List.range 64).any (fun p => s.rd (0x2960 + r) (0x41 + p) == 5)))

/-! ## Rest-point logs (R280, R299) -/

/-- Entry `i` of the element log RPLOG. -/
def rpAt (b : List Byte) (i : Nat) : List Byte := (b.drop (768 + 16 * i)).take 16

/-- Index of the newest entry of RPLOG by operating time; none where nothing is logged (a rest id of 0, log entry 45). -/
def rpNewest (b : List Byte) : Option Nat :=
  ((List.range 8).filter (fun i => leAt (rpAt b i) 0 2 != 0)).foldl (fun m i =>
    match m with
    | none => some i
    | some j => if leAt (rpAt b j) 8 4 < leAt (rpAt b i) 8 4 then some i else m) none

/-- The place of the next entry: a free one, else the oldest. -/
def rpPlace (b : List Byte) : Nat :=
  match (List.range 8).find? (fun i => leAt (rpAt b i) 0 2 == 0) with
  | some i => i
  | none => (List.range 8).foldl (fun m i => if leAt (rpAt b i) 8 4 < leAt (rpAt b m) 8 4 then i else m) 0

/-! ## The requested window (R287) -/

/-- Quiet threshold of a string in whole mA, as it is shown (R277). -/
def Chip.quietMa (s : Chip) (n : Nat) : Nat := s.rd 0x2900 0x02 * s.qnom n / 1000

/-- Mean true SoC of the admitted elements of a string, 0.002 %, and their mean temperature. -/
def Chip.meanTrue (s : Chip) (n : Nat) : Nat :=
  let xs := ((s.elemsOf n).map s.fastRec).filter (· != [])
  if xs.isEmpty then 0 else (xs.map (fun b => leAt b 6 2)).foldl (· + ·) 0 / xs.length
def Chip.meanUsedTemp (s : Chip) (n : Nat) : Int :=
  let xs := ((s.elemsOf n).map s.fastRec).filter (· != [])
  if xs.isEmpty then 2500 else (xs.map (fun b => toInt 16 (leAt b 22 2))).foldl (· + ·) 0 / xs.length

/-- Walk from `i` by `step` while `ok` holds. -/
def extend (ok : Nat → Bool) (step : Nat → Nat) : Nat → Nat → Nat
  | 0, i => i
  | k + 1, i => if step i != i && ok (step i) then extend ok step k (step i) else i

/-- Target interval of true SoC, 0.01 %: around the value nearest the mean at which σ_rp and the distance from every element's newest log
entry suffice, as far as they do; the whole window where there is none. DESIGN CHOICE: P33 is the largest of the string's elements (log
entry 138). -/
def Chip.restTarget (s : Chip) (n : Nat) : Nat × Nat :=
  let pi := s.profIdx n
  let t := centi (s.meanUsedTemp n)
  let lim := s.profF 0x2900 0x08 10000
  let sv := s.profF pi 0x0B 1000000
  let p33 := (s.elemsOf n).foldl (fun m g => fMax m (mget (covOf (s.fastRec g)) 3 3)) fZero
  let lasts := (s.elemsOf n).filterMap (fun g =>
    let b := s.slowRec g
    (rpNewest b).map (fun i => leAt (rpAt b i) 2 2))
  let ok (i : Nat) : Bool :=
    let x := f32OfFrac i 10000
    let m := s.parAt pi 5 x t
    let sig := fDiv (fSqrt (fAdd (fMul sv sv) (fMul (fMul m m) p33))) (f32Abs (s.ocvAt pi x t).2)
    lasts.all (fun l => decide (5 * s.rd 0x2900 0x07 ≤ ((5 * i : Int) - l).natAbs)) && f32Le sig lim
  let m := s.meanTrue n / 5
  match (List.range 10001).findSome? (fun d =>
      if d ≤ m && ok (m - d) then some (m - d) else if m + d ≤ 10000 && ok (m + d) then some (m + d) else none) with
  | none => (0, 10000)
  | some i => (extend ok (· - 1) 10000 i, extend ok (fun j => min 10000 (j + 1)) 10000 i)

/-- The window that a rest request names (R287): duration, current bound and target interval. -/
def Chip.restWindow (s : Chip) (n : Nat) : Chip :=
  let i := 0x2920 + n
  let (lo, hi) := s.restTarget n
  let dur := min 65535 (s.rd 0x2900 0x03 + s.rd 0x2900 0x04)
  (((s.wr i 0x07 dur).wr i 0x08 (s.quietMa n)).wr i 0x09 lo).wr i 0x0A hi

/-- The set of causes of a rest request changes (R286, R287): event 0x4014 with the window; a request that ends names none (log entry
138). -/
def Chip.setRest (s : Chip) (n causes : Nat) : Chip :=
  let i := 0x2920 + n
  if causes == s.rd i 0x06 then s
  else
    let s := s.wr i 0x06 causes
    let s := if causes == 0 then [0x07, 0x08, 0x09, 0x0A].foldl (fun s j => s.wr i j 0) s else s.restWindow n
    (s.showLearning).post 0x4014 n (le 1 causes ++ le 2 (s.rd i 0x07) ++ le 4 (s.rd i 0x08) ++ le 2 (s.rd i 0x09) ++ le 2 (s.rd i 0x0A))

/-- Raise a cause: 0 INTERVAL, 1 SIGMA, 2 DISAGREE, 3 LEARN. After a cancellation none is raised before the next tick edge (R288). -/
def Chip.raiseRest (s : Chip) (n cause : Nat) : Chip :=
  if (s.es n).cancelled then s else s.setRest n (putBit (s.rd (0x2920 + n) 0x06) cause true)

/-- Time since the last verified rest point or, before the first, since the string's admission (R290; for R289 log entry 138). -/
def Chip.restAge (s : Chip) (n : Nat) : Nat :=
  match (s.es n).sinceRest with
  | some t => s.optime - t
  | none => 0

def dayS : Nat := 86400

/-- 292n:05 counts the whole days (R290). -/
def Chip.showRestAge (s : Chip) (n : Nat) : Chip := s.wr (0x2920 + n) 0x05 (min 65535 (s.restAge n / dayS))

/-! ## Rest states (R277–R279, R281) -/

/-- Feedback of the latest KH2 slot shows the string's contacts closed. -/
def Chip.closedFb (s : Chip) (n : Nat) : Bool := s.headSlot n != [] && bits (s.contactor n) 1 0 == 3

/-- VUSED of an element against its relaxation reference, 100 µV. -/
def Chip.relaxation (s : Chip) (g : Nat) : Nat := ((leAt (s.fastRec g) 20 2 : Int) - (s.el g).ref).natAbs

/-- The element with the largest relaxation. -/
def Chip.worstRelaxed (s : Chip) (n : Nat) : Nat :=
  (s.elemsOf n).foldl (fun m g => if s.relaxation m < s.relaxation g then g else m) ((s.elemsOf n).headD 0)

/-- A string leaves rest (R277, R279): 0x4011 from CHECKING with the cause of the last failed check, relaxation before
any (log entry 46). -/
def Chip.toMoving (s : Chip) (n : Nat) : Chip :=
  let i := 0x2920 + n
  let es := s.es n
  let was := s.rd i 0x01
  let s := ((s.wr i 0x01 0).wr i 0x02 0).setEs n { es with quietMs := 0, restCause := 0, restWorst := 0 }
  if was == 2 then
    let (w, d) := if es.restCause == 0 then (s.worstRelaxed n, s.relaxation (s.worstRelaxed n)) else (es.restWorst, es.restRelax)
    s.post 0x4011 n (le 1 (max 1 es.restCause) ++ le 2 w ++ le 4 d)
  else s

/-- One tick of a string's rest state: MOVING, SETTLING and the time quiet. -/
def Chip.restTick (s : Chip) (n : Nat) (est : Bool) : Chip :=
  let i := 0x2920 + n
  let quiet := !s.closedFb n || decide (1000 * (s.rdI 32 (0x2840 + n) 0x05).natAbs < s.rd 0x2900 0x02 * s.qnom n)
  if est || !quiet then
    if s.rd i 0x01 == 0 then s else s.toMoving n
  else if s.rd i 0x01 == 0 then
    let s := (s.elemsOf n).foldl (fun s g =>
      let t := toInt 16 (leAt (s.fastRec g) 22 2)
      s.setEl g { s.el g with tLo := t, tHi := t }) s
    ((s.wr i 0x01 1).wr i 0x02 0).setEs n { s.es n with quietMs := 0 }
  else
    let q := (s.es n).quietMs + s.clk.p
    (s.wr i 0x02 (q / 1000)).setEs n { s.es n with quietMs := q }

end Sys2Proof.Machine
end

