-- ==== Sys2Proof/Machine/Tine.lean ====
section
/-!
DEFINITION. Sys2Proof/Machine/Tine.lean: what every command of a Tine shares (11_tine_engines): its place and its
registers, how an instruction issues and stalls, the end of an invocation, and faults.
-/

namespace Sys2Proof.Machine

/-! ## Places (R387, R391) -/

/-- The number of a Tine among the 101 of the device. -/
def tineNo : TineId → Nat
  | .lane b l => b.val * 5 + l.val
  | .ringCtl r => 80 + r.val
  | .can p => 96 + p.val
  | .recorder => 100

/-- Key of a local address, and of an address of a block's shared SRAM, in State.mem. -/
def localKey (t : TineId) (a : Nat) : Nat := (tineNo t + 1) * 2 ^ 32 + a
def sharedKey (b off : Nat) : Nat := (200 + b) * 2 ^ 32 + off

def Chip.tine (s : Chip) (t : TineId) : Tine := Map.read {} s.tines (tineNo t)
def Chip.setTine (s : Chip) (t : TineId) (x : Tine) : Chip := { s with tines := Map.write {} s.tines (tineNo t) x }

/-- Special register PLACE; it is also the source field of a Tine's events. -/
def placeOf : TineId → Nat
  | .lane b l => 0x1000 + b.val / 4 * 256 + b.val % 4 * 16 + l.val
  | .ringCtl r => 0x2000 + r.val / 4 * 256 + r.val % 4 * 16
  | .can p => 0x3000 + p.val * 16
  | .recorder => 0x4000

/-- Bytes of program store (R387). -/
def storeSize : TineId → Nat
  | .lane _ _ => 0x4000
  | .ringCtl _ => 0x4000
  | _ => 0x2000

/-! ## Registers (R389–R391) -/

/-- G0 reads 0. -/
def Job.gr (j : Job) (i : Nat) : Word := if i = 0 then 0 else Map.read 0 j.g i

/-- A write to G0 is discarded. -/
def Job.setG (j : Job) (i : Nat) (v : Word) : Job := if i = 0 then j else { j with g := Map.write 0 j.g i v }

/-- The low or the high half of a V register. -/
def Job.vr (j : Job) (high : Bool) (i : Nat) : F32 := if high then Map.read 0 j.vh i else Map.read 0 j.vl i

def Job.setV (j : Job) (high : Bool) (i : Nat) (v : F32) : Job :=
  if high then { j with vh := Map.write 0 j.vh i v } else { j with vl := Map.write 0 j.vl i v }

/-- The job among those of its Tine: image, kind and entry. -/
def Job.key (j : Job) : Nat := j.image * 64 + j.kind * 16 + j.entry

/-- CAUSE: the last fault of the Tine's present job. -/
def Tine.cause (x : Tine) : Nat := Map.read 0 x.causes x.job.key

/-- Scoreboard key of a half of a V register, and those of both halves. -/
def vkey (high : Bool) (i : Nat) : Nat := if high then 48 + i else 32 + i
def vkeys (i : Nat) : List Nat := [vkey false i, vkey true i]

/-- Issue: stall until the sources are usable, charge the issue cost, go to the next word (R393, R59). -/
def Job.issue (j : Job) (srcs : List Nat) (cost : Nat) : Job :=
  { j with cyc := srcs.foldl (fun c k => max c (Map.read 0 j.ready k)) j.cyc + cost, pc := (j.pc + 4) % 2 ^ 32 }

/-- The result in `key` becomes usable `n` cycles after an issue of `cost` cycles. -/
def Job.usable (j : Job) (key cost n : Nat) : Job :=
  if n ≤ cost then { j with ready := Map.write 0 j.ready key 0 }
  else { j with ready := Map.write 0 j.ready key (j.cyc - cost + n) }

/-- The same for several results. -/
def Job.usableAll (j : Job) (keys : List Nat) (cost n : Nat) : Job := keys.foldl (fun j k => j.usable k cost n) j

/-- Sticky flags of STAT. -/
def Job.raise (j : Job) (fl : Nat) : Job := { j with stat := j.stat ||| fl }

def Job.carry (j : Job) : Bool := bit j.stat 8
def Job.setCarry (j : Job) (c : Bool) : Job := { j with stat := putBit j.stat 8 c }

/-- CYC as MFS and BRB read it: cycles since the start of the job, up to this instruction's issue. -/
def Job.cycNow (j : Job) (srcs : List Nat) : Nat := (j.issue srcs 0).cyc

/-! ## Invocations (R389, R401, R405, R407, R408) -/

/-- Slot of the trigger image in force. -/
def Chip.trigImage (s : Chip) : Nat :=
  let k := s.rd 0x2E00 0x14
  if s.rd (0x2E10 + k) 0x01 == 4 then 7 else k

/-- The recorder's Tine is invoked for the event at the head of the ingest port (R408). -/
def Chip.arm (s : Chip) (t : TineId) : Chip :=
  match t with
  | .recorder =>
    let x := s.tine .recorder
    if x.run || x.ended || s.port.isEmpty then s else s.freshTine 100 s.trigImage 0
  | _ => s

/-- Executing: invoked, not waiting, not halted but for a single step, and not stopped. -/
def Tine.live (x : Tine) : Bool := x.run && x.wait.isNone && (!x.halted || x.once) && !x.stopped

/-- A single step is over (R493). -/
def Chip.stepped (s : Chip) (t : TineId) : Chip :=
  if (s.tine t).once then s.setTine t { s.tine t with once := false } else s

/-- The logical lane of a lane's Tine, 4 × ring + lane index. -/
def Chip.logicalLane (s : Chip) (t : TineId) : Option Nat :=
  match t with
  | .lane b l => (s.logicalOf b l).map (fun i => 4 * b.val + i)
  | _ => none

/-- The declared figure of the job a Tine runs, and its number (R411, R412). -/
def Chip.jobFigure (s : Chip) (t : TineId) (j : Job) : Nat × Nat :=
  match t with
  | .lane b l =>
    let i := (s.logicalOf b l).getD 0
    let ps := s.lanePos b i
    if j.kind == 1 then (fastJob (4 * b.val + i) 1, s.protLoad b ps)
    else if j.kind == 2 then
      let mine := ps.filter (fun p => s.kernelAt b p == some j.image)
      (fastJob (4 * b.val + i) 2, s.estLoadAt b (if mine.isEmpty then ps else mine) (s.ticks % 16))
    else (slowJobNo j.image j.entry, imgFig (s.image j.image) 0x09 j.entry)
  | _ => s.placeFigure (tineNo t) j.image

/-- The source of 0x6033. DESIGN CHOICE (R85 gives lane and job no layout, log entry 9): logical lane × 256 plus job kind × 16 plus
entry; for a Tine that is no logical lane its place. -/
def Chip.jobSource (s : Chip) (t : TineId) (kind entry : Nat) : Nat :=
  match s.logicalLane t with
  | some l => l * 256 + kind * 16 + entry
  | none => placeOf t

/-- The hardware reports CYC at the end of a job: the lane's highest count (R59), and R60. -/
def Chip.report (s : Chip) (t : TineId) : Chip :=
  let j := (s.tine t).job
  let (no, decl) := s.jobFigure t j
  let s := s.measured no decl (s.jobSource t j.kind j.entry) j.cyc
  match s.logicalLane t with
  | some l =>
    let i := 0x2120 + l / 4
    s.wr i (0x05 + l % 4) (max j.cyc (s.rd i (0x05 + l % 4)))
  | none => s

/-- An invocation is over: its pages are free, a filtered entry takes its disposition, the filter goes on (R401, R407,
R429). The placements of its image that fault are counted anew. -/
def Chip.endInvocation (s : Chip) (t : TineId) (disp : Option Nat) (faulted : Bool) : Chip :=
  let x := s.tine t
  let s := (s.ungrant x.job.pages).setTine t
    { x with run := false, ended := true, bad := faulted, wait := none, disp := none
             faults := if faulted then x.faults else Map.write 0 x.faults x.job.image 0
             protRan := x.protRan || x.job.kind == 1
             job := { x.job with pages := [] } }
  match t with
  | .can p => (s.canDispose p (disp.getD 0xF)).canFilter p 1024
  | _ => s

/-! ## Faults (R409, R410) -/

/-- A customer image whose jobs fault in three placements in a row on a Tine is disabled in the whole device. -/
def Chip.disableImage (s : Chip) (k cause : Nat) : Chip :=
  ((s.wr (0x2E10 + k) 0x01 4).showImages).post 0x6042 k (le 1 cause)

/-- Consequences of a fault by the job that ends (R409). -/
def Chip.faultFollows (s : Chip) (t : TineId) (kind : Nat) : Chip :=
  match t with
  | .ringCtl r => s.setRing r { s.ring r with limited := true }
  | _ =>
    match s.logicalLane t with
    | some l =>
      if kind == 1 then { s with sched := { s.sched with protFail := s.sched.protFail ||| BitVec.twoPow 64 l } }
      else if kind == 2 then { s with sched := { s.sched with estFail := s.sched.estFail ||| BitVec.twoPow 64 l } }
      else s
    | none => s

/-- TINE_FAULT (R409): the job ends with a cause, 0x6041 and JOBFAULT; `code` is the code of a FAULT instruction. -/
def Chip.tineFault (s : Chip) (t : TineId) (cause code : Nat) : Chip :=
  if !(s.tine t).run then s
  else
    let s := s.report t
    let x := s.tine t
    let j := x.job
    let n := Map.read 0 x.faults j.image + 1
    let detail := le 1 cause ++ le 4 j.pc ++ le 1 j.kind ++ le 1 j.entry ++ (if cause == 5 then le 1 code else [])
    let s := ((s.post 0x6041 (placeOf t) detail).flag 0x2E00 0x01 1).inc 32 (0x2E10 + j.image) 0x08
    let s := s.setTine t { x with causes := Map.write 0 x.causes j.key (cause + j.pc % 2 ^ 24 * 256), faults := Map.write 0 x.faults j.image n }
    let s := if 8 ≤ j.image && 3 ≤ n && s.rd (0x2E10 + j.image) 0x01 == 3 then s.disableImage j.image cause else s
    (s.faultFollows t j.kind).endInvocation t none true

def causeIllegal : Nat := 1
def causeAccess : Nat := 2
def causeAlign : Nat := 3
def causeEcc : Nat := 4
def causeProgram : Nat := 5
def causeWatch : Nat := 6
def causeRunaway : Nat := 7

/-! ## Program store and local data (R388, R443) -/

/-- Corrected errors of a lane's Tine in the last 24 h by operating time, as 2A20+b:06–0A shows them. -/
def Chip.showErrors (s : Chip) (k : Nat) : Chip :=
  let ts := (Map.read [] s.pager.errs k).filter s.within24h
  { s.wr (0x2A20 + k / 5) (0x06 + k % 5) (min 65535 ts.length) with pager := { s.pager with errs := Map.write [] s.pager.errs k ts } }

/-- An error counts in the lane's wear indicator. -/
def Chip.lanewear (s : Chip) (t : TineId) : Chip :=
  match t with
  | .lane b l =>
    let k := 5 * b.val + l.val
    { s with pager := { s.pager with errs := Map.write [] s.pager.errs k (Map.read [] s.pager.errs k ++ [s.rd 0x1040 0x01]) } }.showErrors k
  | _ => s

/-- A corrected error in the row of the SRAM that holds a byte; the spec does not say which row that is (log entry 140). -/
def Chip.rowError (s : Chip) (key : Nat) : Chip :=
  let x := Config.sramRow key
  let k := x.1.val * 65536 + x.2.val
  let ts := (Map.read [] s.pager.rowErrs k).filter s.within24h
  { s with pager := { s.pager with rowErrs := Map.write [] s.pager.rowErrs k (ts ++ [s.rd 0x1040 0x01]) } }

/-- The SECDED check of the program store or of the datum found an error; `key` is the place of the datum and `local_` says that it lies in a
local data memory. A corrected one sets ECCERR, a double one in the program store posts 0x6044. DEDUCED (log entry 136): either kind counts in
the lane's wear indicator. -/
def Chip.eccError (s : Chip) (t : TineId) (x : EccResult) (key : Nat) (local_ : Bool) : Chip :=
  match x with
  | .clean => s
  | .corrected =>
    let s := if local_ then (s.flag 0x2E00 0x01 2).lanewear t else s
    if local_ && !t.isLane then s else s.rowError key
  | .double => if local_ then s.lanewear t else s
  | .storeCorrected => (s.flag 0x2E00 0x01 2).lanewear t
  | .storeDouble => (s.post 0x6044 (placeOf t) (le 4 (s.tine t).job.pc)).lanewear t

/-! ## Executing -/

/-- Execute one instruction on a Tine that is executing. A word outside the program store is no fetch the place has
(ACCESS, ALIGN); an instruction the place does not provide is ILLEGAL (R393). -/
def Chip.onTine (s : Chip) (t : TineId) (provided : Bool) (f : Chip → Job → Chip) : Chip :=
  let s := s.arm t
  let x := s.tine t
  if !x.live then s
  else
    let s' := if x.job.pc % 4 != 0 then s.tineFault t causeAlign 0
      else if storeSize t ≤ x.job.pc then s.tineFault t causeAccess 0
      else if !provided then s.tineFault t causeIllegal 0
      else f s x.job
    s'.stepped t

/-- Put the registers of the job back. -/
def Chip.setJob (s : Chip) (t : TineId) (j : Job) : Chip := s.setTine t { s.tine t with job := j }

/-- An instruction on registers alone. -/
def Chip.regOp (s : Chip) (t : TineId) (f : Job → Job) : Chip := s.onTine t true (fun s j => s.setJob t (f j))

/-- d = f, in one issue of `cost` cycles whose result is usable after `n`. -/
def Chip.alu (s : Chip) (t : TineId) (d : Nat) (srcs : List Nat) (cost n : Nat) (f : Job → Word) : Chip :=
  s.regOp t (fun j => ((j.issue srcs cost).setG d (f j)).usable d cost n)

end Sys2Proof.Machine
end

