-- ==== Sys2Proof/Machine/FastTier.lean ====
section
/-!
DEFINITION. Sys2Proof/Machine/FastTier.lean: the fast tier's start and stop: currents, counters and biases of the strings
(07 R248–R254), estimation of every lane, and the limits of strings and section (09 R318–R324).
-/

namespace Sys2Proof.Machine

/-! ## Currents (R249–R252) -/

/-- KH2 current of a string where its slot is fresh and CHINV bit 0 is clear. -/
def Chip.kh2I? (s : Chip) (n : Nat) : Option Int :=
  match s.headOf n with
  | none => none
  | some (r, h) => if s.freshSlot r h && !bit (slotStatus (s.slotAt r h)) 0 then some (s.strI n) else none

def Chip.sumKh2 (s : Chip) (ns : List Nat) : Int := (ns.filterMap s.kh2I?).foldl (· + ·) 0

/-- Strings with closed contactor feedback. -/
def Chip.fbStrings (s : Chip) : List Nat := (List.range 32).filter s.closedFb

/-- Choose the section current in use (R251), shown in 2800:14. -/
def Chip.pickSource (s : Chip) : Chip :=
  let p := s.rd 0x3300 0x09
  let q := s.rd 0x3300 0x0A
  let sum := s.sumKh2 (List.range 32)
  let far (v : Nat) : Nat := (toInt 32 v - sum).natAbs
  let src := if usableCode p && usableCode q then
      (if s.front.disagree ≥ 10 && far q < far p then 1 else 0)
    else if usableCode p then 0 else if usableCode q then 1 else 0xFF
  s.wr 0x2800 0x14 src

/-- The section current in use; none where no source is usable. -/
def Chip.secI? (s : Chip) : Option Int := if s.rd 0x2800 0x14 == 0xFF then none else some s.secCurrent

/-- SUMDIS (R252): the string current sum against the section current for 10 consecutive ticks. -/
def Chip.checkSum (s : Chip) : Chip :=
  let sum := s.sumKh2 ((List.range 32).filter s.counted)
  match s.secI? with
  | none => { s with front := { s.front with sumDis := 0 } }
  | some i =>
    let tol := max (s.rd 0x3300 0x16 * max sum.natAbs i.natAbs) (s.rd 0x3300 0x17 * 10000)
    let n := if 10000 * (sum - i).natAbs > tol then s.front.sumDis + 1 else 0
    let s := { s with front := { s.front with sumDis := n } }
    if n == 10 then (s.flag 0x2800 0x01 6).post 0x4007 0 (le 4 (ofInt 32 sum) ++ le 4 (ofInt 32 i)) else s

/-- The share of a string (R250), filtered with 60 s; held where a current of the sum is not known (log entry 113). -/
def Chip.newShare (s : Chip) (n : Nat) : F32 :=
  let c := s.fbStrings
  if !c.contains n then fZero
  else if c == [n] then fOne
  else
    let sum := s.sumKh2 c
    let old := (s.es n).share
    if !c.all (fun m => (s.kh2I? m).isSome) then old
    else match s.kh2I? n with
    | some i =>
      if 100 * sum.natAbs > (c.map s.qnom).foldl (· + ·) 0 then
        fAdd old (fMul (f32OfFrac s.clk.p 60000) (fSub (fDiv (fInt i) (fInt sum)) old))
      else old
    | none => old

/-- Currents, share and charge counters of one string (R248–R250, R281). -/
def Chip.stringCurrent (s : Chip) (n : Nat) : Chip :=
  let i := 0x2840 + n
  let share := s.newShare n
  let s := (s.setEs n { s.es n with share := share }).wr i 0x06 (fRound (fMul share (fInt 10000)) 0 65535).toNat
  let part := s.secI?.map (fun x => fRound (fMul share (fInt x)) (-2147483648) 2147483647)
  let (cur, derived, est) := match s.kh2I? n, part with
    | some x, _ => (x, false, false)
    | none, some x => (x, true, false)
    | none, none => (s.rdI 32 i 0x05, true, true)
  let was := s.rdBit i 0x0E 6
  let fresh := match s.headOf n with | some (r, h) => s.freshSlot r h | none => false
  let s := if derived && !was then s.post 0x400B n (le 1 (if fresh then 2 else 1)) else s
  let s := ((s.wrI 32 i 0x05 cur).wrBit i 0x0E 6 derived).wrBit i 0x0E 7 est
  let dA := cur * s.clk.p
  let old := s.rdI 64 i 0x03
  let s := s.wr i 0x03 (ofInt 64 (old + dA))
  let s := match part with
    | some x => s.wr i 0x04 (ofInt 64 (s.rdI 64 i 0x04 + x * s.clk.p))
    | none => s
  let j := 0x2920 + n
  let s := if dA ≥ 0 then s.add 64 j 0x0F dA.natAbs else s.add 64 j 0x10 dA.natAbs
  s.setEs n { s.es n with cntEst := (s.es n).cntEst + (if est then 1 else 0) }

/-! ## The bias (R253, R254) -/

/-- The bias written a tick ago comes into force, and the head's lane writes the next from the sums of the tick before. -/
def Chip.biasTick (s : Chip) (n : Nat) : Chip :=
  let i := 0x2840 + n
  let es := s.es n
  let lim := fInt (s.rd 0x2800 0x07 : Nat)
  let p := f32OfFrac s.clk.p 1000
  let ok := !es.laneStale && decide ((s.elemsOf n).length ≤ 2 * es.cnt) && es.cnt != 0
  let bobs := fDiv (fMul (f32Neg (fInt 1000)) es.sum) (fMul (fInt (es.cnt : Nat)) p)
  let next := if ok then
      fClamp (fAdd es.biasNext (fMul (fDiv p (fInt (s.rd 0x2800 0x06 : Nat))) bobs)) (f32Neg lim) lim
    else es.biasNext
  let at_ := ok && (f32Eq (f32Abs next) lim)
  let s := if at_ && !s.rdBit i 0x0E 5 then (s.flag 0x2800 0x01 5).post 0x4008 n (le 4 (ofInt 32 (fRound next (-2147483648) 2147483647))) else s
  let s := if ok then s.wrBit i 0x0E 5 at_ else s
  let s := s.setEs n { es with bias := es.biasNext, biasNext := next, sum := fZero, cnt := 0, laneStale := false }
  let s := s.wrI 32 i 0x02 (fRound es.biasNext (-2147483648) 2147483647)
  s.wr (0x2920 + n) 0x11 (ofInt 64 (s.rdI 64 (0x2920 + n) 0x11 +
    fRound (fMul es.biasNext (fInt (s.clk.p : Nat))) (-9223372036854775808) 9223372036854775807))

/-! ## The balancing charge (R328) -/

/-- Subtract the balancing charge of the past interval from XS and ANCHSOC of one element; a customer kernel keeps its own state (R264). -/
def Chip.drain (s : Chip) (n g : Nat) : Chip :=
  let el := s.el g
  let b := s.fastRec g
  let s := s.setEl g { el with drained := 0 }
  if el.drained == 0 || b == [] then s
  else
    -- Σ d · V(100 µV) / 255 · (P − 50 µs) / R(mΩ), in µC
    let uc := el.drained * (s.clk.p * 1000 - 50) / (255 * 10 * max 1 (s.rd 0x2700 0x0A))
    let ds := fDiv (f32OfFrac uc 1000000) (fMul (fInt 3600) (recF b 92))
    let b := if s.ownKernel n then putF (putF b 32 (fSub (recF b 32) ds)) 96 (fSub (recF b 96) ds) else b
    ((s.setFast g b).setEl g { s.el g with balUc := (s.el g).balUc + uc }).add 64 (0x2720 + n) 0x03 uc

/-- Each tick adds duty × VUSED; the first fast tier of an update interval subtracts the charge. -/
def Chip.balanceTick (s : Chip) (n : Nat) : Chip :=
  let gs := s.elemsOf n
  let s := if s.ticks % max 1 (s.rd 0x2700 0x06) == 0 then gs.foldl (fun s g => s.drain n g) s else s
  gs.foldl (fun s g =>
    let d := Map.read 0 s.duty g
    if d == 0 then s else s.setEl g { s.el g with drained := (s.el g).drained + d * leAt (s.fastRec g) 20 2 }) s

/-! ## Eligibility for balancing (R325, R326) -/

/-- Is an element eligible for balancing? -/
def Chip.balEligible (s : Chip) (g : Nat) : Bool :=
  let b := s.fastRec g
  let c := consOf b
  let w := s.faultWord (g / 1024) (g / 16 % 64)
  let e := g % 16
  b != [] && !bit c 15 && !bit c 14 && !bit c 10 && !bit c 5 && decide (leAt b 2 2 ≤ s.rd 0x2700 0x05) && !bit w (48 + e) &&
  !bit w e && !bit w (e + 1)

def Chip.putDuty (s : Chip) (g d : Nat) : Chip := { s with duty := Map.write 0 s.duty g d }

/-- All duties of a string to 0. -/
def Chip.zeroDuty (s : Chip) (n : Nat) : Chip := ((s.elemsOf n).foldl (fun s g => s.putDuty g 0) s).wr (0x2720 + n) 0x02 0

/-- Why a string does not balance: 0 it does, 1 too few eligible, 2 BAL not in RUN, 3 slow tier shed (R659). -/
def Chip.balCause (s : Chip) (n : Nat) : Nat :=
  let gs := s.elemsOf n
  if s.runOf 4 != .run then 2
  else if s.rd 0x2100 0x03 ≥ 1 then 3
  else if 100 * (gs.filter s.balEligible).length < 90 * gs.length || gs.isEmpty then 1 else 0

/-- Balancing switched off by 2700:01. -/
def Chip.balanceOff (s : Chip) (n : Nat) : Chip :=
  ((s.zeroDuty n).wr (0x2720 + n) 0x04 0).setEs n { s.es n with balStop := 0, balShed := 0 }

/-- Balancing is suspended for a cause, with 0x4022 as it begins. While the slow tier is shed the last duties stand for 2 update
intervals (R327), of which `shed` have begun. -/
def Chip.balanceStop (s : Chip) (n cause shed : Nat) : Chip :=
  let was := (s.es n).balStop
  let s := (s.setEs n { s.es n with balStop := cause, balShed := shed }).wr (0x2720 + n) 0x04 2
  let s := if cause = 3 && shed ≤ 2 then s else s.zeroDuty n
  if was == 0 then s.post 0x4022 n (le 1 cause) else s

/-- What each tick brings (R325, R326): the lanes exchange the least SOCTRUE in the first tick of an update interval, and a string that
may balance no longer stops. -/
def Chip.balanceWatch (s : Chip) (n : Nat) : Chip :=
  let s := if s.ticks % max 1 (s.rd 0x2700 0x06) == 0 then
      let socs := ((s.elemsOf n).filter s.balEligible).map (fun g => leAt (s.fastRec g) 6 2)
      s.setEs n { s.es n with balMin := if socs.isEmpty then none else some (socs.foldl min (socs.headD 0)) }
    else s
  if s.rd (0x2720 + n) 0x04 != 1 then s
  else if s.rd 0x2700 0x01 == 0 then s.balanceOff n
  else match s.balCause n with
    | 1 => s.balanceStop n 1 0
    | 2 => s.balanceStop n 2 0
    | _ => s

/-! ## What a string shows (R265, R270, R275) -/

/-- The first element with a CONS bit set. -/
def Chip.firstWith (s : Chip) (gs : List Nat) (k : Nat) : Option Nat := gs.find? (fun g => bit (consOf (s.fastRec g)) k)

/-- SOC figures, energies and flags of a string from its fast records; EOD and EOC are recorded on entry. -/
def Chip.summary (s : Chip) (n : Nat) : Chip :=
  let i := 0x2840 + n
  let gs := (s.elemsOf n).filter (fun g => s.fastRec g != [])
  let f (k : Nat) : List Nat := gs.map (fun g => leAt (s.fastRec g) k 2)
  let lo (xs : List Nat) : Nat := xs.foldl min (xs.headD 0)
  let hi (xs : List Nat) : Nat := xs.foldl max 0
  let sum (k : Nat) : Nat := (gs.map (fun g => leAt (s.fastRec g) k 4)).foldl (· + ·) 0
  let soc := f 0
  let cc := f 4
  let s := ((s.wr i 0x07 (lo soc)).wr i 0x08 (hi soc)).wr i 0x09 (if soc.isEmpty then 0 else soc.foldl (· + ·) 0 / soc.length)
  let s := (s.wr i 0x0A (min (lo soc) (lo cc))).wr i 0x0B (max (hi soc) (hi cc))
  let s := (s.wr i 0x0C (min 4294967295 (sum 8))).wr i 0x0D (min 4294967295 (sum 12))
  let s := s.wr (0x3200 + n) 0x0E (min 4294967295 ((f 16).foldl (· + ·) 0 + s.rd 0x2500 0x0F))
  let rec_ (g : Nat) : List Byte := le 2 g ++ (s.fastRec g).take 2 ++ ((s.fastRec g).drop 4).take 2
  let step (s : Chip) (bitNo k code : Nat) : Chip :=
    match s.firstWith gs k with
    | some g => if s.rdBit i 0x0E bitNo then s else (s.wrBit i 0x0E bitNo true).post code n (rec_ g)
    | none => s.wrBit i 0x0E bitNo false
  let s := step (step s 1 5 0x4002) 0 4 0x4003
  let s := s.wrBit i 0x0E 2 ((s.firstWith gs 11).isSome)
  let s := if s.rdBit i 0x0E 3 && !s.anyDisagree n then s.dropDisagree n else s
  s.wrBit i 0x0E 4 (s.rd 0x2800 0x03 != 0)

/-- Section figures of 2800 (R270, R275). -/
def Chip.sectionSummary (s : Chip) : Chip :=
  let ns := (List.range 32).filter s.counted
  let v (j : Nat) : List Nat := ns.map (fun n => s.rd (0x2840 + n) j)
  let lows := v 0x0A
  let s := (s.wr 0x2800 0x10 (lows.foldl min (lows.headD 0))).wr 0x2800 0x11 ((v 0x0B).foldl max 0)
  let s := (s.wr 0x2800 0x12 ((v 0x0C).foldl (· + ·) 0)).wr 0x2800 0x13 ((v 0x0D).foldl (· + ·) 0)
  let s := s.wr 0x2800 0x15 (maskOf 32 (fun n => s.rdBit (0x2840 + n) 0x0E 6))
  let any (k : Nat) : Bool := (List.range 32).any (fun n => s.rdBit (0x2840 + n) 0x0E k)
  let s := ((s.wrBit 0x2800 0x01 0 (any 0)).wrBit 0x2800 0x01 1 (any 1)).wrBit 0x2800 0x01 2 (any 6)
  (s.wrBit 0x2800 0x01 3 (any 3)).wrBit 0x2800 0x01 4 (s.rd 0x2800 0x03 != 0)

/-- The SIGMA cause of a rest request (R286). -/
def Chip.sigmaRest (s : Chip) (n : Nat) : Chip :=
  if (s.elemsOf n).any (fun g => decide (leAt (s.fastRec g) 2 2 > s.rd 0x2900 0x0C)) then s.raiseRest n 1 else s

/-- Objects published at the publish phase: limits, and the figures of strings and section. -/
def publishedKey (k : Nat) : Bool :=
  let (i, j) := (k / 256, k % 256)
  (0x2600 ≤ i && i < 0x2640) || (0x3200 ≤ i && i < 0x3220 && j == 0x0E) || (0x2840 ≤ i && i < 0x2860 && 0x07 ≤ j && j ≤ 0x0D) ||
    (i == 0x2800 && 0x10 ≤ j && j ≤ 0x13)

/-- Keep what is published before this tick's fast tier changes it. -/
def Chip.keepPublished (s : Chip) : Chip :=
  { s with limOld := s.od.filter (fun x => publishedKey x.1)
           flagsOld := (List.range 32).map (fun n => (n, s.rd (0x2840 + n) 0x0E + 1)) }

/-! ## The protection program (R49, R165, R331) -/

/-- What the program looks at, in a tick that is fresh for it: 1 and 2 an element's voltage in 100 µV, 3 and 4 its temperature in
0.01 °C, 5 the rise of its temperature over 10 s; 6 the current of a string in mA. DEDUCED (log entry 129): the voltage and the
temperature are those the estimator uses, with the substitutes of R259 and R260. -/
def Chip.protValue (s : Chip) (n cond g : Nat) : Option Int :=
  let (r, p, e) := (g / 1024, g / 16 % 64, g % 16)
  let b := s.slotAt r p
  if cond == 6 then (if s.rdBit (0x2840 + n) 0x0E 7 then none else some (s.rdI 32 (0x2840 + n) 0x05))
  else if !s.freshSlot r p || s.injected r p e then none
  else if cond ≤ 2 then (s.measured? r p e (s.faultWord r p) b).map (fun v => (v.2.1 : Int))
  else
    let t : Option Int := if (slotTemps b).isEmpty then s.meanTemp? n else some (s.tempOf b e 0).1
    if cond ≤ 4 then t
    else
      -- the temperature in force 10 s ago
      match t, (Map.read [] s.tHist g).find? (fun x => decide (x.1 + 10000 ≤ s.clk.sincePor)) with
      | some t, some x => some (t - x.2)
      | _, _ => none

/-- Beyond the threshold of a condition, 1–6 in the order of the table: voltages in 100 µV, temperatures in 0.01 °C, the rise over 10 s in
0.01 °C, a current in mA. -/
def Chip.conditionMet (s : Chip) (n cond : Nat) (value : Int) : Bool :=
  let i := 0x2550 + (s.profIdx n - 0x2810)
  match cond with
  | 1 => decide ((s.rd i 0x01 : Int) < value)
  | 2 => decide (value < s.rd i 0x02)
  | 3 => decide (s.rdI 16 i 0x03 < value)
  | 4 => decide (s.rdI 16 i 0x04 < value)
  | 5 => decide ((10 * s.rd i 0x05 : Int) < value)
  | _ =>
    let lim := s.rd (0x2620 + n) (if value < 0 then 0x01 else 0x05)
    decide (s.rd i 0x07 * lim < 100 * value.natAbs)

/-- A history of changes, newest first, with its new value: what lies before the entry in force 10 s ago is dropped. -/
def pushTemp (now : Nat) (t : Int) (h : List (Nat × Int)) : List (Nat × Int) :=
  let h := match h with
    | x :: _ => if x.2 = t then h else (now, t) :: h
    | [] => [(now, t)]
  let recent := h.filter (fun x => decide (now < x.1 + 10000))
  recent ++ (h.drop recent.length).take 1

/-- One condition in one tick: its count of fresh ticks goes on, or it starts again and acts no more. -/
def Chip.protectOne (s : Chip) (n cond g : Nat) : Chip :=
  let key := cond * 16384 + g
  match s.protValue n cond g with
  | none => s
  | some v =>
    if s.conditionMet n cond v then { s with prot := Map.write 0 s.prot key (min 65535 (Map.read 0 s.prot key + 1)) }
    else { s with prot := Map.write 0 s.prot key 0, acting := Map.write 0 s.acting key 0 }

def Chip.protectElem (s : Chip) (n g : Nat) : Chip :=
  let s := match s.protValue n 3 g with
    | some t => { s with tHist := Map.write [] s.tHist g (pushTemp s.clk.sincePor t (Map.read [] s.tHist g)) }
    | none => s
  [1, 2, 3, 4, 5].foldl (fun s c => s.protectOne n c g) s

/-- The protection program over the admitted elements of a string and over the string. -/
def Chip.protectString (s : Chip) (n : Nat) : Chip := ((s.elemsOf n).foldl (fun s g => s.protectElem n g) s).protectOne n 6 n

/-- Fresh ticks for which a condition has to hold before it acts. -/
def Chip.protNeed (s : Chip) (n cond : Nat) : Nat :=
  let i := 0x2550 + (s.profIdx n - 0x2810)
  let k := max 1 (s.rd i 0x06)
  if cond == 6 then max k ((s.rd i 0x08 + s.clk.p - 1) / s.clk.p) else k

/-- A lane whose protection program was incomplete has decided nothing in the tick (R63): its counts stand as before. -/
def Chip.undecided (s : Chip) (l : Nat) : Chip :=
  let ps := s.lanePos (l / 4) (l % 4)
  let mine (key : Nat) : Bool :=
    let g := key % 16384
    if key / 16384 == 6 then (match s.headOf g with | some (r, h) => r == l / 4 && ps.contains h | none => false)
    else g / 1024 == l / 4 && ps.contains (g / 16 % 64)
  { s with prot := mergeInto (s.prot.filter (fun x => !mine x.1)) (s.protOld.filter (fun x => mine x.1)) }

/-! ## FAST_TIER_START (R48) -/

/-- The fast-tier work of one string: the protection program, then the estimator (R49). -/
def Chip.stringFast (s : Chip) (n : Nat) : Chip :=
  if (s.headOf n).isNone then s
  else
    let s := (s.protectString n).biasTick n
    let (mean, s) := s.meanTemp n
    let derived := s.rdBit (0x2840 + n) 0x0E 6
    let cur := s.rdI 32 (0x2840 + n) 0x05
    let s := (s.ksOf n).foldl (fun s x => s.estimatePos n x.1 x.2 cur mean derived) s
    let s := (s.cutKs n).foldl (fun s x => (List.range 16).foldl (fun s e => s.markStale (x.1 * 1024 + x.2 * 16 + e)) s) s
    -- a derived current keeps the tick's sums out of the bias (R254)
    let s := if derived then s.setEs n { s.es n with sum := fZero, cnt := 0 } else s
    let s := (s.ksOf n).foldl (fun s x => s.observe x.1 x.2) s
    (s.sigmaRest n).restTick n (s.rdBit (0x2840 + n) 0x0E 7)

/-- At 0.25P (R163, R166): ticks with a position that no port reaches count; 31n7:09 and STALE of 31n1 show the slots that have not
come, and after a break of this tick they are recorded. -/
def Chip.pathCheck (s : Chip) (r : Nat) : Chip :=
  if !s.sweeps r then s
  else
    let g := s.ring r
    let cut := maskOf 64 (fun p => decide (p < s.nOf r) && !s.hasPath r p)
    let late := maskOf 64 (fun p => decide (p < s.nOf r) && (s.herdState r p == 2 || s.herdState r p == 4) && !g.got.getLsbD p)
    let s := s.setRing r { g with cut := cut, cut2 := cut &&& g.cut, brkNew := false }
    let s := if cut != 0 then s.wr (0x3107 + 16 * r) 0x08 (min 255 (s.rd (0x3107 + 16 * r) 0x08 + 1)) else s
    let s := s.wr (0x3107 + 16 * r) 0x09 late
    let s := (List.range 64).foldl (fun s p => s.setHT r 1 p (putBit (s.hT r 1 p) 1 (bit late p))) s
    if g.brkNew && late != 0 then s.post 0x1018 r (le 8 late) else s

/-- The ticks of a ramp whose currents are fresh and at or below 2500:10 are counted, up to the three of R336; any other tick begins
anew. -/
def Chip.rampTick (s : Chip) : Chip :=
  let low (i : Int) : Bool := decide (i.natAbs ≤ s.rd 0x2500 0x10)
  let fresh (n : Nat) : Bool := match s.headOf n with | some (r, h) => s.freshSlot r h | none => false
  let ok := s.swi.ramp && s.swi.step.isNone && s.secI?.isSome && low s.secCurrent &&
    (List.range 32).all (fun n => !(s.st n).toOpen || (fresh n && low (s.strI n)))
  { s with swi := { s.swi with lowTicks := if ok then min 3 (s.swi.lowTicks + 1) else 0 } }

/-- FAST_TIER_START (R48, R49): the figures of strings and section are published by FAST_TIER_STOP (R21). It runs whether or not every
half-frame has returned. The counters advance first (R248), and the balancing charge is taken off before the estimators run, so that a
stale lane loses none of it (R328). -/
def Chip.fastTierStart (s : Chip) : Chip :=
  if !s.up then s
  else
    let s := (List.range 16).foldl Chip.pathCheck (s.atPhase 25)
    let s := s.keepPublished.pickSource.checkSum
    let s := (List.range 32).foldl (fun s n => if (s.headOf n).isNone then s else (s.stringCurrent n).balanceTick n) s
    let s := { s with fastOld := s.fast, elemOld := s.elem, protOld := s.prot }
    (List.range 32).foldl Chip.stringFast s.rampTick

def execFastTierStart : State → Host.Outcome State Fault Refusal := lift Chip.fastTierStart

/-! ## Limits of strings (R318, R319, R322, R323) -/

/-- The zero state of R319 and its cause: 1 stale too long, 2 UNREACHABLE, 3 an element without a limit. DEDUCED (log entry 139): an element
at a stale position of a healthy lane has a limit in the tick, from the values of the previous tick that R165 leaves in the lane's working
data, for as long as a lane's own entries would stand in. -/
def Chip.zeroCause (s : Chip) (n : Nat) : Nat :=
  let tol := s.rd 0x2600 0x23
  let old (g : Nat) : Bool := !(s.el g).lims.isEmpty && decide (tol < leAt (s.fastRec g) 28 1)
  if tol < (s.es n).stale || (s.elemsOf n).any old then 1
  else match s.headOf n with
    | none => 3
    | some (r, _) =>
      if (s.positionsOf n).any (fun p => s.herdState r p == 4) then 2
      else if (s.elemsOf n).isEmpty || (s.elemsOf n).any (fun g => (s.el g).lims.isEmpty) then 3
      else 0

/-- Rise per tick, mA (R322). -/
def Chip.rise (s : Chip) (n : Nat) : Nat := s.rd 0x2600 0x22 * s.qnom n * s.clk.p / 1000000

/-- A published limit falls at once and rises by the rate. -/
def ramped (old target rate : Nat) : Nat := if target ≤ old then target else min target (old + rate)

/-- The element with the least limit `k`. -/
def Chip.limiting (s : Chip) (gs : List Nat) (k : Nat) : Option Nat :=
  gs.foldl (fun m g =>
    match m with
    | none => some g
    | some h => if (s.el g).lims.getD k 0 < (s.el h).lims.getD k 0 then some g else m) none

/-- Limits of one string. -/
def Chip.stringLimits (s : Chip) (n : Nat) : Chip :=
  if (s.headOf n).isNone then s
  else
    let i := 0x2620 + n
    let gs := s.elemsOf n
    let cause := s.zeroCause n
    let es := s.es n
    let der := (s.st n).derate
    let sumF (f : Elem → List F32) (k : Nat) : F32 := (gs.map (fun g => (f (s.el g)).getD k 0)).foldl fAdd fZero
    let lims := (List.range 8).map (fun k =>
      if cause ≠ 0 then 0
      else match s.limiting gs k with
        | none => 0
        | some g => min ((s.el g).lims.getD k 0) (s.rd (0x3200 + n) 0x0F) * der / 100)
    let held := (List.range 8).any (fun k => decide (s.rd i (k + 1) + s.rise n < lims.getD k 0))
    let s := (List.range 8).foldl (fun s k => s.wr i (k + 1) (ramped (s.rd i (k + 1)) (lims.getD k 0) (s.rise n))) s
    let lim (k : Nat) : Nat := if cause ≠ 0 then 0xFFFF else (s.limiting gs k).getD 0xFFFF
    let s := (s.wr i 0x09 (lim 0)).wr i 0x0A (lim 4)
    let sig := (List.range 8).any (fun k => match s.limiting gs k with | some g => bit (s.el g).sigma k | none => false)
    let stale := es.stale > 0 || gs.any (fun g => bit (consOf (s.fastRec g)) 15)
    let flags := (if der < 100 then 256 else 0) + (if stale then 128 else 0) + (if cause ≠ 0 then 32 else 0) +
      (if s.rdBit (0x2840 + n) 0x0E 1 then 16 else 0) + (if s.rdBit (0x2840 + n) 0x0E 0 then 8 else 0) +
      (if gs.any (fun g => (s.el g).thermal != 0) then 4 else 0) + (if cause == 0 && sig then 2 else 0) + (if held then 1 else 0)
    let s := (s.wr i 0x0B flags).setEs n
      { es with zero := cause, comp := lims, vrel := (List.range 8).map (sumF (·.vrel)), rsum := (List.range 8).map (sumF (·.rsum)) }
    if cause ≠ 0 && es.zero == 0 then s.post 0x4020 n (le 1 cause) else s

/-! ## Limits of the section (R320–R322, R335) -/

/-- w′ of a counted string. -/
def Chip.shareW (s : Chip) (n cnt : Nat) : F32 :=
  fMul (fMax (s.es n).share (f32OfFrac 1 cnt)) (fAdd fOne (s.profF 0x2600 0x21 1000))

/-- Section limits, powers and flags. -/
def Chip.sectionLimits (s : Chip) : Chip :=
  let ns := (List.range 32).filter s.counted
  let cnt := ns.length
  let lim (n k : Nat) : Nat := (s.es n).comp.getD k 0
  let target (k : Nat) : Nat :=
    if ns.isEmpty || s.swi.ramp then 0
    else
      let qs := ns.map (fun n => (max 0 (min 4294967295 (f32Floor (fDiv (fInt (lim n k : Nat)) (s.shareW n cnt))))).toNat)
      min (qs.foldl min (qs.headD 0)) ((ns.map (fun n => lim n k)).foldl (· + ·) 0)
  let rate := (ns.map s.rise).foldl (· + ·) 0
  let held := (List.range 8).any (fun k => decide (s.rd 0x2600 (k + 1) + rate < target k))
  let s := (List.range 8).foldl (fun s k => s.wr 0x2600 (k + 1) (ramped (s.rd 0x2600 (k + 1)) (target k) rate)) s
  let vEnd (n k : Nat) : F32 :=
    let e := s.es n
    let i := fMul (f32OfFrac (s.rd 0x2600 (k + 1)) 1000) (s.shareW n cnt)
    let d := fMul (e.rsum.getD k 0) i
    if k < 4 then fSub (e.vrel.getD k 0) d else fAdd (e.vrel.getD k 0) d
  let power (k : Nat) : Nat :=
    match ns.map (fun n => vEnd n k) with
    | [] => 0
    | v :: vs =>
      let w := vs.foldl (fun a b => if k < 4 then fMin a b else fMax a b) v
      (max 0 (min 4294967295 (f32Floor (fMul (f32OfFrac (s.rd 0x2600 (k + 1)) 1000) w)))).toNat
  let s := (List.range 8).foldl (fun s k => s.wr 0x2600 (k + 9) (power k)) s
  let fl (b : Nat) : Bool := ns.any (fun n => s.rdBit (0x2620 + n) 0x0B b)
  let flags := (if fl 8 then 256 else 0) + (if fl 7 then 128 else 0) + (if s.swi.ramp then 64 else 0) +
    (if ns.isEmpty || fl 5 then 32 else 0) + (if fl 4 then 16 else 0) + (if fl 3 then 8 else 0) + (if fl 2 then 4 else 0) +
    (if fl 1 then 2 else 0) + (if held then 1 else 0)
  (s.wr 0x2600 0x11 flags).wr 0x2600 0x12 cnt

/-! ## FAST_TIER_STOP (R50, R62, R63, R274) -/

/-- Is there fast-tier work in a logical lane? -/
def Chip.laneBusy (s : Chip) (l : Nat) : Bool := (s.lanePos (l / 4) (l % 4)).any (fun p => s.herdState (l / 4) p == 2)

/-- The results of a lane are stale: its elements stand as they were before the tick. -/
def Chip.laneStale (s : Chip) (l : Nat) : Chip :=
  let r := l / 4
  let ps := s.lanePos r (l % 4)
  let s := ps.foldl (fun s p => (List.range 16).foldl (fun s e =>
      let g := r * 1024 + p * 16 + e
      let b := Map.read [] s.fastOld g
      let x : Elem := Map.read {} s.elemOld g
      ((s.setFast g b).setEl g x).markStale g) s) s
  let ns := (List.range 32).filter (fun n => ps.any (fun p => s.stringOf r p == some n))
  let s := ns.foldl (fun s n => s.setEs n { s.es n with laneStale := true }) s
  let s := { s with sched := { s.sched with staleFor := Map.write 0 s.sched.staleFor l (Map.read 0 s.sched.staleFor l + 1) } }
  s.wrBit 0x2100 0x09 l true

/-- The entries of a lane are fresh (R319). -/
def Chip.laneFresh (s : Chip) (l : Nat) : Chip := { s with sched := { s.sched with staleFor := Map.write 0 s.sched.staleFor l 0 } }

/-- The most consecutive ticks for which a lane of string `n` has been stale (R319). -/
def Chip.staleTicks (s : Chip) (n : Nat) : Nat :=
  match s.headOf n with
  | none => 0
  | some (r, _) =>
    let ls := (List.range 4).filter (fun l => (s.lanePos r l).any (fun p => s.stringOf r p == some n))
    (ls.map (fun l => Map.read 0 s.sched.staleFor (4 * r + l))).foldl max 0

/-- A fast-tier overrun of a lane (R62, R63). -/
def Chip.laneOverrun (s : Chip) (l : Nat) (prot : Bool) : Chip :=
  let s := (s.laneStale l).inc 32 0x2100 0x06
  let s := (s.flag 0x2100 0x05 4).post (if prot then 0x6034 else 0x6030) l
  let s := if prot then (s.flag 0x2100 0x05 7).undecided l else s
  { s with sched := { s.sched with overrun := true } }

/-- The results of a lane are discarded without an overrun: its pair has stopped (R485), or its region was reset (R461). -/
def Chip.laneVoid (s : Chip) (l : Nat) : Bool :=
  s.lock.stale.getLsbD l || (Map.read {} s.tines (l / 4 * 5 + s.physOf (l / 4) (l % 4))).stopped || s.rd (0x6064 + l / 16) 0x01 != 0

/-- The hardware stops fast-tier jobs that still run: their counts end there, and their lanes are incomplete (R50, R59, R402). -/
def Chip.stopFastJobs (s : Chip) : Chip :=
  (List.range 80).foldl (fun s n =>
    let t : TineId := .lane (Fin.ofNat 16 (n / 5)) (Fin.ofNat 5 (n % 5))
    let x := s.tine t
    if x.run && (x.job.kind == 1 || x.job.kind == 2) then ((s.report t).faultFollows t x.job.kind).endInvocation t none false else s) s

/-- At 0.65P the requests that have come up during the fast tier, and long addressed frames, leave in queue order (R129). -/
def Chip.addressedWindow (s : Chip) : Chip :=
  (List.range 16).foldl Chip.goOn s

/-- FAST_TIER_STOP: `protDone` and `estDone` name the logical lanes that have completed. -/
def Chip.fastTierStop (s : Chip) (protDone estDone : BitVec 64) : Chip :=
  if !s.up then s
  else
    let s := (s.atPhase 65).stopFastJobs.addressedWindow
    let s := { (s.wr 0x2100 0x09 0) with pubOld := s.pub, slotOld := s.slotPub }
    let s := (List.range 64).foldl (fun s l =>
      let prot := !protDone.getLsbD l || s.sched.protFail.getLsbD l
      let est := !estDone.getLsbD l || s.sched.estFail.getLsbD l
      if !s.laneBusy l then s.laneFresh l else if s.laneVoid l then s.laneStale l
      else if prot || est then s.laneOverrun l prot else s.laneFresh l) s
    let s := (List.range 32).foldl (fun s n =>
      ((s.setEs n { s.es n with stale := s.staleTicks n }).summary n).balanceWatch n) s
    let s := ((List.range 32).foldl Chip.stringLimits s).sectionLimits.sectionSummary
    { s.sumHours with pub := s.fastShown, slotPub := s.slotData, sched := { s.sched with published := false } }

def execFastTierStop (protDone estDone : BitVec 64) : State → Host.Outcome State Fault Refusal :=
  lift (·.fastTierStop protDone estDone)

end Sys2Proof.Machine
end

