-- ==== Sys2Proof/Machine/TineMem.lean ====
section
/-!
DEFINITION. Sys2Proof/Machine/TineMem.lean: the memory of a Tine (R387, R403), its loads and stores, the slot, frame,
record and interpolation instructions, and the commands that start and wake an invocation (R394–R405).
-/

namespace Sys2Proof.Machine

/-! ## Address spaces (R403) -/

/-- Where an access goes. -/
inductive Route where
  /-- bytes of State.mem from this key; shared memory waits for its arbiter -/
  | mem (key : Nat) (shared : Bool)
  /-- bytes of a cached slow record -/
  | slow (e off : Nat)
  /-- a readable window whose layout the spec does not give -/
  | open_
  | deny
  deriving DecidableEq, Repr

/-- Byte offsets in block shared SRAM, in the order of the table of R19 (log entry 35). -/
def offIncoming : Nat := 0x20000
def offOutgoing : Nat := 0x24000
def offStrings : Nat := 0x2B000
def offExchange : Nat := 0x2F000

/-- The global element whose cached record lies at an offset of the page window. -/
def Chip.windowElem (s : Chip) (off : Nat) : Option Nat :=
  match s.pages.find? (fun x => x.2.frame == off / 4096 && x.2.usable) with
  | some (m, _) => some (4 * m + off % 4096 / 1024)
  | none => none

/-- Is the head of a string in the lane's range? -/
def Chip.holdsHead (s : Chip) (r l : Nat) : Bool := (s.lanePos r l).any (s.isHead r)

/-- The rights of a lane's job (R403). -/
def Chip.laneRoute (s : Chip) (t : TineId) (b : Nat) (l : Option Nat) (kind a : Nat) (write : Bool) : Route :=
  if 0x10000000 ≤ a && a < 0x10006C00 then (if write then .deny else .mem (localKey t a) false)
  else if 0x10008000 ≤ a && a < 0x10010000 then .mem (localKey t a) false
  else if 0x20000000 ≤ a && a < 0x20040000 then
    let off := a - 0x20000000
    if offIncoming ≤ off && off < offOutgoing then (if write then .deny else .open_)
    else if offStrings ≤ off && off < offExchange then
      (if l.any (s.holdsHead b) then .mem (sharedKey b off) true else .deny)
    else if offExchange ≤ off then
      (if l.any (fun i => offExchange + 0x4400 * i ≤ off && off < offExchange + 0x4400 * (i + 1)) then .mem (sharedKey b off) true
       else .deny)
    else .deny
  else if 0x30000000 ≤ a && a < 0x30200000 then
    if write || kind != 3 then .deny
    else match s.windowElem (a - 0x30000000) with
      | some e => .slow e (a % 1024)
      | none => .open_
  else .deny

/-- Local data of the other places lies where a lane has its data, in the size of R387 (log entry 35). -/
def Chip.route (s : Chip) (t : TineId) (kind a : Nat) (write : Bool) : Route :=
  match t with
  | .lane b l => s.laneRoute t b.val (s.logicalOf b.val l.val) kind a write
  | .ringCtl _ => if 0x10000000 ≤ a && a < 0x10002000 then .mem (localKey t a) false else .deny
  | _ => if 0x10000000 ≤ a && a < 0x10001000 then .mem (localKey t a) false else .deny

/-! ## Loads and stores (R393) -/

/-- Cycles that an arbiter makes a shared access wait: open, and counted in CYC (R59). -/
def Chip.arbWait (s : Chip) : Nat × Chip :=
  let (v, s) := s.draw
  (v % 2 ^ 16, s)

/-- A command of a Tine over the whole state. -/
def State.onTine (s : State) (t : TineId) (provided : Bool) (f : State → Job → State) : State :=
  let c := s.chip.arm t
  let x := c.tine t
  if !x.live || x.job.pc % 4 != 0 || storeSize t ≤ x.job.pc || !provided then { s with chip := c.onTine t provided (fun c _ => c) }
  else
    let s' := f { s with chip := c } x.job
    { s' with chip := s'.chip.stepped t }

def State.tineFault (s : State) (t : TineId) (cause : Nat) : State := { s with chip := s.chip.tineFault t cause 0 }

/-- The place of the datum of a route and whether it lies in a local data memory. -/
def Route.place : Route → Nat × Bool
  | .mem k shared => (k, !shared)
  | .slow e off => (2 ^ 41 + 1024 * e + off, false)
  | _ => (2 ^ 42, false)

/-- Load `n` bytes from a + imm and put them where `put` says, least significant first; `keys` are the scoreboard keys; `ecc` is what the
SECDED checks find (R388). -/
def State.load (s : State) (ecc : EccResult) (t : TineId) (a n : Nat) (imm : BitVec 16) (keys : List Nat) (put : Job → Nat → Job) : State :=
  s.onTine t true (fun s j =>
    let addr := (j.gr a + imm.signExtend 32).toNat
    let r := s.chip.route t j.kind addr false
    let store := ecc == .storeCorrected || ecc == .storeDouble
    let s := if store then { s with chip := s.chip.eccError t ecc 0 true } else s
    if ecc == .storeDouble then s.tineFault t causeEcc
    else if addr % n != 0 then s.tineFault t causeAlign
    else if r == .deny then s.tineFault t causeAccess
    else
      let s := if store then s else { s with chip := s.chip.eccError t ecc r.place.1 r.place.2 }
      let go (c : Chip) (v lat : Nat) : State :=
        { s with chip := c.setJob t ((put (j.issue [a] 1) v).usableAll keys 1 lat) }
      if ecc == .double then s.tineFault t causeEcc
      else match r with
      | .mem k false => go s.chip (ofLE (Memory.load s.mem k n)) 2
      | .mem k true => let (w, c) := s.chip.arbWait; go c (ofLE (Memory.load s.mem k n)) (3 + w)
      | .slow e off => let (w, c) := s.chip.arbWait; go c (leAt (c.slowRec e) off n) (3 + w)
      | _ =>
        let (w, c) := s.chip.arbWait
        let (v, c) := c.draw
        go c (v % 2 ^ (8 * n)) (3 + w))

/-- A load into one register through `f`. -/
def State.loadG (s : State) (ecc : EccResult) (t : TineId) (d a n : Nat) (imm : BitVec 16) (f : Nat → Word) : State :=
  s.load ecc t a n imm [d] (fun j v => j.setG d (f v))

def execLdb (t : TineId) (d a : Fin 32) (imm : BitVec 16) (ecc : EccResult) (s : State) : Host.Outcome State Fault Refusal :=
  .next (s.loadG ecc t d a 1 imm (fun v => (BitVec.ofNat 8 v).signExtend 32))
def execLdbu (t : TineId) (d a : Fin 32) (imm : BitVec 16) (ecc : EccResult) (s : State) : Host.Outcome State Fault Refusal :=
  .next (s.loadG ecc t d a 1 imm (fun v => BitVec.ofNat 32 v))
def execLdh (t : TineId) (d a : Fin 32) (imm : BitVec 16) (ecc : EccResult) (s : State) : Host.Outcome State Fault Refusal :=
  .next (s.loadG ecc t d a 2 imm (fun v => (BitVec.ofNat 16 v).signExtend 32))
def execLdhu (t : TineId) (d a : Fin 32) (imm : BitVec 16) (ecc : EccResult) (s : State) : Host.Outcome State Fault Refusal :=
  .next (s.loadG ecc t d a 2 imm (fun v => BitVec.ofNat 32 v))
def execLdw (t : TineId) (d a : Fin 32) (imm : BitVec 16) (ecc : EccResult) (s : State) : Host.Outcome State Fault Refusal :=
  .next (s.loadG ecc t d a 4 imm (fun v => BitVec.ofNat 32 v))

/-- LDD: 64 bits into Gd and Gd+1, the lower address in Gd; an odd d is no instruction (log entry 33). -/
def execLdd (t : TineId) (d a : Fin 32) (imm : BitVec 16) (ecc : EccResult) (s : State) : Host.Outcome State Fault Refusal :=
  .next (if d.val % 2 == 1 then { s with chip := s.chip.onTine t false (fun c _ => c) }
    else s.load ecc t a 8 imm [d.val, d.val + 1] (fun j v => ((j.setG d (BitVec.ofNat 32 v)).setG (d + 1) (BitVec.ofNat 32 (v / 2 ^ 32)))))

/-- LDV: 64 bits into V(d[3:0]), the lower address in the low half. -/
def execLdv (t : TineId) (d a : Fin 32) (imm : BitVec 16) (ecc : EccResult) (s : State) : Host.Outcome State Fault Refusal :=
  .next (s.load ecc t a 8 imm (vkeys (d.val % 16)) (fun j v =>
    (j.setV false (d.val % 16) (BitVec.ofNat 32 v)).setV true (d.val % 16) (BitVec.ofNat 32 (v / 2 ^ 32))))

/-- FENCE: every store of the model is visible at once; the cycles it waits are open. -/
def execFence (t : TineId) : State → Host.Outcome State Fault Refusal :=
  lift (·.onTine t true (fun s j => let (w, s) := s.arbWait; s.setJob t (j.issue [] (1 + w))))

/-- Store the low `n` bytes of a value to a + imm. -/
def State.store (s : State) (t : TineId) (a n : Nat) (imm : BitVec 16) (srcs : List Nat) (v : Job → Nat) : State :=
  s.onTine t true (fun s j =>
    let addr := (j.gr a + imm.signExtend 32).toNat
    if addr % n != 0 then s.tineFault t causeAlign
    else match s.chip.route t j.kind addr true with
      | .mem k _ => { s with chip := s.chip.setJob t (j.issue (a :: srcs) 1), mem := Memory.store s.mem k (le n (v j)) }
      | _ => s.tineFault t causeAccess)

def execStb (t : TineId) (d a : Fin 32) (imm : BitVec 16) (s : State) : Host.Outcome State Fault Refusal :=
  .next (s.store t a 1 imm [d.val] (fun j => (j.gr d).toNat))
def execSth (t : TineId) (d a : Fin 32) (imm : BitVec 16) (s : State) : Host.Outcome State Fault Refusal :=
  .next (s.store t a 2 imm [d.val] (fun j => (j.gr d).toNat))
def execStw (t : TineId) (d a : Fin 32) (imm : BitVec 16) (s : State) : Host.Outcome State Fault Refusal :=
  .next (s.store t a 4 imm [d.val] (fun j => (j.gr d).toNat))
def execStd (t : TineId) (d a : Fin 32) (imm : BitVec 16) (s : State) : Host.Outcome State Fault Refusal :=
  .next (if d.val % 2 == 1 then { s with chip := s.chip.onTine t false (fun c _ => c) }
    else s.store t a 8 imm [d.val, d.val + 1] (fun j => (j.gr d).toNat + 2 ^ 32 * (j.gr (d + 1)).toNat))
def execStv (t : TineId) (d a : Fin 32) (imm : BitVec 16) (s : State) : Host.Outcome State Fault Refusal :=
  .next (s.store t a 8 imm (vkeys (d.val % 16)) (fun j =>
    (j.vr false (d.val % 16)).toNat + 2 ^ 32 * (j.vr true (d.val % 16)).toNat))

/-! ## Interpolation (R394) -/

/-- A word of a profile copy at `base`. -/
def State.copyWord (s : State) (t : TineId) (a : Nat) : F32 := BitVec.ofNat 32 (ofLE (Memory.load s.mem (localKey t a) 4))
def State.copyHalf (s : State) (t : TineId) (a : Nat) : Nat := ofLE (Memory.load s.mem (localKey t a) 2)

/-- Offsets in a profile copy: the descriptor's grid in °C, then the grid, OCV, parameter and energy tables of R245. -/
def copyOcv : Nat := 144
def copyPar : Nat := 3360
def copyEnergy : Nat := 7392

/-- The tables of the copy at `base`. -/
def State.copyGrid (s : State) (t : TineId) (base j : Nat) : F32 := s.copyWord t (base + 4 * j)
def State.copyTab (s : State) (t : TineId) (base : Nat) (energy : Bool) (i j : Nat) : FRes :=
  if energy then exactly (s.copyWord t (base + copyEnergy + 4 * (8 * i + j)))
  else f32Round false (s.copyHalf t (base + copyOcv + 2 * (8 * i + j))) 10000
def State.copyParam (s : State) (t : TineId) (base k i j : Nat) : FRes :=
  exactly (s.copyWord t (base + copyPar + 24 * (8 * i + j) + 4 * k))

/-- An interpolation instruction of a lane: ga must point at a profile copy. The sticky flags of its operations are raised (R390). -/
def State.interp (s : State) (t : TineId) (vd va ga : Nat) (ok : Bool) (f : State → Nat → F32 → F32 → FRes × FRes) : State :=
  s.onTine t (t.isLane && ok) (fun s j =>
    let base := (j.gr ga).toNat
    if base % 4 != 0 then s.tineFault t causeAlign
    else if base < 0x10000000 || 0x10006C00 < base + 13824 then s.tineFault t causeAccess
    else
      let (lo, hi) := f s base (j.vr false va) (j.vr true va)
      let j := (j.issue (vkeys va ++ [ga]) 10).setV false vd lo.val
      { s with chip := s.chip.setJob t (((j.setV true vd hi.val).raise (lo.flags ||| hi.flags)).usableAll (vkeys vd) 10 10) })

/-- OCVI. -/
def execOcvi (t : TineId) (vd va : Fin 16) (ga : Fin 32) (energy : Bool) (s : State) : Host.Outcome State Fault Refusal :=
  .next (s.interp t vd va ga true (fun s base x tc =>
    let (v, d) := bilinearF (s.copyTab t base energy) (gridPosF x hOcv 201) (tempPosF (s.copyGrid t base) tc)
    (v, FRes.op f32Div d (exactly hOcv))))

/-- TBLI: parameters k and k + 1; k above 4 is no function of it. -/
def execTbli (t : TineId) (vd va : Fin 16) (ga : Fin 32) (k : Fin 8) (s : State) : Host.Outcome State Fault Refusal :=
  .next (s.interp t vd va ga (decide (k.val ≤ 4)) (fun s base x tc =>
    let pu := gridPosF x hPar 21
    let pw := tempPosF (s.copyGrid t base) tc
    ((bilinearF (s.copyParam t base k) pu pw).1, (bilinearF (s.copyParam t base (k + 1)) pu pw).1)))

/-! ## Slots, frames and records (R395–R397) -/

/-- The ring a Tine works on, and whether a position is its own. -/
def ringOf : TineId → Nat
  | .lane b _ => b.val
  | .ringCtl r => r.val
  | _ => 0

def Chip.ownsPos (s : Chip) (t : TineId) (p : Nat) : Bool :=
  match t with
  | .lane b l => match s.logicalOf b.val l.val with
    | some i => (s.lanePos b.val i).contains p
    | none => false
  | _ => p < 64

/-- State word of a slot (R395): 4 empty or not admitted, 3 head, 2 untimed, 1 stale, 0 fresh. -/
def Chip.slotWord (s : Chip) (r p : Nat) (x : SlotRec) : Nat :=
  let st := if s.herdType r p == 2 then 3 else if s.herdState r p != 2 then 4 else if x.age != 0 then 1 else if x.untimed then 2 else 0
  st * 2 ^ 28 + min x.age 255 * 2 ^ 20 + x.seq % 65536

/-- The 48 bytes of a slot with its CRC. -/
def Chip.slotBytes (s : Chip) (r p : Nat) : List Byte :=
  let x := Map.read {} s.slotData (r * 64 + p)
  let b := fit 44 x.bytes
  b ++ be 4 (crc32c (be 2 (x.seq % 65536) ++ b)).toNat

/-- What SLD reads; `none` where the kind and offset name nothing in the slot. -/
def Chip.sldValue (s : Chip) (r p : Nat) (imm : BitVec 16) : Option Nat :=
  let v := imm.toNat
  let off := v % 2 ^ 14
  match v / 2 ^ 14 with
  | 0 => if off + 2 ≤ 48 then some (beAt (s.slotBytes r p) off 2) else none
  | 1 => if off + 4 ≤ 48 then some (beAt (s.slotBytes r p) off 4) else none
  | 2 => some (s.slotWord r p (Map.read {} s.slotData (r * 64 + p)))
  | _ =>
    let e := bits v 13 10
    let b := Map.read [] s.burstData ((r * 64 + p) * 16 + e)
    some (if b.isEmpty || beAt b 34 1 ≤ bits v 9 6 then 0xFFFFFFFF else beAt b (2 * bits v 9 6) 2)

/-- SLD. -/
def Chip.sld (s : Chip) (t : TineId) (d a : Nat) (imm : BitVec 16) : Chip :=
  s.onTine t (t.isLane || t.isRing) (fun s j =>
    let p := (j.gr a).toNat
    let kind := imm.toNat / 2 ^ 14
    if !s.ownsPos t p then s.tineFault t causeAccess 0
    else if (kind == 0 && imm.toNat % 2 != 0) || (kind == 1 && imm.toNat % 4 != 0) then s.tineFault t causeAlign 0
    else match s.sldValue (ringOf t) p imm with
      | none => s.tineFault t causeAccess 0
      | some v =>
        let (w, s) := s.arbWait
        s.setJob t (((j.issue [a] (4 + w)).setG d (BitVec.ofNat 32 v)).usable d 1 1))

def execSld (t : TineId) (d a : Fin 32) (imm : BitVec 16) : State → Host.Outcome State Fault Refusal := lift (·.sld t d a imm)

/-- SST: a duty in a lane, a word of the frame under assembly in a ring controller. -/
def execSst (t : TineId) (d a : Fin 32) (imm : BitVec 16) (s : State) : Host.Outcome State Fault Refusal :=
  .next (s.onTine t (t.isLane || t.isRing) (fun s j =>
    if t.isLane then
      let p := (j.gr a).toNat
      if !s.chip.ownsPos t p then s.tineFault t causeAccess
      else
        let k := ringOf t * 1024 + p * 16 + imm.toNat % 16
        let c := s.chip.setJob t (j.issue [a.val, d.val] 2)
        { s with chip := { c with duty := Map.write 0 c.duty k ((j.gr d).toNat % 256) } }
    else
      let addr := (j.gr a + imm.signExtend 32).toNat
      if addr % 4 != 0 then s.tineFault t causeAlign
      else match s.chip.route t j.kind addr true with
        | .mem k _ => { s with chip := s.chip.setJob t (j.issue [a.val, d.val] 2), mem := Memory.store s.mem k (le 4 (j.gr d).toNat) }
        | _ => s.tineFault t causeAccess))

/-- The slots of a SWEEP that the program has filled get their slot CRC over SEQ and bytes 0–43 (R396, R104). DESIGN CHOICE (log entry 148): a
slot is marked as filled where it is not all zeros, as R102 has the master send the others. -/
def sealSlots (seq : Nat) : Nat → List Byte → List Byte
  | 0, b => b
  | n + 1, b =>
    let x := b.take 44
    let x := if (b.take 48).all (· == 0#8) then b.take 48 else x ++ be 4 (crc32c (be 2 seq ++ x)).toNat
    x ++ sealSlots seq n (b.drop 48)

/-- The frame assembled at an address: header bytes 0–10 of R93 and the payload; the port adds both checks and the slot CRCs. -/
def assembled (b : List Byte) (up : Bool) : Frame :=
  let pl := (b.drop 12).take (beAt b 3 2)
  let seq := beAt b 5 2
  let pl := if beAt b 0 1 / 16 == 1 then pl.take 12 ++ sealSlots seq ((pl.length - 12) / 48) (pl.drop 12) else pl
  Frame.seal
    { type := beAt b 0 1 / 16, up := up, fold := false, resp := false, hop := beAt b 1 1, pos := 0, seq := seq,
      epoch := beAt b 7 2, status := 0, payload := pl, hcrc := 0, fcrc := 0 }

/-- Queue a frame on a port, in front where it is privileged. An addressed request waits while 16 tags are taken or the window of R129
is closed, and behind others that wait; a CTRL CLOSE is refused under the SAFE-HOLD latch (R36). -/
def Chip.queueFrame (s : Chip) (r : Nat) (f : Frame) (first : Bool) : Chip :=
  let g := s.ring r
  let addressed := !(1 ≤ f.type && f.type ≤ 3)
  if s.adopt.safeHold && f.type == 6 && beAt f.payload 0 1 == 2 then s
  else if addressed && ((f.hop < 64 && 16 ≤ g.txs.length) || !s.mayLeave r (frameNs f) || (!first && !g.held.isEmpty)) then
    s.setRing r { g with held := if first then f :: g.held else g.held ++ [f] }
  else s.setRing r (s.placeFrame r f first)

/-- FQ. -/
def execFq (t : TineId) (a b : Fin 32) (s : State) : Host.Outcome State Fault Refusal :=
  .next (s.onTine t t.isRing (fun s j =>
    let addr := (j.gr a).toNat
    match s.chip.route t j.kind addr false with
    | .mem k _ =>
      let hdr := Memory.load s.mem k 12
      let f := assembled (Memory.load s.mem k (12 + beAt hdr 3 2)) (bit (j.gr b).toNat 0)
      { s with chip := (s.chip.setJob t (j.issue [a.val, b.val] 2)).queueFrame (ringOf t) f (bit (j.gr b).toNat 1) }
    | _ => s.tineFault t causeAccess))

/-- Where an RCOMMIT may write: a fast record of the lane's own positions, or a record of a page granted to the job. -/
def Chip.commitTarget (s : Chip) (t : TineId) (j : Job) (slow : Bool) (addr : Nat) : Option Nat :=
  if slow then
    if j.kind == 3 && 0x30000000 ≤ addr && addr < 0x30200000 then
      match s.windowElem (addr - 0x30000000) with
      | some e => if j.pages.contains (pageOf e) then some e else none
      | none => none
    else none
  else if 0x20000000 ≤ addr && addr < 0x20020000 then
    let e := (addr - 0x20000000) / 128
    if s.ownsPos t (e / 16) then some (ringOf t * 1024 + e) else none
  else none

/-- RCOMMIT (R397): the whole record at once; a slow record gets its CRC. -/
def execRcommit (t : TineId) (a b : Fin 32) (slow : Bool) (s : State) : Host.Outcome State Fault Refusal :=
  .next (s.onTine t t.isLane (fun s j =>
    let n := if slow then 1024 else 128
    let src := (j.gr a).toNat
    let dst := (j.gr b).toNat
    if src % 8 != 0 || dst % n != 0 then s.tineFault t causeAlign
    else match s.chip.route t j.kind src false, s.chip.route t j.kind (src + n - 8) false, s.chip.commitTarget t j slow dst with
      | .mem k false, .mem _ false, some e =>
        let bs := Memory.load s.mem k n
        let (w, c) := s.chip.arbWait
        let c := c.setJob t (j.issue [a.val, b.val] (4 + n / 8 + w))
        { s with chip := if slow then c.commitSlow e bs else { c with fast := Map.insert e bs c.fast } }
      | _, _, _ => s.tineFault t causeAccess))

/-! ## Special registers and events (R391, R398, R401, R407–R409) -/

/-- The value of a special register; 0 where the place has none or it is write-only. -/
def Chip.sreg (s : Chip) (t : TineId) (x : Tine) (n : Nat) : Nat :=
  let j := x.job
  match n with
  | 0x00 => j.cycNow [] % 2 ^ 32
  | 0x01 => j.lim
  | 0x02 => s.ticks % 2 ^ 32
  | 0x03 => s.clk.off % 2 ^ 32
  | 0x04 =>
    (match t with
     | .lane b l => (match s.logicalOf b.val l.val with
       | some i => s.laneEpoch b.val i * 65536 + s.laneLast b.val i * 256 + s.laneFirst b.val i
       | none => 0)
     | _ => 0)
  | 0x05 => placeOf t
  | 0x06 => j.stat
  | 0x07 => x.cause
  | 0x08 => if t.isLane then j.entry * 256 + j.kind else 0
  | 0x0A => if t.isLane then 0 else x.wake
  | 0x0B => if t.isRing then x.timer else 0
  | _ => 0

/-- MFS. -/
def execMfs (t : TineId) (d : Fin 32) (n : Fin 32) : State → Host.Outcome State Fault Refusal :=
  lift (·.onTine t true (fun s j =>
    s.setJob t (((j.issue [] 1).setG d (BitVec.ofNat 32 (s.sreg t (s.tine t) n))).usable d 1 1)))

/-- A string emergency posted by a lane (R398): CTRL OPEN to the named contactors of a string of its own ring. -/
def Chip.mtsEmerg (s : Chip) (t : TineId) (a : Nat) : Chip :=
  s.onTine t true (fun s j =>
    let w := (j.gr a).toNat
    let n := bits w 12 8
    match (if t.isLane then s.headOf n else none) with
    | some (r, _) =>
      if r == ringOf t then (s.emergencyOf n (bits w 1 0) 0 1).setJob t (j.issue [a] 1)
      else s.tineFault t causeAccess 0
    | none => s.tineFault t causeAccess 0)

/-- MTS_EMERG. -/
def execMtsEmerg (t : TineId) (a : Fin 32) : State → Host.Outcome State Fault Refusal := lift (·.mtsEmerg t a)

/-- MTS: STAT, TIMER in a ring controller, EMERG in a lane; any other register is RO or absent. -/
def Chip.mts (s : Chip) (t : TineId) (n a : Nat) : Chip :=
  if n = 0x09 then s.mtsEmerg t a
  else s.onTine t true (fun s j =>
    if n = 0x06 then
      s.setJob t { j.issue [a] 1 with stat := bits (j.gr a).toNat 4 0 + (if bit (j.gr a).toNat 8 then 256 else 0) }
    else if n = 0x0B && t.isRing then
      let s := s.setJob t (j.issue [a] 1)
      s.setTine t { s.tine t with timer := (j.gr a).toNat }
    else s.tineFault t causeAccess 0)

def execMts (t : TineId) (n : Fin 32) (a : Fin 32) : State → Host.Outcome State Fault Refusal := lift (·.mts t n a)

/-- WFT (R401): the invocation ends, and CYC is reported. -/
def execWft (t : TineId) : State → Host.Outcome State Fault Refusal :=
  lift (·.onTine t true (fun s _ => (s.report t).endInvocation t (s.tine t).disp false))

/-- WFE (R401): suspended until an event of the mask. -/
def execWfe (t : TineId) (mask : BitVec 16) : State → Host.Outcome State Fault Refusal :=
  lift (·.onTine t (!t.isLane) (fun s j =>
    let s := s.setJob t (j.issue [] 1)
    s.setTine t { s.tine t with wait := some (mask.toNat % 512) }))

/-- WFE_WAKE (R401): events named in the mask end the wait; the cycles waited count in CYC and are open. -/
def execWfeWake (t : TineId) (events : BitVec 9) : State → Host.Outcome State Fault Refusal :=
  lift (fun s =>
    let x := s.tine t
    match x.wait with
    | none => s
    | some m =>
      let w := m &&& events.toNat
      if w = 0 then s
      else
        let (c, s) := s.draw
        s.setTine t { x with wait := none, wake := w, job := { x.job with cyc := x.job.cyc + c } })

/-- CLD (R407): the oldest entry of the port's ring is the frame being filtered. -/
def execCld (t : TineId) (d : Fin 32) (imm : BitVec 16) : State → Host.Outcome State Fault Refusal :=
  lift (·.onTine t t.isCan (fun s j =>
    let e := match t with
      | .can p => (s.can p.val).ring.headD []
      | _ => []
    let i := imm.toNat
    let v := if i < 3 then leAt e (4 * i) 4 else if 0x10 ≤ i && i < 0x20 then leAt e (16 + 4 * (i - 0x10)) 4 else 0
    s.setJob t (((j.issue [] 2).setG d (BitVec.ofNat 32 v)).usable d 1 1)))

/-- CDISP. -/
def execCdisp (t : TineId) (a : Fin 32) : State → Host.Outcome State Fault Refusal :=
  lift (·.onTine t t.isCan (fun s j =>
    let s := s.setJob t (j.issue [a.val] 1)
    s.setTine t { s.tine t with disp := some ((j.gr a).toNat % 16) }))

/-- ETRG (R408): snapshot set and flush request for the event at the ingest port. -/
def execEtrg (t : TineId) (a : Fin 32) (s : State) : Host.Outcome State Fault Refusal :=
  .next (s.onTine t t.isRecorder (fun s j =>
    let v := (j.gr a).toNat
    { s with chip := s.chip.setJob t (j.issue [a.val] 1), rcd := { s.rcd with trig := some (v % 256, bit v 8) } }))

/-- FAULT (R409). -/
def execFault (t : TineId) (code : Byte) : State → Host.Outcome State Fault Refusal :=
  lift (·.onTine t true (fun s _ => s.tineFault t causeProgram code.toNat))

/-! ## Watches (R405–R407) -/

/-- SLOW_JOB_RUNAWAY (R405). -/
def execSlowJobRunaway (block : Fin 16) (lane : Fin 5) : State → Host.Outcome State Fault Refusal :=
  lift (fun s =>
    let j := (s.tine (.lane block lane)).job
    if j.kind == 3 && 8 * j.lim < j.cyc then s.tineFault (.lane block lane) causeRunaway 0 else s)

/-- SWEEP_PROGRAM_WATCH (R406): only privileged and queued frames go out for the rest of the tick. -/
def execSweepProgramWatch (r : RingNo) : State → Host.Outcome State Fault Refusal :=
  lift (·.tineFault (.ringCtl r) causeWatch 0)

/-- FILTER_TRIGGER_WATCH (R407, R408): 4 times the declared figure; cycles waited in WFE count. -/
def execFilterTriggerWatch (t : TineId) : State → Host.Outcome State Fault Refusal :=
  lift (fun s =>
    let x := s.tine t
    if (t.isCan || t.isRecorder) && (x.wait.isSome || decide (4 * (s.jobFigure t x.job).2 ≤ x.job.cyc)) then s.tineFault t causeWatch 0
    else s)

/-! ## Job start (R400, R404, R405, R429, R430, R434) -/

/-- The entry arguments of R404. -/
def Chip.jobArgs (s : Chip) (b i kind entry : Nat) (param : Word) : Map Word :=
  let w (n : Nat) : Word := BitVec.ofNat 32 n
  [w (s.laneFirst b i), w (s.laneLast b i), w s.ticks, w (s.laneEpoch b i), w kind, param, w entry].zipIdx.foldl
    (fun g x => Map.write 0 g (x.2 + 1) x.1) []

/-- Slot of the kernel that a block's lanes run for a code: the one broadcast into them, or the active one (R419). -/
def Chip.loadedKernel (s : Chip) (b code : Nat) : Option Nat :=
  match Map.read 0 s.sched.loaded (b * 256 + code) with
  | 0 => s.kernelSlot code
  | k + 1 => some k

/-- The kernel of a position's string, as its lane runs it. -/
def Chip.runKernel (s : Chip) (b p : Nat) : Option Nat := (s.stringOf b p).bind (fun n => s.loadedKernel b (s.kernelOf n))

/-- The kernels of a lane's strings, in the order of its positions. -/
def Chip.laneKernels (s : Chip) (b i : Nat) : List Nat := ((s.lanePos b i).filterMap (s.runKernel b)).eraseDups

/-- Slot of the image a lane job runs: the protection program; of the lane's kernels the next one for an estimator job (R49), and for a slow
job that of the string whose records it names, or the first. None where that kernel is disabled (R410). -/
def Chip.jobImage (s : Chip) (b i kind ran : Nat) (ms : List Nat) : Option Nat :=
  let ks := s.laneKernels b i
  let k := if kind == 1 then some 4
    else if kind == 2 then ks[ran % max 1 ks.length]?
    else match ms with
      | m :: _ => s.runKernel b (m / 4 % 64)
      | [] => ks.head?
  k.filter (fun k => decide (k < 8) || s.rd (0x2E10 + k) 0x01 != 4)

/-- May the scheduler place this job now (R49, R58)? The estimator after the protection program; a slow job with the shed level at 0, not
before its due tick nor behind a later one, while the slow jobs placed in the tick take at most 85 % of the slow window. -/
def Chip.mayPlace (s : Chip) (x : Tine) (kind due cycles : Nat) : Bool :=
  if kind == 3 then s.rd 0x2100 0x03 == 0 && decide (due ≤ s.ticks) && decide (x.due ≤ due) && decide (x.slow + cycles ≤ slowLimit s.clk.p)
  else if kind == 2 then x.protRan
  else kind == 1

/-- The job that a JOB_START places: fresh registers with the entry arguments, or a suspended slow job from its context. -/
def Chip.jobToPlace (s : Chip) (t : TineId) (block i kind entry : Nat) (param : Word) (ms : List Nat) (resume : Option Nat) : Option Job :=
  let fresh := (s.jobImage block i kind (s.tine t).estRan ms).map (fun k =>
    ({ g := s.jobArgs block i kind entry param, kind := kind, entry := entry, image := k, pages := ms
       pc := imgEntry (s.image k) entry + (if kind == 1 then 0 else s.kernelBase block k) } : Job))
  let j := match resume with
    | some c =>
      let x : Job := Map.read {} (s.tine t).ctxs c
      if kind == 3 && x.kind == 3 then some { x with pages := ms } else fresh
    | none => fresh
  j.map (fun j =>
    let (no, decl) := s.jobFigure t j
    { j with lim := s.effective no decl })

/-- JOB_START: a request with another role epoch than the lane's is refused with STALE_ROLE (R75); slow jobs wait for their pages. -/
def Chip.jobStart (s : Chip) (block : Fin 16) (lane : Fin 5) (kind entry : Nat) (param : Word) (ms : List Nat) (resume : Option Nat)
    (due epoch : Nat) : Chip :=
  let t := TineId.lane block lane
  let x := s.tine t
  match s.logicalOf block lane with
  | none => s
  | some i =>
    if epoch != s.laneEpoch block i then s.setTine t { x with reply := rSTALE }
    else
      let ms := if kind == 3 then ms else []
      match s.jobToPlace t block i kind entry param ms resume with
      | none => s
      | some j =>
        let need := j.lim - j.cyc
        if x.run || x.stopped || x.halted || s.rd (0x6064 + block.val / 4) 0x01 != 0 || !s.mayPlace x kind due need then s
        else
          let why := s.grantRefusal ms
          if why != 0 then s.defer block why ms
          else
            let ctxs := match resume with
              | some c => Map.write {} x.ctxs c {}
              | none => x.ctxs
            let (slow, due) := if kind == 3 then (x.slow + need, due) else (x.slow, x.due)
            (s.grantPages ms).setTine t
              { x with run := true, wait := none, job := j, ctxs := ctxs, reply := 0, slow := slow, due := due
                       estRan := if kind == 2 then x.estRan + 1 else x.estRan }

def execJobStart (block : Fin 16) (lane : Fin 5) (kind : Fin 4) (entry : Fin 8) (param : Word) (pages : List (Fin 4096))
    (resume : Option (Fin 16)) (due : Nat) (epoch : BitVec 16) : State → Host.Outcome State Fault Refusal :=
  lift (·.jobStart block lane kind entry param (pages.map (·.val)) (resume.map (·.val)) due epoch.toNat)

end Sys2Proof.Machine
end

