-- ==== Sys2Proof/Machine/Learn.lean ====
section
/-!
DEFINITION. Sys2Proof/Machine/Learn.lean: ends of initialisation and divergence, reserves and profiles
(07_element_estimation R246, R255, R266, R271), rest points, capacity, ageing and impedance (08_learning R277–R300).
-/

namespace Sys2Proof.Machine

/-! ## Flags of an element that end in time (R255, R271) -/

/-- Put CONS bits of an element's record; CONSISTENT follows (R271). -/
def Chip.setCons (s : Chip) (g c : Nat) : Chip :=
  let ok := !bit c 11 && !bit c 12 && !bit c 14 && (s.el g).sinceGate == 16
  s.setFast g (splice (s.fastRec g) 18 (le 2 (putBit c 0 ok)))

/-- INIT_EXPIRY: INIT clears. -/
def Chip.initExpiry (s : Chip) (g : Nat) : Chip :=
  let b := s.fastRec g
  if b == [] || !bit (consOf b) 14 then s else s.setCons g (putBit (consOf b) 14 false)

def execInitExpiry (e : ElemNo) : State → Host.Outcome State Fault Refusal := lift (·.initExpiry e)

/-- DIVERGENCE_PERSISTS: DISAGREE of the element and of its string, with the DISAGREE cause of a rest request. -/
def Chip.divergencePersists (s : Chip) (g : Nat) : Chip :=
  let b := s.fastRec g
  match s.strOf g with
  | some n =>
    if b == [] || !bit (consOf b) 11 then s
    else
      let first := !s.rdBit (0x2840 + n) 0x0E 3
      let s := if first then s.setEs n { s.es n with disAt := some s.optime } else s
      let s := s.setCons g (putBit (putBit (consOf b) 11 false) 12 true)
      let s := (s.wrBit (0x2840 + n) 0x0E 3 true).wrBit 0x2800 0x01 3 true
      let d := fSub (recF b 32) (coulombSoc b (s.rd (0x2840 + n) 0x03))
      let s := if first then s.post 0x4004 n (le 2 g ++ le 4 d.toNat ++ le 4 (fSqrt (recF b 48)).toNat) else s
      s.raiseRest n 2
  | none => s

def execDivergencePersists (e : ElemNo) : State → Host.Outcome State Fault Refusal := lift (·.divergencePersists e)

/-- DISAGREE_CLEAR: the difference has stayed below half the threshold of 2800:04 for 60 s. -/
def Chip.disagreeClear (s : Chip) (g : Nat) : Chip :=
  let b := s.fastRec g
  match s.strOf g with
  | some n =>
    let d := f32Abs (fSub (recF b 32) (coulombSoc b (s.rd (0x2840 + n) 0x03)))
    let half := fMul (f32OfFrac 1 2) (s.profF 0x2800 0x04 10000)
    if b == [] || !bit (consOf b) 12 || !f32Lt d half then s
    else (s.setCons g (putBit (consOf b) 12 false)).disagreeShown n 1
  | none => s

def execDisagreeClear (e : ElemNo) : State → Host.Outcome State Fault Refusal := lift (·.disagreeClear e)

/-! ## Reserves (R266) -/

/-- A release takes effect: 2800:03, with 0x4009, or 0x400A where both are armed again. -/
def Chip.applyRelease (s : Chip) (v master : Nat) : Chip :=
  let s := (s.wr 0x2800 0x03 v).wrBit 0x2800 0x01 4 (v != 0)
  s.post (if v = 0 then 0x400A else 0x4009) master (le 1 v)

/-- RESERVE_RELEASE: a write of 2800:02 is kept for the next tick edge. -/
def Chip.reserveRelease (s : Chip) (m : Master) (v : Nat) : Chip :=
  s.action m 1 (fun s => if v > 3 then s.answer .range else { s with release := some (v, masterCode m) })

def execReserveRelease (m : Master) (v : Byte) : State → Host.Outcome State Fault Refusal := lift (·.reserveRelease m v.toNat)

/-- RELEASE_EXPIRY: the release duration has run out, where one is set; no master issues the re-arm. -/
def Chip.releaseExpiry (s : Chip) : Chip :=
  if s.rd 0x2800 0x0C != 0 && s.rd 0x2800 0x03 != 0 then s.applyRelease 0 0 else s

def execReleaseExpiry : State → Host.Outcome State Fault Refusal := lift Chip.releaseExpiry

/-! ## Profiles (R244–R247) -/

/-- Bytes of objects 01–10 of a profile, in order (2810:11). -/
def Chip.profBytes (s : Chip) (pi : Nat) : List Byte :=
  le 1 (s.rd pi 0x01) ++ le 4 (s.rd pi 0x02) ++ le 2 (s.rd pi 0x03) ++ le 2 (s.rd pi 0x04) ++ le 2 (s.rd pi 0x05) ++
  s.rdDom pi 0x06 ++ s.rdDom pi 0x07 ++ s.rdDom pi 0x08 ++ le 4 (s.rd pi 0x09) ++ s.rdDom pi 0x0A ++
  [0x0B, 0x0C, 0x0D, 0x0E, 0x0F, 0x10].flatMap (fun j => le 2 (s.rd pi j))

/-- A profile copy (R403): the grid in °C, then the tables of R245. -/
def Chip.profCopy (s : Chip) (pi : Nat) : List Byte :=
  fit 128 ((List.range 8).flatMap (fun j => le 4 (s.profGrid pi j).toNat)) ++ fit 16 (s.rdDom pi 0x06) ++
  fit 3216 (s.rdDom pi 0x07) ++ fit 4032 (s.rdDom pi 0x08) ++
  (List.range 201).flatMap (fun i => (List.range 8).flatMap (fun j => le 4 (s.profEnergy pi i j).toNat))

/-- Profiles of the strings of a ring, lowest first: the order of the two copies in its lanes (log entry 48). -/
def Chip.ringProfiles (s : Chip) (r : Nat) : List Nat :=
  (List.range 8).filter (fun p => (List.range 32).any (fun n => s.rd (0x3200 + n) 0x01 == r && s.rd (0x2840 + n) 0x01 == p))

/-- Send a profile to every lane that runs a string of it: into the local memory of the physical lane (R403). -/
def State.sendProfile (s : State) (p : Nat) : State :=
  let c := s.chip
  (List.range 16).foldl (fun s r =>
    match (c.ringProfiles r).idxOf? p with
    | some k =>
      if k < 2 then
        let bytes := c.profCopy (0x2810 + p)
        (List.range 4).foldl (fun s i =>
          { s with mem := Memory.store s.mem ((5 * r + c.physOf r i + 1) * 2 ^ 32 + 0x10000000 + 13824 * k) bytes }) s
      else s
    | none => s) s

/-- Change a slow record from outside a job of its page: in its cached page, else through to eMRAM (log entry 47). -/
def Chip.updSlow (s : Chip) (e : Nat) (f : List Byte → List Byte) : Chip :=
  let b := f (s.slowRec e)
  if s.cached e then s.writeSlow e b
  else
    let s := s.keepBefore e
    let b := sealSlow (splice b 0 (le 4 ((leAt b 0 4 + 1) % 2 ^ 32)))
    { s with pager := { s.pager with slow := Map.insert e b s.pager.slow } }

/-- Until an element has learned its capacity, the nominal capacity of its string's profile stands in both its records (R243). -/
def Chip.nominalCapacity (s : Chip) (g : Nat) : Chip :=
  let slow := s.slowRec g
  if bit (leAt slow 6 2) 1 then s
  else
    let q := le 4 (s.qnomOf g).toNat
    let s := if (slow.drop 32).take 4 == q then s else s.updSlow g (fun b => splice b 32 q)
    s.putQcap g (s.qnomOf g)

/-- PROFILE_APPLY: the waiting values of a profile and the strings newly assigned to it come into force; elements whose
kernel or profile number changed are re-initialised (R247), those without a learned capacity take the nominal one (R243), and the
kernel is loaded (R419). -/
def Chip.profileApply (s : Chip) (p : Nat) : Chip :=
  let pi := 0x2810 + p
  let mineKey (k v : Nat) : Bool := k / 256 == pi || (0x2840 ≤ k / 256 && k / 256 < 0x2860 && v == p)
  let mine := s.profPend.filter (fun x => mineKey x.1 x.2)
  let doms := s.profPendDom.filter (fun x => x.1 / 256 == pi)
  if mine.isEmpty && doms.isEmpty then s
  else
    let oldCrc := crc32c (s.profBytes pi)
    let oldKernel := s.rd pi 0x01
    let oldQ := s.rd pi 0x02
    let oldProf := (List.range 32).map (fun n => s.rd (0x2840 + n) 0x01)
    let s := mine.foldl (fun s x => s.wr (x.1 / 256) (x.1 % 256) x.2) s
    let s := doms.foldl (fun s x => s.wrDom (x.1 / 256) (x.1 % 256) x.2) s
    let s := { s with profPend := s.profPend.filter (fun x => !mineKey x.1 x.2)
                      profPendDom := s.profPendDom.filter (fun x => x.1 / 256 != pi) }
    let crc := crc32c (s.profBytes pi)
    let s := s.wr pi 0x11 crc.toNat
    let moved := (List.range 32).filter (fun n =>
      s.rd (0x2840 + n) 0x01 == p && (oldProf.getD n 0 != p || oldKernel != s.rd pi 0x01))
    let s := moved.foldl (fun s n => (s.elemsOf n ++ s.cutElems n).foldl (fun s g => s.setEl g { s.el g with want := 2 }) s) s
    let sized := (List.range 32).filter (fun n =>
      s.rd (0x2840 + n) 0x01 == p && (oldProf.getD n 0 != p || oldQ != s.rd pi 0x02))
    let s := sized.foldl (fun s n => (s.elemsOf n ++ s.cutElems n).foldl Chip.nominalCapacity s) s
    let s := match s.kernelSlot (s.rd pi 0x01) with
      | some k => if moved.isEmpty || s.kernels.contains k then s else { s with kernels := s.kernels ++ [k] }
      | none => s
    s.post 0x400E p (le 4 oldCrc.toNat ++ le 4 crc.toNat)

def execProfileApply (profile : Fin 8) (s : State) : Host.Outcome State Fault Refusal :=
  .next ({ s with chip := s.chip.profileApply profile }.sendProfile profile)

/-! ## Rest points (R278–R281) -/

/-- REST_CHECKING: the references of the relaxation test are taken. -/
def Chip.restChecking (s : Chip) (n : Nat) : Chip :=
  let i := 0x2920 + n
  if s.rd i 0x01 == 1 && decide ((s.rd 0x2900 0x03 - s.rd 0x2900 0x04) * 1000 ≤ (s.es n).quietMs) then
    (s.elemsOf n).foldl (fun s g => s.setEl g { s.el g with ref := leAt (s.fastRec g) 20 2 }) (s.wr i 0x01 2)
  else s

def execRestChecking (n : StringNo) : State → Host.Outcome State Fault Refusal := lift (·.restChecking n)

/-- Does an element contribute to a check (R279)? -/
def Chip.contributes (s : Chip) (g : Nat) : Bool :=
  let b := s.fastRec g
  let c := consOf b
  let (r, p, e) := (g / 1024, g / 16 % 64, g % 16)
  b != [] && s.freshSlot r p && !bit c 15 && !bit c 14 && !bit c 9 && !bit c 10 && !bit (s.faultWord r p) (48 + e)

/-- Rest-point SoC and its σ (R280). -/
def Chip.restPoint (s : Chip) (n g : Nat) : F32 × F32 :=
  let pi := s.profIdx n
  let b := s.fastRec g
  let t := centi (toInt 16 (leAt b 22 2))
  let m := s.parAt pi 5 (recF b 32) t
  let x := s.ocvInverse pi (fSub (f32OfFrac (leAt b 20 2) 10000) (fMul m (recF b 44))) t
  let sv := s.profF pi 0x0B 1000000
  let p33 := mget (covOf b) 3 3
  let sig := fDiv (fSqrt (fAdd (fMul sv sv) (fMul (fMul m m) p33))) (f32Abs (s.ocvAt pi x t).2)
  (x, sig)

def u16 (x : F32) (k : Nat) : Nat := (fRound (fMul x (fInt k)) 0 65535).toNat

/-- Log entry of an element. -/
def Chip.logElement (s : Chip) (n id g : Nat) : Chip :=
  let (x, sig) := s.restPoint n g
  let b := s.fastRec g
  let entry := le 2 id ++ le 2 (u16 (fClamp x fZero fOne) 50000) ++ le 2 (u16 sig 50000) ++ (b.drop 22).take 2 ++ le 4 s.optime ++
    le 1 0 ++ zeros 3
  (s.setEl g { s.el g with logged := s.ticks + 1 }).updSlow g (fun r => splice r (768 + 16 * rpPlace r) entry)

/-- Re-anchor every admitted element of the string (R272): a stale one in its next fresh tick. What lies beyond byte 31 of an element on
a customer kernel is that kernel's own (R264). -/
def Chip.reanchor (s : Chip) (n : Nat) : Chip :=
  let cnt := s.rd (0x2840 + n) 0x03
  let gs := if s.ownKernel n then (s.elemsOf n).filter (fun g => s.fastRec g != []) else []
  let far := gs.foldl (fun m g =>
    let d := fSub (recF (s.fastRec g) 32) (coulombSoc (s.fastRec g) cnt)
    if f32Lt (f32Abs m) (f32Abs d) then d else m) fZero
  let s := gs.foldl (fun s g =>
    if bit (consOf (s.fastRec g)) 15 then s.setEl g { s.el g with anchorDue := true } else s.anchorElem n g) s
  (s.post 0x4006 n (le 4 far.toNat)).disagreeShown n 2

/-- The string log entry of an element's log entry `k`, with its rest id and time: power cycle, CNTEST count and the counters. Entries
that came with adopted records belong to another string's rest points and find none. -/
def Chip.stringLog (s : Chip) (n : Nat) (k : List Byte) : Option (List Byte) :=
  let b := s.rdDom (0x2920 + n) 0x14
  ((List.range (b.length / 48)).map (fun i => (b.drop (48 * i)).take 48)).find? (fun x =>
    leAt x 0 4 == leAt k 0 2 && leAt x 4 4 == leAt k 8 4)

/-- SoC loss of an element since its previous rest point beyond the charge passed and balancing, and the seconds between,
for one of the same power cycle and CNTEST count (R334). -/
def Chip.socLoss (s : Chip) (n g : Nat) : Option (F32 × Nat) :=
  let b := s.slowRec g
  match rpNewest b with
  | none => none
  | some i =>
    match s.stringLog n (rpAt b i) with
    | none => none
    | some l =>
      let d (k sub : Nat) : F32 := fInt (s.rdI 64 (0x2920 + n) sub - toInt 64 (leAt l k 8))
      let passed := fSub (fSub (fMul (s.profF (s.profIdx n) 0x05 10000) (d 16 0x0F)) (d 24 0x10)) (d 32 0x11)
      let q := fMul (fInt 3600) (recF (s.fastRec g) 92)
      let ds := fDiv (fMul (fSub passed (fInt (Int.ofNat (s.el g).balUc))) (f32OfFrac 1 1000000)) q
      let before := f32OfFrac (Int.ofNat (leAt (rpAt b i) 2 2)) 50000
      if leAt l 8 4 == s.rd 0x1040 0x02 && leAt l 12 4 == (s.es n).cntEst && leAt l 4 4 < s.optime then
        some (fSub (fAdd before ds) (s.restPoint n g).1, s.optime - leAt l 4 4)
      else none

/-- The largest loss beyond the string median, in 0.01 % a day. -/
def Chip.driftOf (s : Chip) (n : Nat) (gs : List Nat) : Nat :=
  let ls := gs.filterMap (s.socLoss n)
  let ys := sortBy f32Le (ls.map (·.1))
  let med := fMul (f32OfFrac 1 2) (fAdd (ys.getD ((ys.length - 1) / 2) fZero) (ys.getD (ys.length / 2) fZero))
  (ls.map (fun x =>
    (fRound (fDiv (fMul (fSub x.1 med) (fInt 10000)) (f32OfFrac (Int.ofNat x.2) 86400)) 0 65535).toNat)).foldl max 0

/-- Rest id of the newest entry of the string log, which goes on over restarts (R280; log entry 45); 0 where it has none. -/
def Chip.lastRest (s : Chip) (n : Nat) : Nat :=
  let b := s.rdDom (0x2920 + n) 0x14
  if b.length < 48 then 0 else leAt b (b.length - 48) 4

/-- A verified rest point (R280, R287, R289, R290). -/
def Chip.verifiedRest (s : Chip) (n : Nat) (gs : List Nat) : Chip :=
  let i := 0x2920 + n
  let id := s.lastRest n % 65535 + 1
  let entry := fit 48 (le 4 id ++ le 4 s.optime ++ le 4 (s.rd 0x1040 0x02) ++ le 4 (s.es n).cntEst ++ le 8 (s.rd i 0x0F) ++
    le 8 (s.rd i 0x10) ++ le 8 (s.rd i 0x11))
  let old := s
  let s := s.wrDom i 0x14 ((s.rdDom i 0x14 ++ entry).drop (if (s.rdDom i 0x14).length = 384 then 48 else 0))
  let drift := old.driftOf n gs
  let s := gs.foldl (fun s g => s.logElement n id g) s
  let s := (s.elemsOf n).foldl (fun s g => s.setEl g { s.el g with balUc := 0 }) s
  let s := s.reanchor n
  let s := s.setEs n { s.es n with restId := id, sinceRest := some s.optime, drift := drift }
  let s := (((s.wr i 0x01 3).inc 16 i 0x03).wr i 0x04 s.optime).wr i 0x05 0
  let s := s.post 0x4010 n (le 2 id ++ le 4 (s.rd i 0x02) ++ le 4 gs.length)
  let s := (s.elemsOf n).foldl (fun s g =>
    if bits (leAt (s.slowRec g) 6 2) 3 2 == 0 then s else s.updSlow g (fun b => setSFlag (setSFlag b 2 false) 3 false)) (s.wr i 0x0C 0)
  let causes := s.rd i 0x06
  if causes == 0 then s.showLearning
  else
    let m := s.meanTrue n / 5
    let inside := decide (s.rd i 0x09 ≤ m) && decide (m ≤ s.rd i 0x0A)
    let left := if bit causes 3 && !inside then 8 else 0
    let s := s.setRest n left
    if left == 0 then (s.post 0x4015 n (le 1 1 ++ le 1 0)).showLearning else s.showLearning

/-- How far an element's temperature has varied since SETTLING began. -/
def Chip.warmed (s : Chip) (g : Nat) : Int := (s.el g).tHi - (s.el g).tLo

/-- REST_CHECK (R279): a failed check renews every reference. -/
def Chip.restCheck (s : Chip) (n : Nat) : Chip :=
  let i := 0x2920 + n
  if s.rd i 0x01 != 2 then s
  else
    let all := s.elemsOf n
    let gs := all.filter s.contributes
    let es := s.es n
    let long := decide (s.rd 0x2900 0x03 * 1000 ≤ es.quietMs)
    let cover := decide (90 * all.length ≤ 100 * gs.length)
    let moved := gs.filter (fun g => decide (s.rd 0x2900 0x05 < s.relaxation g))
    let warm := gs.filter (fun g => decide ((s.rd 0x2900 0x06 : Int) < s.warmed g))
    if long && cover && moved.isEmpty && warm.isEmpty then s.verifiedRest n gs
    else
      let worst := moved.foldl (fun m g => if s.relaxation m < s.relaxation g then g else m) (moved.headD 0)
      let (cause, el) :=
        if !moved.isEmpty then (1, worst)
        else if !cover then (2, ((all.filter (fun g => !s.contributes g)).headD 0))
        else if !warm.isEmpty then (3, warm.foldl (fun m g => if s.warmed m < s.warmed g then g else m) (warm.headD 0)) else (0, 0)
      let s := if cause == 0 then s else s.setEs n { es with restCause := cause, restWorst := el, restRelax := s.relaxation el }
      all.foldl (fun s g => s.setEl g { s.el g with ref := leAt (s.fastRec g) 20 2 }) s

def execRestCheck (n : StringNo) : State → Host.Outcome State Fault Refusal := lift (·.restCheck n)

/-! ## Rest requests (R286–R290) -/

/-- REST_REQUEST_INTERVAL (R286): the INTERVAL cause after 2900:0A days. -/
def Chip.restRequestInterval (s : Chip) (n : Nat) : Chip :=
  let s := s.showRestAge n
  if s.rd 0x2900 0x0A * dayS ≤ s.restAge n && (s.es n).sinceRest.isSome then s.raiseRest n 0 else s

def execRestRequestInterval (n : StringNo) : State → Host.Outcome State Fault Refusal := lift (·.restRequestInterval n)

/-- CANCEL_REST_REQUEST (R288). -/
def Chip.cancelRest (s : Chip) (m : Master) (n v : Nat) : Chip :=
  s.action m 1 (fun s =>
    if v ≠ 1 then s.answer .range
    else if s.rd (0x2920 + n) 0x06 == 0 then s
    else ((s.setRest n 0).setEs n { s.es n with cancelled := true }).post 0x4015 n (le 1 2 ++ le 1 (masterCode m)))

def execCancelRestRequest (m : Master) (n : StringNo) (v : Byte) : State → Host.Outcome State Fault Refusal :=
  lift (·.cancelRest m n v.toNat)

/-- A learning flag of a string and the slow flag of its elements. -/
def Chip.setLearnFlag (s : Chip) (n k slowBit : Nat) : Chip :=
  (s.elemsOf n).foldl (fun s g => s.updSlow g (fun b => setSFlag b slowBit true)) (s.wrBit (0x2920 + n) 0x0C k true)

/-- LEARNING_SUSPENDED (R289): the newest rest point is older than 2900:09 days; the LEARN cause follows. -/
def Chip.learningSuspended (s : Chip) (n : Nat) : Chip :=
  if s.rdBit (0x2920 + n) 0x0C 0 || (s.es n).sinceRest.isNone || s.restAge n ≤ s.rd 0x2900 0x09 * dayS then s
  else
    let s := (s.setLearnFlag n 0 2).post 0x4016 n (le 4 (s.restAge n))
    (s.raiseRest n 3).showLearning

def execLearningSuspended (n : StringNo) : State → Host.Outcome State Fault Refusal := lift (·.learningSuspended n)

/-- UNREFRESHED (R290). -/
def Chip.unrefreshed (s : Chip) (n : Nat) : Chip :=
  if s.rdBit (0x2920 + n) 0x0C 1 || (s.es n).sinceRest.isNone || s.restAge n < s.rd 0x2900 0x0B * dayS then s
  else
    let d := min 65535 (s.restAge n / dayS)
    (((s.setLearnFlag n 1 3).showRestAge n).post 0x4017 n (le 2 d)).showLearning

def execUnrefreshed (n : StringNo) : State → Host.Outcome State Fault Refusal := lift (·.unrefreshed n)

/-! ## Capacity (R282–R285) -/

/-- A QHIST entry; in use where its capacity is not 0. -/
def qhAt (b : List Byte) (i : Nat) : List Byte := (b.drop (64 + 8 * i)).take 8
def qhist (b : List Byte) : List (List Byte) := ((List.range 16).map (qhAt b)).filter (fun x => leAt x 4 2 != 0)

/-- Put an entry into the history: over the newest within 7 days, else appended, the entry closest to its predecessor
making room; the first and the newest stay (R285). -/
def qhPut (xs : List (List Byte)) (x : List Byte) : List (List Byte) :=
  match xs.getLast? with
  | none => [x]
  | some y =>
    if leAt x 0 4 - leAt y 0 4 ≤ 7 * dayS then xs.dropLast ++ [x]
    else if xs.length < 16 then xs ++ [x]
    else
      let gap (i : Nat) : Nat := leAt (xs.getD i []) 0 4 - leAt (xs.getD (i - 1) []) 0 4
      let k := (List.range 14).foldl (fun m j => if gap (j + 1) < gap m then j + 1 else m) 1
      xs.eraseIdx k ++ [x]

/-- Least squares of the ageing model over the history (R297): k_cal, k_cyc and the rms residual. -/
def ageingFit (xs : List (List Byte)) : Option (F32 × F32 × F32) :=
  match xs.head?, xs.getLast? with
  | some a, some z =>
    if xs.length < 3 || leAt z 0 4 - leAt a 0 4 < 90 * dayS then none
    else
      let t0 := leAt a 0 4
      let pts := xs.map (fun x =>
        (fSqrt (f32OfFrac (Int.ofNat (leAt x 0 4 - t0)) (365 * dayS)), f32OfFrac (Int.ofNat (leAt x 6 2)) 1000,
          fSub fOne (f32OfFrac (Int.ofNat (leAt x 4 2)) 10000)))
      let sum (f : F32 × F32 × F32 → F32) : F32 := pts.foldl (fun a p => fAdd a (f p)) fZero
      let s11 := sum (fun p => fMul p.1 p.1)
      let s12 := sum (fun p => fMul p.1 p.2.1)
      let s22 := sum (fun p => fMul p.2.1 p.2.1)
      let b1 := sum (fun p => fMul p.1 p.2.2)
      let b2 := sum (fun p => fMul p.2.1 p.2.2)
      let det := fSub (fMul s11 s22) (fMul s12 s12)
      let kc := fDiv (fSub (fMul b1 s22) (fMul b2 s12)) det
      let ky := fDiv (fSub (fMul b2 s11) (fMul b1 s12)) det
      let (kc, ky) :=
        if f32Eq det fZero || f32Lt ky fZero then (fDiv b1 s11, fZero)
        else if f32Lt kc fZero then (fZero, fDiv b2 s22) else (kc, ky)
      let res := sum (fun p =>
        let d := fSub p.2.2 (fAdd (fMul kc p.1) (fMul ky p.2.1))
        fMul d d)
      some (kc, ky, fSqrt (fDiv res (fInt xs.length)))
  | _, _ => none

/-- The first day from 0 to 36,500 at which a rising function reaches its mark, by bisection. -/
def firstDay (f : Nat → Bool) : Nat → Nat → Nat → Nat
  | 0, _, hi => hi
  | k + 1, lo, hi => if hi ≤ lo then hi else
      let m := (lo + hi) / 2
      if f m then firstDay f k lo m else firstDay f k (m + 1) hi

/-- FEC in cycles at an operating time, on the straight lines between the entries of the history and the record's present figure (DESIGN
CHOICE, log entry 154). -/
def Chip.fecAt (s : Chip) (b : List Byte) (t : Nat) : F32 :=
  let pts : List (Nat × F32) := (qhist b).map (fun x => (leAt x 0 4, fInt (Int.ofNat (leAt x 6 2)))) ++
    [(s.optime, f32OfFrac (Int.ofNat (leAt b 648 4)) 1000)]
  match pts.reverse.find? (fun x => decide (x.1 ≤ t)), pts.find? (fun x => decide (t < x.1)) with
  | some p, some q => fAdd p.2 (fMul (fSub q.2 p.2) (f32OfFrac (Int.ofNat (t - p.1)) (q.1 - p.1)))
  | some p, none => p.2
  | none, some q => q.2
  | none, none => fZero

/-- Days until L reaches 1 − 2900:14, with FEC at its mean rate of the last 90 days (R298). -/
def Chip.lossDays (s : Chip) (b : List Byte) : Option Nat :=
  match (qhist b).head? with
  | some a =>
    if !bit (leAt b 6 2) 5 then none
    else
      let now := s.fecAt b s.optime
      let rate := fDiv (fSub now (s.fecAt b (s.optime - 90 * dayS))) (fInt 90)
      let reach (d : Nat) : Bool :=
        let t := f32OfFrac (Int.ofNat (s.optime + d * dayS - leAt a 0 4)) (365 * dayS)
        let fec := fDiv (fAdd now (fMul rate (fInt (Int.ofNat d)))) (fInt 1000)
        f32Le (fSub fOne (s.profF 0x2900 0x14 10000)) (fAdd (fMul (recF b 652) (fSqrt t)) (fMul (recF b 656) fec))
      some (firstDay reach 17 0 36500)
  | none => none

def rhist (b : List Byte) : List (Nat × Nat) :=
  ((List.range 32).map (fun i => (leAt b (192 + 4 * i) 2, leAt b (194 + 4 * i) 2))).filter (·.2 != 0)

/-- Days until a straight line through the resistance history reaches 2900:15 (R298). -/
def Chip.resDays (s : Chip) (b : List Byte) : Option Nat :=
  let xs := rhist b
  if xs.length < 2 then none
  else
    let n := xs.length
    let sx := (xs.map (·.1)).foldl (· + ·) 0
    let sy := (xs.map (·.2)).foldl (· + ·) 0
    let sxx := (xs.map (fun p => p.1 * p.1)).foldl (· + ·) 0
    let sxy := (xs.map (fun p => p.1 * p.2)).foldl (· + ·) 0
    let den : Int := Int.ofNat (n * sxx) - Int.ofNat (sx * sx)
    let num : Int := Int.ofNat (n * sxy) - Int.ofNat (sx * sy)
    if num ≤ 0 || den ≤ 0 then some 36500
    else
      -- y = (sy − k·sx) / n + k·x with k = num / den reaches the limit at x
      let x := ((Int.ofNat (s.rd 0x2900 0x15 * n) - Int.ofNat sy) * den + num * Int.ofNat sx) / (num * Int.ofNat n)
      some (min 36500 (x - Int.ofNat (s.optime / dayS)).toNat)

/-- RUL (R298). -/
def Chip.remaining (s : Chip) (b : List Byte) : Nat :=
  match s.lossDays b, s.resDays b with
  | none, none => 0xFFFFFFFF
  | some a, none => a
  | none, some c => c
  | some a, some c => min a c

/-- End-of-life flags of a record: bit 6 for capacity, bit 7 for resistance; the first setting is recorded. -/
def Chip.endOfLife (s : Chip) (n e : Nat) (b : List Byte) : Chip × List Byte :=
  let cap := f32Lt (s.capacityOf e b) (fMul (s.profF 0x2900 0x14 10000) (f32OfFrac (s.qnom n : Int) 1000))
  let res := f32Lt (s.profF 0x2900 0x15 1000) (recF b 320)
  let old := leAt b 6 2
  let pos := le 1 (e / 16 % 64) ++ le 1 (e % 16)
  let s := if cap && !bit old 6 then s.post 0x401D (e / 1024) (pos ++ le 1 1) else s
  let s := if res && !bit old 7 then s.post 0x401D (e / 1024) (pos ++ le 1 2) else s
  let s := if cap || res then s.wrBit 0x2900 0x01 3 true else s
  (s, setSFlag (setSFlag b 6 (bit old 6 || cap)) 7 (bit old 7 || res))

/-- Lowest and mean element capacity of a string (292n:0D, 0E), mAh. -/
def Chip.showCapacity (s : Chip) (n : Nat) : Chip :=
  let qs := (s.elemsOf n).map (fun g => (fRound (fMul (s.capacityOf g (s.slowRec g)) (fInt 1000)) 0 4294967295).toNat)
  if qs.isEmpty then s
  else (s.wr (0x2920 + n) 0x0D (qs.foldl min (qs.headD 0))).wr (0x2920 + n) 0x0E (qs.foldl (· + ·) 0 / qs.length)

/-- The bytes of a real32 field of a record. -/
def realB (x : F32) : List Byte := le 4 x.toNat

/-- The capacity observation of an element between its newest entry k and its partner j (R282, R283). -/
def Chip.observeCapacity (s : Chip) (n e : Nat) (b k j lk lj : List Byte) : Chip :=
  let pi := s.profIdx n
  let frac (x : List Byte) (i : Nat) : F32 := f32OfFrac (Int.ofNat (leAt x i 2)) 50000
  let dif (i : Nat) : F32 := fInt (toInt 64 (leAt lk i 8) - toInt 64 (leAt lj i 8))
  let ds := fSub (frac k 2) (frac j 2)
  let micro := f32OfFrac 1 1000000
  let dq := fDiv (fMul (fSub (fSub (fMul (s.profF pi 0x05 10000) (dif 16)) (dif 24)) (dif 32)) micro) (fInt 3600)
  let qobs := fDiv dq ds
  let gain := s.profF 0x2900 0x10 10000
  let (sj, sk) := (frac j 4, frac k 4)
  let vobs := fMul (fMul qobs qobs) (fAdd (fDiv (fAdd (fMul sj sj) (fMul sk sk)) (fMul ds ds)) (fMul gain gain))
  let qnom := f32OfFrac (Int.ofNat (s.qnom n)) 1000
  let qn := fMul (s.profF 0x2900 0x0F 100000) qnom
  let (q, qvar) := (s.capacityOf e b, recF b 36)
  let vq := fAdd qvar (fDiv (fMul (fMul qn qn) (fInt (Int.ofNat (leAt k 8 4) - Int.ofNat (leAt b 40 4)))) (fInt 86400))
  let dev := fSub qobs q
  let bounds := f32Lt qobs (fMul (s.profF 0x2900 0x0D 10000) qnom) || f32Lt (fMul (s.profF 0x2900 0x0E 10000) qnom) qobs
  let outlier := f32Lt (fMul (fInt 16) (fAdd vq vobs)) (fMul dev dev)
  let pos := le 1 (e / 16 % 64) ++ le 1 (e % 16)
  let b := splice b 48 (realB qobs ++ realB (fSqrt vobs))
  if bounds || outlier then
    let b := splice b 46 (le 2 ((leAt b 46 2 + 1) % 65536))
    (s.writeSlow e b).post 0x4013 (e / 1024) (pos ++ realB qobs ++ realB (fSqrt vobs) ++ le 1 (if bounds then 1 else 2))
  else
    let w := fDiv vq (fAdd vq vobs)
    let qnew := fAdd q (fMul w dev)
    let b := splice b 32 (realB qnew ++ realB (fMul (fSub fOne w) vq) ++ le 4 (leAt k 8 4) ++ le 2 ((leAt b 44 2 + 1) % 65536))
    let b := setSFlag b 1 true
    let soh := (fRound (fMul (fDiv qnew qnom) (fInt 10000)) 0 65535).toNat
    let x := le 4 (leAt k 8 4) ++ le 2 soh ++ le 2 (min 65535 (leAt b 648 4 / 1000))
    let b := splice b 64 (fit 128 (qhPut (qhist b) x).flatten)
    let s := { s with newQ := Map.insert e qnew s.newQ }
    let s := s.post 0x4012 (e / 1024) (pos ++ realB qobs ++ realB (fSqrt vobs) ++ realB qnew)
    let (s, b) := match ageingFit (qhist b) with
      | some (kc, ky, res) =>
        let b := setSFlag (splice (splice b 652 (realB kc ++ realB ky)) 664 (realB res)) 5 true
        let b := splice b 660 (le 4 (s.remaining b))
        (s.post 0x401C (e / 1024) (pos ++ realB kc ++ realB ky ++ le 4 (leAt b 660 4)), b)
      | none => (s, splice b 660 (le 4 (s.remaining b)))
    let (s, b) := s.endOfLife n e b
    (s.writeSlow e b).showCapacity n

/-- CAPACITY_LEARNING (R282): after the string's verified rest point the element's entry is paired with the one of the
same power cycle and CNTEST count that lies farthest from it in SoC. -/
def Chip.capacityLearning (s : Chip) (e : Nat) : Chip :=
  match s.strOf e with
  | none => s
  | some n =>
    s.slowJob e (fun s =>
      let b := s.slowRec e
      match rpNewest b with
      | none => s
      | some ik =>
        let k := rpAt b ik
        match s.stringLog n k with
        | none => s
        | some lk =>
          let lim := s.rd 0x2900 0x08 * 5
          let dist (x : List Byte) : Nat := ((leAt k 2 2 : Int) - leAt x 2 2).natAbs
          let ok (i : Nat) : Bool :=
            let x := rpAt b i
            match s.stringLog n x with
            | none => false
            | some lj =>
              i != ik && leAt x 0 2 != 0 && leAt lj 8 4 == leAt lk 8 4 && leAt lj 12 4 == leAt lk 12 4 &&
              decide (leAt k 8 4 ≤ leAt x 8 4 + s.rd 0x2900 0x09 * dayS) && decide (s.rd 0x2900 0x07 * 5 ≤ dist x) &&
              decide (leAt x 4 2 ≤ lim)
          let cand := (List.range 8).filter ok
          if cand.isEmpty || leAt k 0 2 != (s.es n).restId || leAt k 4 2 > lim then s
          else
            let ij := cand.foldl (fun m i => if dist (rpAt b m) < dist (rpAt b i) then i else m) (cand.headD 0)
            match s.stringLog n (rpAt b ij) with
            | some lj => s.observeCapacity n e b k (rpAt b ij) lk lj
            | none => s)

def execCapacityLearning (e : ElemNo) : State → Host.Outcome State Fault Refusal := lift (·.capacityLearning e)

/-! ## The hourly and daily jobs (R295, R296, R298, R300) -/

/-- SoC and temperature band of the stress histogram. -/
def stressCell (soc : Nat) (t : Int) : Nat :=
  let a := if soc < 12500 then 0 else if soc < 25000 then 1 else if soc < 37500 then 2 else 3
  let c := if t < 1500 then 0 else if t < 3000 then 1 else if t < 4500 then 2 else 3
  4 * a + c

/-- The hourly work on one record: the saved state, the day's ratio sum, charge, cycles and the minutes at the hour's means. The string's
charge
of the hour is what its counters show beyond AHIN and AHOUT's last fold (log entry 47). -/
def Chip.hourly (s : Chip) (e : Nat) : Chip :=
  match s.strOf e with
  | none => s
  | some n =>
    let f := s.fastRec e
    if f == [] then s
    else
      let b := s.slowRec e
      let el := s.el e
      let sig := (fRound (fMul (fSqrt (recF f 48)) (fInt 50000)) 0 65535).toNat
      let h := ofInt 16 (fRound (fMul (recF f 44) (fInt 32767)) (-32767) 32767)
      let b := setSFlag (splice b 8 (le 4 s.optime ++ le 2 (leAt f 6 2) ++ le 2 sig ++ le 2 h)) 0 true
      let b := splice b 20 (le 4 (s.rd 0x1040 0x02))
      let b := splice b 324 (realB (fAdd (recF b 324) el.rsSum) ++ le 4 ((leAt b 328 4 + el.rsN) % 2 ^ 32))
      -- 0.1 Ah = 360,000,000 µC
      let unit := 360000000
      let inc (cur last : Nat) : Nat := (cur - last) / unit
      let (ci, co) := (s.rd (0x2920 + n) 0x0F, s.rd (0x2920 + n) 0x10)
      let ni := inc ci el.foldIn
      let no := inc co el.foldOut
      let ain := (leAt b 640 4 + ni) % 2 ^ 32
      let aout := (leAt b 644 4 + no) % 2 ^ 32
      -- FEC in 0.001: (AHIN + AHOUT) / (2 · nominal), 0.1 Ah = 100 mAh
      let fec := if s.qnom n = 0 then 0 else (ain + aout) * 100 * 1000 / (2 * s.qnom n)
      let b := splice b 640 (le 4 ain ++ le 4 aout ++ le 4 (min 4294967295 fec))
      let (soc, t) := if el.hourN = 0 then (leAt f 6 2, toInt 16 (leAt f 22 2)) else (el.hourSoc / el.hourN, el.hourT / el.hourN)
      let at_ := 672 + 4 * stressCell soc t
      let b := splice b at_ (le 4 ((leAt b at_ 4 + 60) % 2 ^ 32))
      let s := s.setEl e { el with
        rsSum := fZero, rsN := 0, hourSoc := 0, hourT := 0, hourN := 0, foldIn := el.foldIn + ni * unit, foldOut := el.foldOut + no * unit }
      s.writeSlow e b

/-- HOURLY_JOB: the four records of a page. -/
def Chip.hourlyJob (s : Chip) (page : Nat) : Chip :=
  s.slowJob (4 * page) (fun s => (List.range 4).foldl (fun s i => s.hourly (4 * page + i)) s)

def execHourlyJob (page : Fin 4096) : State → Host.Outcome State Fault Refusal := lift (·.hourlyJob page)

/-- DAILY_RESISTANCE: the mean of the day becomes RSRATIO; its sum counts towards the history. -/
def Chip.dailyResistance (s : Chip) (e : Nat) : Chip :=
  match s.strOf e with
  | none => s
  | some n =>
    s.slowJob e (fun s =>
      let b := s.slowRec e
      if leAt b 328 4 == 0 then s
      else
        let ratio := fDiv (recF b 324) (fInt (Int.ofNat (leAt b 328 4)))
        let b := splice b 320 (realB ratio ++ realB fZero ++ le 4 0)
        let s := s.setEl e { s.el e with daySum := fAdd (s.el e).daySum ratio, dayN := (s.el e).dayN + 1 }
        let b := splice b 660 (le 4 (s.remaining b))
        let (s, b) := s.endOfLife n e b
        s.writeSlow e b)

def execDailyResistance (e : ElemNo) : State → Host.Outcome State Fault Refusal := lift (·.dailyResistance e)

/-- RESISTANCE_HISTORY_APPEND: the mean of the daily means, the oldest of 32 entries dropped. -/
def Chip.resistanceHistory (s : Chip) (e : Nat) : Chip :=
  s.slowJob e (fun s =>
    let el := s.el e
    if el.dayN == 0 then s
    else
      let b := s.slowRec e
      let mean := fDiv el.daySum (fInt (Int.ofNat el.dayN))
      let x := (s.optime / dayS % 65536, (fRound (fMul mean (fInt 1000)) 0 65535).toNat)
      let xs := rhist b ++ [x]
      let xs := if xs.length > 32 then xs.drop 1 else xs
      let b := splice b 192 (fit 128 (xs.flatMap (fun p => le 2 p.1 ++ le 2 p.2)))
      let b := splice b 660 (le 4 (s.remaining b))
      (s.setEl e { el with daySum := fZero, dayN := 0 }).writeSlow e b)

def execResistanceHistoryAppend (e : ElemNo) : State → Host.Outcome State Fault Refusal := lift (·.resistanceHistory e)

end Sys2Proof.Machine
end

