-- ==== Sys2Proof/Machine/Time.lean ====
section
/-!
DEFINITION. Sys2Proof/Machine/Time.lean: section time (15_section_time): the servos of the two PTP domains, selection and
holdover, steps, captures and pulses, and time sent downward.
-/

namespace Sys2Proof.Machine

/-! ## Domains -/

def Chip.dmn (s : Chip) (d : Nat) : Domain := Map.read {} s.time.dom d
def Chip.setDmn (s : Chip) (d : Nat) (x : Domain) : Chip := { s with time := { s.time with dom := Map.write {} s.time.dom d x } }

/-- State 221d:04: 0 IDLE, 1 ACQUIRING, 2 LOCKED, 3 FAULTED. -/
def Chip.dState (s : Chip) (d : Nat) : Nat := s.rd (0x2210 + d) 0x04

/-- Offset 221d:05 of the domain's grandmaster from section time. -/
def Chip.dOffset (s : Chip) (d : Nat) : Int := s.rdI 64 (0x2210 + d) 0x05

def Chip.grandmaster (s : Chip) (d : Nat) : Nat := s.rd (0x2210 + d) 0x08

/-- First lock has occurred since BOOT (R513). -/
def Chip.firstLock (s : Chip) : Bool := s.rdBit 0x2200 0x02 5

/-- The domain's port takes part in PTP (2220:01). -/
def Chip.ptpOn (s : Chip) (d : Nat) : Bool := s.rd (0x2220 + s.rd (0x2210 + d) 0x02) 0x01 == 1

/-- Offset of the grandmaster from the port's raw timestamps, with the latencies 222p:0A–0B and the delay asymmetry 222p:04 applied
(R508, R509; the sign convention of IEEE 1588, log entry 141). -/
def Chip.ptpOffset (s : Chip) (d : Nat) (raw : Int) : Int :=
  let q := 0x2220 + s.rd (0x2210 + d) 0x02
  raw - s.rdI 32 q 0x04 + ((s.rd q 0x0B : Int) - s.rd q 0x0A) / 2

/-- Mean path delay from raw timestamps (R508); the asymmetry leaves the mean of both directions alone. -/
def Chip.ptpPath (s : Chip) (d raw : Nat) : Nat :=
  let q := 0x2220 + s.rd (0x2210 + d) 0x02
  raw - (s.rd q 0x0A + s.rd q 0x0B) / 2

/-! ## The rate word (R505, R515) -/

/-- Rate in force, ppb. -/
def Chip.rate (s : Chip) : Int := s.rdI 32 0x2200 0x0C

/-- Put the rate word. -/
def Chip.setRate (s : Chip) (r : Int) : Chip :=
  let keep := s.time.rates.filter (fun x => decide (s.ms ≤ x.1 + 120000))
  { s.wrI 32 0x2200 0x0C r with time := { s.time with rates := (s.ms, r) :: keep } }

/-- The servo asks for a rate: held within ±200 ppm and 10 ppm/s, with RATELIM and 0x700C at a limit (R505). -/
def Chip.askRate (s : Chip) (ask : Int) : Chip :=
  let last := (s.time.rates.head?).map (·.1) |>.getD 0
  let d : Int := 10 * (s.ms - last : Nat)
  let r := max (max (-200000) (s.rate - d)) (min (min 200000 (s.rate + d)) ask)
  let s' := if r != ask && !s.rdBit 0x2200 0x02 7 then s.post 0x700C 0 (le 4 (ofInt 32 (satInt 32 ask))) else s
  (s'.wrBit 0x2200 0x02 7 (r != ask)).setRate r

/-- Sum of rate × ms from `start` to `stop`, for changes newest first; the nominal rate stood before the first. -/
def rateSum (start : Nat) : Nat → List (Nat × Int) → Int
  | _, [] => 0
  | stop, (t, r) :: rest =>
    if t ≤ start then r * (stop - start : Nat) else r * (stop - t : Nat) + rateSum start t rest

/-- Mean of the rate word over the last 60 s (R515). -/
def Chip.meanRate (s : Chip) : Int :=
  let start := s.ms - 60000
  if s.ms == start then s.rate else rateSum start s.ms s.time.rates / (s.ms - start : Nat)

/-! ## Quality and what is advertised (R504, R524) -/

/-- PTP port state of a slave port from the states of its domains, by the codes of IEEE 1588 (log entry 60). -/
def Chip.showPort (s : Chip) (p : Nat) : Chip :=
  let st := ([0, 1].filter (fun d => s.rd (0x2210 + d) 0x02 == p)).map s.dState
  s.wr (0x2220 + p) 0x09 (if st.any (fun x => x == 2 || x == 3) then 9 else if st.contains 1 then 8 else 4)

/-- clockClass of 2240:04 at a quality that follows quality `old`; HOLDOVER_CLASS_PERIOD_EXPIRY ends class 7. -/
def Chip.advertClass (s : Chip) (q old : Nat) : Nat :=
  match q with
  | 0 => 248
  | 2 => if old == 2 then s.rd 0x2240 0x04 else 7
  | _ => s.rd (0x2210 + s.time.sel.getD 0) 0x09

/-- Quality, status bits, port states, clock class and UTC offset from the state of the domains. -/
def Chip.showTime (s : Chip) : Chip :=
  let sel := s.time.sel
  let q := if !s.firstLock then 0
    else match sel with
      | none => 2
      | some d => if (s.dOffset d).natAbs ≤ s.rd 0x2200 0x07 then 1 else 3
  let cls := s.advertClass q (s.rd 0x2200 0x03)
  let s := s.wr 0x2200 0x03 q
  let bits := [sel == some 1, s.dState 0 == 2, s.dState 1 == 2, s.dState 0 == 3, s.dState 1 == 3]
  let s := bits.zipIdx.foldl (fun s x => s.wrBit 0x2200 0x02 x.2 x.1) s
  let s := s.wrBit 0x2200 0x02 6 (q == 2)
  let s := match sel with
    | some d => { s.wrI 16 0x2200 0x0F (s.dmn d).utc with time := { s.time with flags := (s.dmn d).flags } }
    | none => s
  ((s.showPort 0).showPort 1).wr 0x2240 0x04 cls

/-! ## Selection (R513–R515, R519) -/

/-- Is a domain eligible? The selected one stays so while it is LOCKED: what its offset exceeds is being removed by rate
(R504; log entry 58). -/
def Chip.eligible (s : Chip) (d : Nat) : Bool :=
  let off := (s.dOffset d).natAbs
  s.dState d == 2 &&
  (!s.firstLock || s.time.sel == some d || decide (off ≤ s.rd 0x2200 0x07) ||
    (s.time.sel.isNone && decide (off ≤ s.rd 0x2200 0x06 + s.rd 0x2200 0x0B * (s.time.holdMs / 1000))))

/-- The domain that R513 selects. -/
def Chip.choice (s : Chip) : Option Nat :=
  let pref := s.rd 0x2200 0x04 % 2
  let byPref := if s.eligible pref then some pref else if s.eligible (1 - pref) then some (1 - pref) else none
  match s.time.sel with
  | some d => if s.eligible d && s.rd 0x2200 0x05 != 1 then some d else byPref
  | none => byPref

/-- First lock (R513): an offset beyond the step threshold is stepped away at the next tick edge. -/
def Chip.lockFirst (s : Chip) (d : Nat) : Chip :=
  let s := { s.wrBit 0x2200 0x02 5 true with time := { s.time with sel := some d } }
  if decide ((s.dOffset d).natAbs ≤ s.rd 0x2200 0x0A) then s
  else { s with clk := { s.clk with step := some (s.dOffset d) }, time := { s.time with pend := some (d, 0) } }

/-- HOLDOVER is entered: the rate word is frozen at its mean over 60 s (R515). -/
def Chip.enterHoldover (s : Chip) : Chip :=
  let s := s.setRate s.meanRate
  let s := { s with time := { s.time with sel := none, holdMs := 0 } }
  (s.wr 0x2200 0x11 0).post 0x7006 0 (le 4 (ofInt 32 s.rate))

/-- The selected domain becomes `d` without a step (R514), out of holdover with 0x7007 first (R519). -/
def Chip.switchTo (s : Chip) (d : Nat) : Chip :=
  let off := le 8 (ofInt 64 (s.dOffset d))
  let s := if s.time.sel.isNone then s.post 0x7007 d (le 4 (s.time.holdMs / 1000) ++ off) else s
  { s with time := { s.time with sel := some d, holdMs := 0 } }.post 0x7005 d off

/-- Select again after a change, and show it. -/
def Chip.reselect (s : Chip) : Chip :=
  let old := s.time.sel
  let s := match s.choice with
    | some d => if old == some d then s else if !s.firstLock then s.lockFirst d else s.switchTo d
    | none => if old.isSome then s.enterHoldover else s
  s.showTime

/-! ## PTP_SYNC_SAMPLE (R511–R516) -/

/-- A jump of a grandmaster (R515). -/
def Chip.jumped (s : Chip) (d gm : Nat) (jump : Int) : Chip :=
  let i := 0x2210 + d
  let s := ((s.wr i 0x04 3).wr i 0x0A gm).inc 32 i 0x0B
  let s := s.setDmn d { s.dmn d with streak := 0, good := 0, bad := 0, near := 0 }
  s.post 0x7004 d (le 8 gm ++ le 8 (ofInt 64 jump))

/-- A sample beyond the jump threshold: discarded and counted; the third in a row is a jump. Its residual exceeds the lock threshold too. -/
def Chip.discardSample (s : Chip) (d : Nat) (offset residual : Int) : Chip :=
  let s := (s.inc 32 0x2200 0x12).post 0x7010 d (le 8 (ofInt 64 residual))
  let x := s.dmn d
  let n := x.streak + 1
  if n < 3 then
    let s := s.setDmn d { x with streak := n, good := 0, bad := x.bad + 1, near := 0 }
    if s.dState d == 2 && s.rd 0x2200 0x09 ≤ x.bad + 1 then ((s.wr (0x2210 + d) 0x04 1).post 0x7002 d (le 1 1)).reselect else s
  else ((s.wrI 64 (0x2210 + d) 0x05 offset).jumped d (s.grandmaster d) residual).reselect

/-- State changes that an accepted sample brings (R512, R516). -/
def Chip.servoState (s : Chip) (d : Nat) : Chip :=
  let x := s.dmn d
  let i := 0x2210 + d
  let n := s.rd 0x2200 0x09
  match s.dState d with
  | 1 => if n ≤ x.good then (s.wr i 0x04 2).post 0x7001 d (le 8 (s.grandmaster d) ++ le 8 (ofInt 64 (s.dOffset d))) else s
  | 2 => if n ≤ x.bad then (s.wr i 0x04 1).post 0x7002 d (le 1 1) else s
  | 3 => if 16 ≤ x.near then (s.wr i 0x04 2).post 0x700A d (le 8 (s.grandmaster d)) else s
  | _ => s

/-- XI against section time, 0.1 ppm, measured while LOCKED (R519, R443). -/
def Chip.xiOffset (s : Chip) (ratePpb : Int) : Chip :=
  let x := -(ratePpb / 100)
  let s := s.wrI 16 0x2A00 0x18 x
  let far := decide (10 * s.rd 0x2A00 0x16 < x.natAbs)
  let s := if far && !s.rdBit 0x2A00 0x01 6 then s.post 0xB00B 0 (le 2 (ofInt 16 (satInt 16 x))) else s
  s.wrBit 0x2A00 0x01 6 far

/-- PTP_SYNC_SAMPLE: offset and mean path delay as the raw timestamps give them, residual against the servo's prediction,
grandmaster rate against XI, and the rate the servo asks for, whose algorithm the spec leaves open (log entry 58). -/
def Chip.syncSample (s : Chip) (d : Nat) (raw residual ratePpb : Int) (path : Nat) (ask : Int) : Chip :=
  let offset := s.ptpOffset d raw
  if s.dState d == 0 || !s.ptpOn d || !s.netUp then s
  else if decide (s.rd 0x2200 0x06 < residual.natAbs) then s.discardSample d offset residual
  else
    let i := 0x2210 + d
    let s := ((s.wrI 64 i 0x05 offset).wrI 32 i 0x06 ratePpb).wr i 0x07 (min (s.ptpPath d path) 0xFFFFFFFF)
    let x := s.dmn d
    let ok := decide (residual.natAbs ≤ s.rd 0x2200 0x08)
    let s := s.setDmn d { x with streak := 0, good := if ok then x.good + 1 else 0, bad := if ok then 0 else x.bad + 1
                                 near := if decide (offset.natAbs ≤ s.rd 0x2200 0x07) then x.near + 1 else 0 }
    let s := if s.time.pend.any (fun p => p.1 == d) then { s with clk := { s.clk with step := some offset } } else s
    let s := (s.servoState d).reselect
    if s.time.sel == some d then
      let s := s.askRate ask
      if s.rd 0x2200 0x03 == 1 then s.xiOffset ratePpb else s
    else s

def execPtpSyncSample (d : Fin 2) (offset residual ratePpb : Int) (pathNs : Nat) (ask : Int) :
    State → Host.Outcome State Fault Refusal := lift (·.syncSample d offset residual ratePpb pathNs ask)

/-! ## Announces (R507, R512, R525) -/

/-- ANNOUNCE_RECEIVED: the domain's BMCA names grandmaster `gm`; `diff` is its time less that of the one before. -/
def Chip.announce (s : Chip) (d gm cls src : Nat) (arb : Bool) (utc : Int) (flags : Byte) (diff : Int) : Chip :=
  let i := 0x2210 + d
  if !s.ptpOn d || !s.netUp || (arb && s.rd i 0x0D == 0) then s
  else
    let old := s.grandmaster d
    let s := ((s.wr i 0x08 gm).wr i 0x09 cls).setDmn d { s.dmn d with timeSource := src, utc := utc, flags := flags, arb := arb }
    if old == gm && s.dState d != 0 then s.showTime
    else
      let s := if old != 0 && old != gm then s.post 0x700B d (le 8 old ++ le 8 gm) else s
      if old != 0 && old != gm && decide (s.rd 0x2200 0x06 < diff.natAbs) then (s.jumped d gm diff).reselect
      else
        let s := s.setDmn d { s.dmn d with streak := 0, good := 0, bad := 0, near := 0 }
        (if s.dState d == 3 then s else s.wr i 0x04 1).reselect

def execAnnounceReceived (d : Fin 2) (gm : BitVec 64) (clockClass timeSource : Byte) (arb : Bool) (utcOffset : Int)
    (utcFlags : Byte) (timeDiff : Int) :
    State → Host.Outcome State Fault Refusal :=
  lift (·.announce d gm.toNat clockClass.toNat timeSource.toNat arb utcOffset utcFlags timeDiff)

/-- ANNOUNCE_TIMEOUT: the domain has no grandmaster; a FAULTED domain leaves that state only under R516. -/
def Chip.announceTimeout (s : Chip) (d : Nat) : Chip :=
  let i := 0x2210 + d
  let st := s.dState d
  if st == 0 || st == 3 then s
  else
    let s := if st == 2 then s.post 0x7002 d (le 1 2) else s
    let s := (((s.wr i 0x04 0).wr i 0x08 0).wr i 0x09 248).setDmn d {}
    s.reselect

def execAnnounceTimeout (d : Fin 2) : State → Host.Outcome State Fault Refusal := lift (·.announceTimeout d)

/-- FOREIGN_ANNOUNCE (R525): ignored, counted, and recorded once for each identity. -/
def Chip.foreignAnnounce (s : Chip) (p ident : Nat) : Chip :=
  if !s.netUp then s
  else
  let s := s.inc 32 (0x2222 + p) 0x0C
  if s.time.foreign.contains (p, ident) then s
  else { s with time := { s.time with foreign := s.time.foreign ++ [(p, ident)] } }.post 0x700F (2 + p) (le 8 ident)

def execForeignAnnounce (dPort : Fin 2) (identity : BitVec 64) : State → Host.Outcome State Fault Refusal :=
  lift (·.foreignAnnounce dPort identity.toNat)

/-! ## Re-anchoring and steps (R45, R517, R523, R603) -/

/-- Why a re-anchor to domain `d` is refused, by the codes of R659; 0 not at all. -/
def Chip.anchorRefusal (s : Chip) (d : Nat) : Nat :=
  if !s.firstLock then 1
  else if (s.dmn d).streak != 0 then 3
  else if (s.dmn d).good < s.rd 0x2200 0x09 then 2
  else if s.time.pend.isSome then 4
  else 0

/-- RE_ANCHOR (R517). -/
def Chip.reAnchor (s : Chip) (m : Master) (v : Nat) : Chip :=
  s.action m 5 (fun s =>
    if v ≠ 1 && v ≠ 2 then s.answer .range
    else
      let d := v - 1
      let why := s.anchorRefusal d
      if why ≠ 0 then (s.answer .refused why).post 0x7009 (masterCode m) (le 1 why)
      else { s with clk := { s.clk with step := some (s.dOffset d) }, time := { s.time with pend := some (d, masterCode m) } })

def execReAnchor (m : Master) (v : Byte) : State → Host.Outcome State Fault Refusal := lift (·.reAnchor m v.toNat)

/-- Present an event ahead of every other one at the ingest port (R603). -/
def Chip.postFirst (s : Chip) (code src : Nat) (detail : List Byte) : Chip := { s with port := ⟨code, src, detail, false⟩ :: s.port }

/-- A single pulse across a step (R523): one whose time a forward step has passed is missed; after a backward step it is emitted when its
time is reached, again if it had been emitted before. -/
def Chip.missPulse (s : Chip) (old new n : Nat) : Chip :=
  let i := 0x2231 + n
  let t := s.rd i 0x02
  let mark (s : Chip) (v : Nat) : Chip := { s with time := { s.time with fired := Map.write 0 s.time.fired n v } }
  if s.rd i 0x01 != 4 then s
  else if new < old && new ≤ t then mark s 0
  else if old < t && t ≤ new && Map.read 0 s.time.fired n != t + 1 then ((mark s (t + 1)).inc 32 i 0x08).post 0x700E n (le 8 t)
  else s

/-- TIME_STEP (R45): at a tick edge section time steps by the domain's offset; the tick is stretched to the first multiple of
P in the new timescale at least P later, which TICK_EDGE finds. -/
def Chip.timeStep (s : Chip) : Chip :=
  match s.time.pend, s.clk.step with
  | some (d, m), some x =>
    let old := s.now
    let new := ofInt 64 ((old : Int) + x)
    let s := { s with clk := { s.clk with edge := new, off := 0, step := none }, time := { s.time with pend := none } }
    let times := le 8 old ++ le 8 new ++ le 8 (ofInt 64 x)
    let s := if m = 0 then s.postFirst 0x7003 d times else s.postFirst 0x7008 m (le 1 d ++ times)
    let s := ((s.inc 8 0x2200 0x0D).wrI 64 0x2200 0x0E x).flag 0x2100 0x05 0 |>.post 0x603B 0 (le 8 (ofInt 64 x))
    let s := [0, 1].foldl (fun s e => s.wrI 64 (0x2210 + e) 0x05 (s.dOffset e - x)) s
    let s := (List.range 4).foldl (fun s n => s.missPulse old new n) s
    if m = 0 then s.showTime
    else
      let s := (s.wr (0x2210 + d) 0x04 2).setDmn d { s.dmn d with near := 0 }
      (if s.time.sel == some d then s else s.switchTo d).reselect
  | _, _ => s

def execTimeStep : State → Host.Outcome State Fault Refusal := lift (·.timeStep)

/-! ## PPS and triggers (R520–R523) -/

/-- Is PPS_OUT driven (2230:02)? -/
def Chip.ppsDriven (s : Chip) : Bool :=
  let q := s.rd 0x2200 0x03
  match s.rd 0x2230 0x02 with
  | 0 => false
  | 1 => q == 1 || q == 3
  | 2 => q != 0
  | _ => true

/-- PPS_OUT_EDGE: a whole second of section time is reached; the output stays high for the ms of 2230:01. -/
def execPpsOutEdge : State → Host.Outcome State Fault Refusal :=
  lift (fun s =>
    let t := s.now / 1000000000 * 1000000000
    if s.ppsDriven && s.up then { s with time := { s.time with pps := some (t, t + s.rd 0x2230 0x01 * 1000000) } } else s)

/-- Captures of an input. -/
def Chip.captures (s : Chip) (n : Nat) : List (Nat × Nat) := Map.read [] s.time.fifo n
def Chip.setCaptures (s : Chip) (n : Nat) (xs : List (Nat × Nat)) : Chip :=
  { s with time := { s.time with fifo := Map.write [] s.time.fifo n xs } }.wr (0x2231 + n) 0x05 xs.length

/-- TRIG_CAPTURE: an edge that passes the filter, `subNs` after the tick edge; a full FIFO loses it. -/
def Chip.trigCapture (s : Chip) (n : Nat) (rising : Bool) (subNs : Nat) : Chip :=
  let mode := s.rd (0x2231 + n) 0x01
  if !s.up || !(mode == 3 || mode == (if rising then 1 else 2)) then s
  else
    let xs := s.captures n
    if xs.length < 16 then s.setCaptures n (xs ++ [(s.now + subNs, s.rd 0x2200 0x03)])
    else
      let s := s.inc 32 (0x2231 + n) 0x07
      s.post 0x700D n (le 4 (s.rd (0x2231 + n) 0x07))

def execTrigCapture (n : Fin 5) (rising : Bool) (subNs : Nat) : State → Host.Outcome State Fault Refusal :=
  lift (·.trigCapture n rising subNs)

/-- CAPTURE_READ: the oldest entry, which the read removes; nothing where the FIFO is empty. -/
def Chip.captureRead (s : Chip) (n : Nat) : Chip :=
  match s.captures n with
  | [] => s.answer .ok 0 []
  | x :: xs => (s.setCaptures n xs).answer .ok 0 (le 8 x.1 ++ le 1 x.2)

def execCaptureRead (_m : Master) (n : Fin 5) : State → Host.Outcome State Fault Refusal := lift (·.captureRead n)

/-- TRIG_PULSE (R521, R523): the single pulse of mode 4 once, at its time; a periodic one at the multiple of its period, plus
its phase, that has been reached; both stay for the width 223n:04. -/
def Chip.trigPulse (s : Chip) (n : Nat) : Chip :=
  let i := 0x2231 + n
  let t := s.rd i 0x02
  let emit (s : Chip) (t : Nat) : Chip := { s with time := { s.time with pulse := Map.write (0, 0) s.time.pulse n (t + 1, t + s.rd i 0x04) } }
  if !s.up then s
  else match s.rd i 0x01 with
    | 4 =>
      if s.now < t + s.periodNs && t < s.now + s.periodNs && Map.read 0 s.time.fired n != t + 1 then
        emit { s with time := { s.time with fired := Map.write 0 s.time.fired n (t + 1) } } t
      else s
    | 5 =>
      let p := max 1 (s.rd i 0x03)
      if t ≤ s.now then emit s (s.now - (s.now - t) % p) else s
    | _ => s

def execTrigPulse (n : Fin 4) : State → Host.Outcome State Fault Refusal := lift (·.trigPulse n)

/-! ## Downward (R507, R508, R524, R527) -/

/-- clockClass and timeSource advertised, timescale, UTC offset and flags of the selected domain; the timestamp takes the egress
latency 222p:0B (R508). -/
def Chip.advert (s : Chip) (p : Nat) : Advert :=
  let q := s.rd 0x2200 0x03
  let d := s.dmn (s.time.sel.getD 0)
  { domain := s.rd 0x2240 0x01, prio1 := s.rd 0x2240 0x02, prio2 := s.rd 0x2240 0x03, class_ := s.rd 0x2240 0x04
    source := if (q == 1 || q == 3) && s.time.sel.isSome then d.timeSource else 0xA0
    utc := s.rdI 16 0x2200 0x0F, flags := s.time.flags, arb := s.time.sel.isSome && d.arb
    oneStep := s.rd (0x2220 + p) 0x08 == 1, time := s.now + s.rd (0x2220 + p) 0x0B }

/-- D_PORT_SYNC_INTERVAL. -/
def Chip.dPortSync (s : Chip) (k : Nat) : Chip :=
  let p := 2 + k
  if s.rd (0x2220 + p) 0x01 != 1 || !s.netUp then s
  else
    let s := { s with time := { s.time with adv := Map.write {} s.time.adv k (s.advert p) } }
    s.wr (0x2220 + p) 0x09 6

def execDPortSyncInterval (dPort : Fin 2) : State → Host.Outcome State Fault Refusal := lift (·.dPortSync dPort)

/-- DELAY_REQUEST: answered with the receive timestamp, from which the ingress latency of 222p:0A is taken. -/
def Chip.delayRequest (s : Chip) (k ident rx : Nat) : Chip :=
  let p := 2 + k
  if s.rd (0x2220 + p) 0x01 != 1 || !s.netUp then s
  else
    let x : DelayResp := { ident := ident, time := rx - s.rd (0x2220 + p) 0x0A, peer := s.rd (0x2220 + p) 0x03 == 1 }
    { s with time := { s.time with delays := Map.write {} s.time.delays k x } }

def execDelayRequest (dPort : Fin 2) (identity receivedNs : BitVec 64) : State → Host.Outcome State Fault Refusal :=
  lift (·.delayRequest dPort identity.toNat receivedNs.toNat)

/-- HOLDOVER_CLASS_PERIOD_EXPIRY: holdover has lasted for 2240:05 (log entry 73). -/
def execHoldoverClassPeriodExpiry : State → Host.Outcome State Fault Refusal :=
  lift (fun s => if s.rd 0x2200 0x03 == 2 then s.wr 0x2240 0x04 187 else s)

/-- The reference message of a port (R527, R598). One still unsent is withdrawn with 0x8048. -/
def Chip.refMessage (s : Chip) (p : Nat) : Chip :=
  if s.canOff p then s
  else
    let b := s.boxOf p 0
    let s := if b.state == 1 || b.state == 2 then ((s.setBoxOf p 0 { b with next := none }).cancelBox p 0).post 0x8048 p else s
    let data := le 1 (s.rd 0x2241 0x05) ++ le 1 (s.rd 0x2200 0x03) ++ be 6 (s.can p).refSent
    s.deviceQueue p 0 (deviceRecord (s.rd 0x2241 0x02) false false data)

/-- TIME_REFERENCE_MESSAGE: the cycle count advances every period. -/
def Chip.timeReference (s : Chip) : Chip :=
  if s.rd 0x2241 0x01 == 0 || !s.netUp then s
  else
    let s := (bitsSet 4 (s.rd 0x2241 0x01)).foldl Chip.refMessage s
    s.wr 0x2241 0x05 ((s.rd 0x2241 0x05 + 1) % 64)

def execTimeReferenceMessage : State → Host.Outcome State Fault Refusal := lift (·.timeReference)

end Sys2Proof.Machine
end

