-- ==== Sys2Proof/Machine/View.lean ====
section
/-!
DEFINITION. Sys2Proof/Machine/View.lean: the value of every dictionary object, wherever its home in State is, and its
encoding (R566–R576): settings and counts live in `od` and `dom`, everything else is read from the structures of the chapters.
-/

namespace Sys2Proof.Machine

/-! ## Arrays over the elements -/

/-- 4000 + k, from the publish copy (R575): the latest slot of a position, its status word and its slot state word; a head carries no
elements and shows its own status word (R17, R203, R395, R576, R582). -/
def Chip.measView (s : Chip) (k sub : Nat) : Nat :=
  let r := k / 64
  let p := k % 64
  let x := Map.read {} s.slotPub k
  let b := x.bytes
  let head := s.herdType r p == 2
  if sub == 0x16 then s.slotWord r p x
  else if head && sub ≤ 0x10 then 0
  else if b.isEmpty then dflt (okey (0x4000 + k) sub)
  else if sub ≤ 0x10 then (if bit (s.faultWord r p) (48 + (sub - 1)) then 0xFFFF else slotCode b (sub - 1))
  else if sub ≤ 0x14 then beAt b (32 + 2 * (sub - 0x11)) 2
  else slotStatus b

/-- 4400 + k: figures of the published fast records (R274, R275). -/
def Chip.fastView (s : Chip) (k sub : Nat) : Nat :=
  let pub (e : Nat) : List Byte := Map.read [] s.pub (16 * k + e)
  if sub == 0x15 then
    let cs := (List.range 16).map (fun e => consOf (pub e))
    putBit (cs.foldl (· ||| ·) 0) 0 (cs.all (fun c => bit c 0))
  else if 0x21 ≤ sub && sub ≤ 0x30 then leAt (pub (sub - 0x21)) 0 2
  else if 0x31 ≤ sub && sub ≤ 0x40 then leAt (pub (sub - 0x31)) 2 2
  else consOf (pub (sub - 0x41))

/-- Is global element `g` one of a KS16 that the herd table holds? -/
def Chip.hasRecord (s : Chip) (g : Nat) : Bool := s.herdState (g / 1024) (g / 16 % 64) != 0 && s.herdType (g / 1024) (g / 16 % 64) == 1

/-- 4800 + k: figures of the slow records (R299, R313, R576). Where there is none the capacity is the nominal one, of profile 0 where no
string has the position (DESIGN CHOICE, log entry 153). -/
def Chip.slowView (s : Chip) (k sub : Nat) : Nat :=
  let g := 16 * k + (sub + 15) % 16
  let b := s.slowSeen g
  let q := s.capacityOf g b
  if !s.hasRecord g then
    (if sub ≤ 0x30 then (match s.strOf g with | some n => s.qnom n | none => s.rd 0x2810 0x02) else dflt (okey (0x4800 + k) sub))
  else if sub ≤ 0x30 then (fRound (fMul q (fInt 1000)) 0 4294967295).toNat
  else if sub ≤ 0x40 then (fRound (fMul (fDiv q (s.qnomOf g)) (fInt 10000)) 0 65535).toNat
  else if sub ≤ 0x50 then (fRound (fMul (recF b 320) (fInt 1000)) 0 65535).toNat
  else if sub ≤ 0x60 then leAt b 6 2
  else leAt b 660 4

/-! ## Images -/

/-- Bytes staged for an object by the claim that holds its group; else those in force. -/
def Chip.stagedDom (s : Chip) (idx sub : Nat) : List Byte :=
  match s.claims.findSome? (fun c => (c.stagedDom.find? (fun x => x.1 == okey idx sub)).map (·.2)) with
  | some b => b
  | none => s.rdDom idx sub

/-- Bytes of the image slot an object of 2E10 + k describes: 0 empty, 1 where staging data names the slot (R417). -/
def Chip.slotState (s : Chip) (k : Nat) : Nat :=
  let target := (s.stagedVal (okey 0x2E00 0x02)).getD (s.rd 0x2E00 0x02)
  if target == k && s.claims.any (fun c => c.stagedDom.any (fun x => x.1 == okey 0x2E00 0x03)) then 1 else s.rd (0x2E10 + k) 0x01

/-- First 8 bytes of a digest as the uint64 that carries them in order. -/
def digest8 (b : List Byte) : Nat := ofLE ((Config.sha256 b).take 8)

/-- Issuer key id of an image's certificate (R306, R414). -/
def imgCert (b : List Byte) : List Byte := (b.drop (b.length - 184)).take 120

def Chip.slotView (s : Chip) (k sub : Nat) : Nat :=
  match sub with
  | 0x01 => s.slotState k
  | 0x06 => if s.rd (0x2E10 + k) 0x01 == 0 then 0 else beAt (imgCert (s.image k)) 41 4
  | 0x0B => if s.rd (0x2E10 + k) 0x01 == 0 then 0 else digest8 (s.image k)
  | _ => s.rd (0x2E10 + k) sub

/-! ## Values -/

/-- Objects of single structures: modes, the matrix, channels, strings. -/
def Chip.plainView (s : Chip) (idx sub : Nat) : Nat :=
  if idx == 0x2000 && sub == 0x01 then s.mode.code
  else if 0x2010 ≤ idx && idx ≤ 0x2018 then s.semView (idx - 0x2010) sub
  else if idx == 0x2200 && sub == 0x01 then s.now
  else if idx == 0x2300 then
    (match sub with
     | 0x01 => s.activeCrc.toNat
     | 0x02 => s.shadowCrc.toNat
     | 0x04 => s.trip.asserted.toNat
     | 0x05 => s.trip.latched.toNat
     | 0x07 => if s.trip.asserted.getLsbD 47 || s.trip.latched.getLsbD 47 then 1 else 0
     | 0x0B => s.tripStatus
     | _ => s.rd 0x2300 sub)
  else if idx == 0x2301 then s.shadow 0x2302 sub
  else if idx == 0x2302 then s.trip.read (okey 0x2302 sub)
  else if idx == 0x2400 then
    (match sub with
     | 0x01 => maskOf 16 (fun k => (s.ch k).state.conducts)
     | 0x02 => maskOf 16 (fun k => (s.ch k).state == .pause || (s.ch k).state == .latched)
     | 0x03 => maskOf 16 (fun k => (s.ch k).state == .tripped)
     | 0x04 => s.adopt.g
     | _ => s.adopt.status)
  else if 0x2410 ≤ idx && idx ≤ 0x241F then
    (let k := idx - 0x2410
     match sub with
     | 0x01 => if (s.ch k).cmd then 1 else 0
     | 0x02 => (s.ch k).state.code
     | 0x0E => (s.ch k).fault
     | 0x0F => s.chanStatus k
     | 0x10 => if (s.ch k).spare then 1 else 0
     | _ => s.rd idx sub)
  else if idx == 0x2110 then s.pagerView sub
  else if 0x2D10 ≤ idx && idx ≤ 0x2D13 && sub == 0x12 then s.canStatus (idx - 0x2D10)
  else if idx == 0x2A00 && sub == 0x01 then putBit (s.rd 0x2A00 0x01) 4 s.exhausted
  else if 0x2A40 ≤ idx && idx ≤ 0x2A4F && sub == 0x03 then s.bankDirty (idx - 0x2A40)
  else if 0x2120 ≤ idx && idx ≤ 0x212F && sub == 0x14 then s.spareLane (idx - 0x2120)
  else if idx == 0x2500 && sub == 0x01 then s.swi.sec.code
  else if idx == 0x2500 && sub == 0x1B then s.swiStatus
  else if 0x3000 ≤ idx && idx ≤ 0x300F && sub == 0x02 then (s.ring (idx - 0x3000)).txs.length
  else if 0x3200 ≤ idx && idx ≤ 0x321F then
    (match sub with
     | 0x04 => 0
     | 0x05 => (s.st (idx - 0x3200)).sw.code
     | 0x06 => if (s.headOf (idx - 0x3200)).isNone then 0 else s.refusal (idx - 0x3200) + (if s.rdBit idx 0x06 8 then 256 else 0)
     | _ => s.rd idx sub)
  else if 0x2840 ≤ idx && idx ≤ 0x285F && sub == 0x0E && decide (131072 ≤ Map.read 0 s.flagsOld (idx - 0x2840)) then
    Map.read 0 s.flagsOld (idx - 0x2840) - 131073
  else s.rd idx sub

/-- Value of an object of fixed size up to eight bytes. -/
def Chip.view (s : Chip) (idx sub : Nat) : Nat :=
  if sub == 0 && (entryOf idx 0).isNone then highestSub idx
  else if isAction idx sub && !(idx == 0x2000 && sub == 0x02) then 0
  else if 0x4000 ≤ idx && idx ≤ 0x43FF then (if sub == 0 then 0x16 else s.measView (idx - 0x4000) sub)
  else if 0x4400 ≤ idx && idx ≤ 0x47FF then s.fastView (idx - 0x4400) sub
  else if 0x4800 ≤ idx && idx ≤ 0x4BFF then s.slowView (idx - 0x4800) sub
  else if idx == 0x1018 && sub == 0x04 then s.rd 0x1020 0 % 2 ^ 32
  else if 0x2810 ≤ idx && idx ≤ 0x2817 && sub == 0x11 then (crc32c (s.profBytes idx)).toNat
  else if 0x2E10 ≤ idx && idx ≤ 0x2E2F then s.slotView (idx - 0x2E10) sub
  else if idx == 0x2E00 && sub == 0x04 then (s.stagedDom 0x2E00 0x03).length
  else if idx == 0x1031 && sub == 0x03 then (s.stagedDom 0x1031 0x02).length
  else s.plainView idx sub

/-- The same with the recorder's objects. -/
def State.view (s : State) (idx sub : Nat) : Nat :=
  if idx == 0x2B00 && sub != 0 then s.recView sub
  else if idx == 0x5000 && sub != 0 then s.logView sub
  else s.chip.view idx sub

/-! ## Encodings (R569) -/

/-- The slot of the log at sector `k`, slot `i` (R620): the open sector is served from the FIFO copy. -/
def State.logSlot (s : State) (k i : Nat) : List Byte :=
  let at_ := 64 * k + i
  match s.rcd.fifo.find? (fun x => x.at_ ≤ at_ && at_ < x.at_ + x.r.slots) with
  | some x => if at_ == x.at_ then x.r.header else x.r.snaps.getD (at_ - x.at_ - 1) []
  | none => Map.read [] s.rcd.log at_

/-- ASCII text of a vstring. -/
def ascii (n : Nat) (t : String) : List Byte := fit n (t.toList.map (fun c => BitVec.ofNat 8 c.toNat))

/-- Bytes of a record or a domain object whose home is not `dom`. -/
def Chip.domView (s : Chip) (idx sub : Nat) : List Byte :=
  if 0x4400 ≤ idx && idx ≤ 0x47FF then Map.read [] s.pub (16 * (idx - 0x4400) + sub - 1)
  else if 0x4800 ≤ idx && idx ≤ 0x4BFF then
    (let g := 16 * (idx - 0x4800) + sub - 1
     if s.hasRecord g then s.slowSeen g else [])
  else if 0x2D20 ≤ idx && idx ≤ 0x2D23 then (((s.can (idx - 0x2D20)).queue (sub - 1)).take 12).flatMap (fun e => e)
  else if 0x2E10 ≤ idx && idx ≤ 0x2E2F then
    (let b := s.image (idx - 0x2E10)
     if s.rd idx 0x01 == 0 then [] else (b.drop 128).take (8 * imgNfig b))
  else if 0x2231 ≤ idx && idx ≤ 0x2235 && sub == 0x06 then
    ((s.captures (idx - 0x2231)).take 1).flatMap (fun x => le 8 x.1 ++ le 1 x.2)
  else s.rdDom idx sub

/-- The bytes of an object's value. -/
def State.bytesOf (s : State) (idx sub : Nat) : List Byte :=
  if sub == 0 && (entryOf idx 0).isNone then le 1 (highestSub idx)
  else if idx == 0x1008 then ascii 16 "PC6516 Idbetha"
  else if idx == 0x100A then fit 16 (Config.versionText (s.chip.rd 0x1030 (0x02 + s.chip.rd 0x1030 0x01)))
  else if 0x5100 ≤ idx && idx ≤ 0x58FF then fit 64 (s.logSlot (idx - 0x5100) (sub - 1))
  else match entryOf idx sub with
    | none => []
    | some e =>
      match e.ty with
      | .u n | .i n => le n (s.view idx sub)
      | .r32 => le 4 (s.view idx sub)
      | .str n | .record n => fit n (s.chip.domView idx sub)
      | .dom _ _ => s.chip.domView idx sub

end Sys2Proof.Machine
end

