-- ==== Sys2Proof/Machine/Recorder.lean ====
section
/-!
DEFINITION. Sys2Proof/Machine/Recorder.lean: the event recorder (19_event_recorder): ingest, snapshots, repeats, rate
limits, flushing into the log, release and reading.
-/

namespace Sys2Proof.Machine

/-- The row an event takes: the first whose CODE is non-zero and matches under MASK; row 255 takes the rest (R608). -/
def Chip.rowOf (s : Chip) (code : Nat) : Nat → Nat → Nat
  | 0, _ => 255
  | n + 1, i =>
    let w := s.rd (0x2B40 + i / 16) (i % 16 + 1)
    if bits w 63 48 != 0 && (code &&& bits w 47 32) == (bits w 63 48 &&& bits w 47 32) then i
    else s.rowOf code n (i + 1)

def Chip.rowWord (s : Chip) (i : Nat) : Nat := s.rd (0x2B40 + i / 16) (i % 16 + 1)

/-- Values of a snapshot set, packed in list order (R609). -/
def State.snapValues (s : State) (n : Nat) : List Byte :=
  let b := s.chip.rdDom (0x2B20 + n) 0
  (List.range (b.length / 4)).flatMap (fun i => s.bytesOf (leAt b (4 * i) 2) (leAt b (4 * i + 2) 1))

/-- Cut bytes into 64-byte slots, the last padded with 0x00; `n` slots. -/
def toSlots (b : List Byte) : Nat → List (List Byte)
  | 0 => []
  | n + 1 => fit 64 b :: toSlots (b.drop 64) n

/-- The next sector in ring order, passing over closing and former closing sectors (R619). -/
def Recorder.nextSector (r : Recorder) (k : Nat) : Nat → Nat
  | 0 => (k + 1) % 2048
  | n + 1 =>
    let k' := (k + 1) % 2048
    if r.closing == some k' || r.former.contains k' then r.nextSector k' n else k'

/-- Give a record of `n` slots its place: it never crosses a sector boundary (R615). -/
def Recorder.place (r : Recorder) (n : Nat) : Nat × Recorder :=
  let (sec, slot) := if r.planSlot + n ≤ 64 then (r.planSec, r.planSlot) else (r.nextSector r.planSec 2048, 0)
  (sec * 64 + slot,
    if slot + n < 64 then { r with planSec := sec, planSlot := slot + n }
    else { r with planSec := r.nextSector sec 2048, planSlot := 0 })

/-- A merge: REPEAT, LASTOPT, LASTTICK and VER change (R611). -/
def Record.merge (x : Record) (opt tick : Nat) : Record :=
  { x with repeats := x.repeats + 1, lastOpt := opt, lastTick := tick, ver := (x.ver + 2) % 65536 }

/-- The last record created in this power cycle, in the FIFO or out of it. -/
def Recorder.lastRec (r : Recorder) : Option Record :=
  match r.last with
  | none => none
  | some q =>
    match r.fifo.find? (fun x => x.r.seq == q) with
    | some x => some x.r
    | none => r.gone.map (·.r)

/-- Does the event merge as a repeat (R611)? -/
def Recorder.merges (r : Recorder) (e : Event) (row : Nat) : Bool :=
  match r.lastRec with
  | some x => x.code == e.code && x.src == e.src && !bit row 24 && decide (x.repeats < 0xFFFFFFFF)
  | none => false

/-- ELD (R408): code, source, and whether the event at the ingest port merges as a repeat (R611). -/
def execEld (t : TineId) (d : Fin 32) (imm : BitVec 16) (s : State) : Host.Outcome State Fault Refusal :=
  .next (s.onTine t t.isRecorder (fun s j =>
    let v := match s.chip.port with
      | [] => 0
      | e :: _ =>
        match imm.toNat with
        | 0 => e.code
        | 1 => e.src
        | 2 => if s.rcd.merges e (s.chip.rowWord (s.chip.rowOf e.code 255 0)) then 1 else 0
        | _ => 0
    { s with chip := s.chip.setJob t (((j.issue [] 2).setG d (BitVec.ofNat 32 v)).usable d 1 1) }))

def Recorder.mergeLast (r : Recorder) (opt tick : Nat) : Recorder :=
  { r with
    fifo := r.fifo.map (fun x => if r.last == some x.r.seq then { x with r := x.r.merge opt tick, dirty := x.written } else x)
    gone := r.gone.map (fun x => if r.last == some x.r.seq then { x with r := x.r.merge opt tick, dirty := true } else x) }

/-- The record of an event, with its detail continuation and snapshot as far as the FIFO has slots (R607, R609). The
result says whether the snapshot was lost. -/
def State.mkRecord (s : State) (e : Event) (seq row cap : Nat) : Record × Bool :=
  let set := match s.rcd.trig with
    | some (n, _) => n
    | none => bits row 31 27
  let detail := e.detail.take 460
  let nd := (detail.length - 12 + 63) / 64
  let vals := if set == 0 then [] else s.snapValues set
  let want := (vals.length + 63) / 64
  let ns := min want (7 - nd)
  let lost := set != 0 && decide (s.rcd.fill + 1 + nd + ns > cap)
  let snaps := toSlots (detail.drop 12) nd ++ (if lost then [] else toSlots vals ns)
  let qual := s.chip.rd 0x2200 0x03
  let flags := qual % 4 + (if lost then 4 else 0) + (if ns < want && !lost then 8 else 0) + (if e.pwrdie then 16 else 0) +
    (if s.rcd.fill > 384 && bit row 25 then 32 else 0)
  ({ seq := seq, optime := s.chip.rd 0x1040 0x01, tick := s.chip.clk.subSec, pcycle := s.chip.rd 0x1040 0x02,
     stime := s.chip.now, flags := flags, code := e.code, src := e.src, lost := min s.rcd.pendingLost 0xFFFFFFFF,
     snapSet := if lost then 0 else set, detail := detail.take 12, snaps := snaps }, lost)

/-- Add a record to the FIFO (R605, R613). -/
def Recorder.push (r : Recorder) (x : Record) : Recorder :=
  let (a, r) := r.place x.slots
  { r with fifo := r.fifo ++ [{ r := x, at_ := a }], last := some x.seq, gone := none, pendingLost := 0 }

/-- The flush triggers that a new record gives: FLUSH of its row or of the trigger program, 64 unwritten slots (R614). -/
def Recorder.trigger (r : Recorder) (flush : Bool) : Recorder :=
  if flush then { r with flushing := true, flushPrio := 2 }
  else if r.unwritten ≥ 64 then
    { r with flushing := true, flushPrio := min r.flushPrio (if r.fill > 384 then 2 else 5) }
  else r

/-- Suppressed and lost events count into LOST of the next record (R612, R613). -/
def State.suppress (s : State) : State :=
  { s with chip := s.chip.inc 32 0x2B00 0x08,
           rcd := { s.rcd with pendingLost := s.rcd.pendingLost + 1, supp := s.rcd.supp + 1 } }

def State.loseEvent (s : State) : State :=
  let c := (s.chip.inc 32 0x2B00 0x07).wrBit 0x2B00 0x01 2 true
  { s with chip := if s.rcd.losing then c else c.post 0x9006 0 (le 2 s.rcd.fill),
           rcd := { s.rcd with pendingLost := s.rcd.pendingLost + 1, losing := true } }

/-- Create the record of an event, or lose it (R605, R612, R613). -/
def State.create (s : State) (e : Event) (seq row i : Nat) : State :=
  let exempt := bit row 25
  let cap := if exempt then 512 else 496
  let pay := !exempt && decide (s.rcd.fill > 384)
  if pay && decide (Map.read 0 s.rcd.spent i + 1000 > bits row 15 8 * 1000) then s.suppress
  else
    let spent := if pay then Map.write 0 s.rcd.spent i (Map.read 0 s.rcd.spent i + 1000) else s.rcd.spent
    let (x, lost) := s.mkRecord e seq row cap
    if s.rcd.fill + x.slots > cap then s.loseEvent
    else
      let flush := bit row 26 || (match s.rcd.trig with | some (_, f) => f | none => false)
      let r := ({ s.rcd with spent := spent, losing := false }).push x
      let enter := decide (s.rcd.fill ≤ 384) && decide (r.fill > 384) && !r.limiting
      let r := (if enter then { r with limiting := true, supp := 0 } else r).trigger flush
      let c := if lost then (s.chip.inc 32 0x2B00 0x0A).wrBit 0x2B00 0x01 3 true else s.chip
      { s with chip := if enter then c.post 0x9004 0 (le 2 r.fill) else c, rcd := { r with trig := none } }

/-- The trigger program's invocation for an event is over with its ingest; the next event invokes it afresh (R401, R610). -/
def Chip.triggerDone (s : Chip) : Chip :=
  { s with tines := Map.write {} s.tines 100 { Map.read {} s.tines 100 with run := false, ended := false, bad := false, wait := none } }

/-- The oldest event at the port takes the next SEQ and becomes a record or a repeat (R601, R611). -/
def State.ingest (s : State) : State :=
  match s.chip.port with
  | [] => s
  | e :: rest =>
    let seq := s.rcd.nextSeq
    -- an invocation that ended with a fault has set no outcome (R408)
    let trig := if (Map.read {} s.chip.tines 100).bad then none else s.rcd.trig
    let s := { s with chip := { s.chip with port := rest }.triggerDone, rcd := { s.rcd with nextSeq := seq + 1, trig := trig } }
    let i := s.chip.rowOf e.code 255 0
    let row := s.chip.rowWord i
    if s.rcd.merges e row then
      let r := s.rcd.mergeLast (s.chip.rd 0x1040 0x01) s.chip.clk.subSec
      let r := if trig.any (·.2) then r.trigger true else r
      { s with chip := s.chip.inc 32 0x2B00 0x09, rcd := { r with trig := none } }
    else
      let s := s.create e seq row i
      { s with rcd := { s.rcd with trig := none } }

/-- EVENT_INGEST (R601). -/
def execEventIngest (s : State) : Host.Outcome State Fault Refusal := .next s.ingest

/-- Take `n` events from the port. -/
def State.ingestMany (s : State) : Nat → State
  | 0 => s
  | n + 1 => s.ingest.ingestMany n

/-- Every event that has happened is ingested within 100 µs: what a reset finds at the port (R601, R609). -/
def State.drainPort (s : State) : State := s.ingestMany (s.chip.port.length + 4)

/-- FLUSH_PERIOD (R614): 2B00:04 seconds since the last flush trigger a flush of priority 5. -/
def execFlushPeriod (s : State) : Host.Outcome State Fault Refusal :=
  .next { s with rcd := { s.rcd with flushing := true } }

/-- Write one record into the log. -/
def Recorder.writeRec (r : Recorder) (x : FifoRec) : Recorder :=
  { r with log :=  Map.insert x.at_ x.r.header (x.r.snaps.zipIdx.foldl (fun m p => Map.insert (x.at_ + 1 + p.2) p.1 m) r.log) }

/-- Pad slots from place `a` up to the end of its sector (R615). -/
def padSlot : List Byte := List.replicate 6 0xFF#8 ++ zeros 58

def Recorder.pad (r : Recorder) (a : Nat) : Nat → Recorder
  | 0 => r
  | n + 1 => ({ r with log := Map.insert a padSlot r.log }).pad (a + 1) n

/-- The place after a record's slots. -/
def FifoRec.endAt (x : FifoRec) : Nat := x.at_ + x.r.slots

/-- Write unwritten records in SEQ order until the log is FULL; `all` writes into the reserve as well (R614, R617,
R618). Records rewritten after a header change are rewritten in one operation (R616). -/
def Recorder.flushList (all : Bool) : List FifoRec → Recorder → List FifoRec × Recorder
  | [], r => ([], r)
  | x :: xs, r =>
    if x.written then
      let r' := if x.dirty then r.writeRec x else r
      let (ys, r'') := Recorder.flushList all xs r'
      ({ x with dirty := false } :: ys, r'')
    else if !all && decide (({ r with open_ := x.at_ / 64 } : Recorder).freeSectors ≤ 9) && x.at_ / 64 != r.open_ then (x :: xs, r)
    else
      let r' := r.writeRec x
      let r' := match xs with
        | y :: _ => if y.at_ / 64 != x.at_ / 64 then r'.pad x.endAt (64 - x.endAt % 64 % 64) else r'
        | [] => r'
      let sec := if x.endAt % 64 == 0 then r'.nextSector (x.at_ / 64) 2048 else x.at_ / 64
      let (ys, r'') := Recorder.flushList all xs { r' with open_ := sec }
      ({ x with written := true } :: ys, r'')

/-- Flush the FIFO: `all` at a power-fail. -/
def Recorder.flush (r : Recorder) (all : Bool) : Recorder :=
  let (f, r') := Recorder.flushList all r.fifo r
  let r' := { r' with fifo := f }
  match r'.gone with
  | some x => if x.dirty then { r'.writeRec x with gone := some { x with dirty := false } } else r'
  | none => r'

/-- A log flush waits behind requests of better classes for the bank of the open sector (R437, R614). -/
def State.logWaits (s : State) : Bool :=
  s.chip.pager.reqs.any (fun q => q.bank == bankOf (MramArea.log.sector s.rcd.open_) && decide (q.cls < s.rcd.flushPrio))

/-- LOG_FLUSH (R614): the unwritten slots are written in SEQ order; in FULL only a power-fail writes (R617). The sectors it writes are in
flight until LOG_FLUSH_COMPLETE, and it waits for room for them (R426). -/
def execLogFlush (s : State) : Host.Outcome State Fault Refusal :=
  if s.rcd.full == 2 && s.chip.mode != .shutdown then .next s
  else
    let down := s.chip.mode == .shutdown
    let r := s.rcd.flush down
    let todo (q : Recorder) : List FifoRec := q.fifo.filter (fun x => !x.written)
    let ks := (((todo s.rcd).filter (fun x => !(todo r).any (fun y => y.at_ == x.at_))).map (fun x => x.at_ / 64)).eraseDups.filter (fun k =>
      !s.chip.pager.logW.contains k)
    if s.logWaits || !s.chip.roomFor (ks.map MramArea.log.sector) then .next { s with rcd := { s.rcd with flushing := true } }
    else
      let n := if down then s.rcd.unwritten - r.unwritten else 0
      let c := { s.chip with pager := { s.chip.pager with logW := s.chip.pager.logW ++ ks } }
      .next { s with chip := c, rcd := { r with flushing := true, downSlots := s.rcd.downSlots + n } }

/-- The records of a log sector: their SEQ, walking header by header (R606, R615). -/
def sectorSeqs (log : Map (List Byte)) (k i : Nat) : Nat → List Nat
  | 0 => []
  | n + 1 =>
    if i ≥ 64 then []
    else match slotSeq (Map.read [] log (64 * k + i)) with
      | none => []
      | some q => q :: sectorSeqs log k (i + 1 + leAt (Map.read [] log (64 * k + i)) 27 1) n

/-- All record SEQs in the log. -/
def Recorder.logSeqs (r : Recorder) : List Nat :=
  ((r.log.map (fun x => x.1 / 64)).eraseDups).flatMap (fun k => sectorSeqs r.log k 0 64)

/-- Log state by the free sectors, with its events on entry (R617), and the counts of 5000:02, 03, 08. -/
def State.logState (s : State) : State :=
  let free := s.rcd.freeSectors
  let st := if free ≤ 9 then 2 else if free ≤ s.chip.rd 0x2B00 0x05 then 1 else 0
  let seqs := s.rcd.logSeqs
  let lo := seqs.foldl min (seqs.headD 0)
  let hi := seqs.foldl max 0
  let c := ((s.chip.wr 0x5000 0x02 lo).wr 0x5000 0x03 hi).wr 0x5000 0x08 seqs.length
  let c := if st == 1 && s.rcd.full != 1 then c.post 0x9001 0 (le 2 free) else c
  let c := if st == 2 && s.rcd.full != 2 then c.post 0x9002 0 (le 8 lo ++ le 8 hi) else c
  { s with chip := c, rcd := { s.rcd with full := st } }

/-- Copies of closed sectors leave the FIFO (R615); the record that repeats may still merge into is kept aside. -/
def Recorder.dropClosed (r : Recorder) : Recorder :=
  let leaves (x : FifoRec) : Bool := x.written && x.at_ / 64 != r.open_
  { r with fifo := r.fifo.filter (fun x => !leaves x)
           gone := match r.fifo.find? (fun x => leaves x && r.last == some x.r.seq) with
             | some x => some x
             | none => r.gone }

/-- Rate limiting ends when the fill falls to 384 or below, with 0x9005 (R612). -/
def State.limitEnd (s : State) : State :=
  if s.rcd.limiting && decide (s.rcd.fill ≤ 384) then
    { s with chip := s.chip.post 0x9005 0 (le 4 s.rcd.supp), rcd := { s.rcd with limiting := false, supp := 0 } }
  else s

/-- LOG_FLUSH_COMPLETE (R615): closed sectors leave the FIFO and the log state is updated. -/
def execLogFlushComplete (us : BitVec 16) (s : State) : Host.Outcome State Fault Refusal :=
  let r := { s.rcd.dropClosed with flushing := false, flushPrio := 5 }
  let c := { s.chip with pager := { s.chip.pager with logW := [] } }.serveMram
  .next (({ s with rcd := r, chip := (c.inc 32 0x2B00 0x0B).wr 0x2B00 0x0C us.toNat }).limitEnd.logState)

/-- May sector `k` be released through `seq`: it is neither open nor closing and all its records qualify (R619)? -/
def Recorder.releasable (r : Recorder) (k seq : Nat) : Bool :=
  k != r.open_ && r.closing != some k && (sectorSeqs r.log k 0 64).all (· ≤ seq)

/-- Release whole sectors, oldest first, stopping at the first that does not qualify; the SEQs released. -/
def Recorder.release (r : Recorder) (seq : Nat) : Nat → Nat × List Nat × Recorder
  | 0 => (0, [], r)
  | n + 1 =>
    if r.oldest != r.open_ && (r.closing == some r.oldest) then
      Recorder.release { r with oldest := (r.oldest + 1) % 2048 } seq n
    else if r.releasable r.oldest seq then
      let k := r.oldest
      let q := sectorSeqs r.log k 0 64
      let r' := { r with oldest := (k + 1) % 2048, log := r.log.filter (fun x => x.1 / 64 != k),
                         former := r.former.filter (· != k) }
      let (m, qs, r'') := Recorder.release r' seq n
      (m + 1, q ++ qs, r'')
    else (0, [], r)

/-- LOG_RELEASE (R619): an action of REC; refused when no sector is released. -/
def State.logRelease (s : State) (m : Master) (seq : Nat) : State :=
  match s.chip.actionGuard m 6 with
  | .ok =>
    let (n, qs, r) := s.rcd.release seq 2048
    if n == 0 then { s with chip := s.chip.answer .refused }
    else
      let c := ((s.chip.renew 6).answer .ok).post 0x9003 (masterCode m)
        (le 4 n ++ le 8 (qs.headD 0) ++ le 8 (qs.foldl max 0))
      let s' : State := { s with chip := c, rcd := r }
      if s.rcd.full == 2 && decide (r.freeSectors > 9) then
        let r := { r with former := r.former ++ r.closing.toList, closing := none, closingSlot := 0, flushing := true }
        ({ s' with rcd := r, chip := c.post 0x9007 0 (le 2 r.freeSectors) }).logState
      else s'.logState
  | st => { s with chip := s.chip.answer st }

def execLogRelease (m : Master) (seq : BitVec 64) (s : State) : Host.Outcome State Fault Refusal := .next (s.logRelease m seq.toNat)

/-- LOG_SECTOR_READ (R620): slot i of sector k, from the FIFO copy while the sector is open; a free sector is refused
with REFUSED, detail 0x01. -/
def execLogSectorRead (_m : Master) (k : Fin 2048) (i : Fin 64) (s : State) : Host.Outcome State Fault Refusal :=
  if (List.range 64).all (fun j => (s.logSlot k.val j).isEmpty) then
    .next { s with chip := s.chip.answer .refused 0x01 }
  else .next { s with chip := s.chip.answer .ok 0 (fit 64 (s.logSlot k.val i.val)) }

end Sys2Proof.Machine
end

