-- ==== Sys2Proof/Machine/Spares.lean ====
section
/-!
DEFINITION. Sys2Proof/Machine/Spares.lean: spare lanes and supervisor pairs going into service and coming back (02_tick
R71–R78, 12_paging R443–R448, 14_lockstep R486–R490).
-/

namespace Sys2Proof.Machine

/-- Number of a pair. -/
def pairNo : PairId → Nat
  | .tine t => tineNo t
  | .supervisor false => 101
  | .supervisor true => 102

/-- The source field of a pair's events; R391 gives a supervisor pair no place and 0x0000 stands for it (log entry 55). -/
def placeOfPair : PairId → Nat
  | .tine t => placeOf t
  | .supervisor _ => 0

/-- A physical lane as a Tine. -/
def laneTine (b l : Nat) : TineId := .lane (Fin.ofNat 16 b) (Fin.ofNat 5 l)

/-- Group and bit of injection `n` (0–334) of R482: the bits of BUS, GW, VW, SW and SA as groups 1–5, parity bytes as
group 6, rails as group 7 (log entry 55). -/
def injection (n : Nat) : Nat × Nat :=
  if n < 104 then (1, n)
  else if n < 141 then (2, n - 104)
  else if n < 211 then (3, n - 141)
  else if n < 248 then (4, n - 211)
  else if n < 280 then (5, n - 248)
  else if n < 325 then (6, n - 280)
  else (7, n - 325)

/-- A logical lane is without a healthy lane: its physical lane has been taken out of service, is retired or under debug
(R77). -/
def Chip.laneLost (s : Chip) (b i : Nat) : Bool := s.physOf b i == 5 || s.rd (0x2A20 + b) (s.physOf b i + 1) != 0

/-- The role epoch of a logical lane increments (R75). -/
def Chip.bumpLane (s : Chip) (b i : Nat) : Chip := s.inc 16 (0x2120 + b) (0x0D + i)

/-- The first positions of the lanes of a block. -/
def Chip.withFirsts (s : Chip) (b : Nat) (firsts : List Nat) : Chip :=
  (List.range 4).foldl (fun s i => s.wr (0x2120 + b) (0x09 + i) (firsts.getD i 64)) s

/-- A lane's excess over its declared figures goes with it to another range (log entry 57). -/
def Chip.keepExcess (s old : Chip) (b i kind : Nat) : Chip :=
  let e := old.excess b i kind
  let decl := if kind == 1 then s.protLoad b (s.lanePos b i) else s.estLoad b (s.lanePos b i)
  { s with sched := { s.sched with raised := Map.write 0 s.sched.raised (fastJob (4 * b + i) kind) (if e = 0 then 0 else decl + e) } }

/-- Put the first positions of the lanes of a block; the epoch of every lane whose range changes increments (R73, R75). -/
def Chip.setRanges (s : Chip) (b : Nat) (firsts : List Nat) : Chip :=
  let s' := s.withFirsts b firsts
  (List.range 4).foldl (fun s' i =>
    if s.laneFirst b i != s'.laneFirst b i || s.laneFirst b (i + 1) != s'.laneFirst b (i + 1) then
      ((s'.keepExcess s b i 1).keepExcess s b i 2).bumpLane b i
    else s') s'

/-- The block at half rate in `half` and without estimation in `none_`. -/
def Chip.withRates (s : Chip) (b half none_ : Nat) : Chip :=
  { s.wr (0x2120 + b) 0x15 half with sched := { s.sched with noEst := Map.write 0 s.sched.noEst b none_ } }

/-- Every way to share positions `xs` out in order among `k + 1` lanes: where the second and the later ones begin. -/
def sharesOf : Nat → List Nat → List (List Nat)
  | 0, _ => [[]]
  | k + 1, xs => (List.range xs.length).flatMap (fun i => (sharesOf k (xs.drop i)).map (xs.getD i 64 :: ·))

/-- First positions of the four lanes where the healthy ones begin at 0 and at `cuts`; a lane that is lost is empty. -/
def firstsOf (lost : Nat → Bool) (cuts : List Nat) : List Nat :=
  (List.range 4).map (fun i => (0 :: cuts).getD ((List.range i).filter (fun j => !lost j)).length 64)

/-- The positions of a block spread over its healthy lanes (R77): the fewest cycles beyond the admission limits at full rate,
then the smallest largest load, then the lowest boundaries (log entry 53). -/
def Chip.bestSpread (s : Chip) (b : Nat) : List Nat :=
  let s := s.withRates b 0 0
  let live := (List.range 4).filter (fun i => !s.laneLost b i)
  let cost := (List.range 64).map (fun p => s.posProt b p + s.posEst b p)
  let ps := (List.range 64).filter (fun p => cost.getD p 0 != 0)
  let pre := (List.range 65).map (fun x => (cost.take x).foldl (· + ·) 0)
  let room := live.map (fun i => s.admitLimit - (s.loadOf b i (List.range 64) - pre.getD 64 0))
  let key (cuts : List Nat) : Nat × Nat :=
    let loads := ((0 :: cuts).zip (cuts ++ [64])).map (fun x => pre.getD x.2 0 - pre.getD x.1 0)
    (((loads.zip room).map (fun x => x.1 - x.2)).foldl (· + ·) 0, loads.foldl max 0)
  let less (x y : Nat × Nat) : Bool := x.1 < y.1 || (x.1 == y.1 && x.2 < y.2)
  if live.isEmpty || (live.length == 4 && ps.isEmpty) then [0, 16, 32, 48]
  else
    let best := (sharesOf (live.length - 1) (ps ++ [64])).foldl (fun m c =>
      match m with
      | none => some (key c, c)
      | some x => if less (key c) x.1 then some (key c, c) else m) none
    firstsOf (s.laneLost b) ((best.map (·.2)).getD [])

/-- A block that has its four lanes again: its boundaries go to a new spread one by one (R73), with full rate and estimation
everywhere once they stand there. -/
def Chip.fullRate (s : Chip) (b : Nat) : Chip :=
  if s.halfRate b == 0 && Map.read 0 s.sched.noEst b == 0 && (List.range 4).all (fun i => s.laneFirst b i != s.laneFirst b (i + 1))
  then { s with sched := { s.sched with spread := Map.write [] s.sched.spread b [] } }
  else { s with sched := { s.sched with spread := Map.write [] s.sched.spread b (s.bestSpread b ++ [0, 0]) } }

/-! ## Boundary moves (R61, R72, R73) -/

/-- First positions of the lanes of a block. -/
def Chip.firsts (s : Chip) (b : Nat) : List Nat := (List.range 4).map (s.laneFirst b)

def Chip.largestLoad (s : Chip) (b : Nat) : Nat := ((List.range 4).map (s.laneLoad b)).foldl max 0

def Chip.allFit (s : Chip) (b : Nat) : Bool := (List.range 4).all (fun l => s.fits b l (s.lanePos b l))

/-- The block with boundary `k`, between lanes k and k + 1, at position `x`. -/
def Chip.movedTo (s : Chip) (b k x : Nat) : Chip :=
  -- loads over a range not the lane's own keep its excess
  ((s.withFirsts b ((s.firsts b).set (k + 1) x)).keepExcess s b k 1 |>.keepExcess s b k 2 |>.keepExcess s b (k + 1) 1).keepExcess s b (k + 1) 2

/-- Moves of whole positions across one boundary: boundary, its new position and the number of positions moved. -/
def Chip.moves (s : Chip) (b : Nat) : List (Nat × Nat × Nat) :=
  (List.range 3).flatMap (fun k =>
    let cur := s.laneFirst b (k + 1)
    ((List.range 65).filter (fun x => s.laneFirst b k ≤ x && x ≤ s.laneFirst b (k + 2) && x != cur)).map
      (fun x => (k, x, (x - cur) + (cur - x))))

/-- R72: the smallest largest lane load; a tie goes to the lower boundary, then to the move of fewer positions. -/
def Chip.bestMove (s : Chip) (b : Nat) : Option (Nat × Nat) :=
  let best := (s.moves b).foldl (fun m c =>
    let l := (s.movedTo b c.1 c.2.1).largestLoad b
    match m with
    | none => some (l, c)
    | some (l', c') =>
      if l < l' || (l == l' && c.1 == c'.1 && c.2.2 < c'.2.2) then some (l, c) else m) none
  best.map (fun x => (x.2.1, x.2.2.1))

/-- A boundary move of the block has been decided for the next edge; its boundaries are on their way to a spread (R73). -/
def Chip.hasMove (s : Chip) (b : Nat) : Bool := (List.range 3).any (fun k => Map.read 0 s.sched.move (b * 4 + k) != 0)
def Chip.spreading (s : Chip) (b : Nat) : Bool := !(Map.read [] s.sched.spread b).isEmpty

/-- An over-admitted block: the best move, where it makes the block fit or reduces its largest load (R60, R61). -/
def Chip.rebalance (s : Chip) (b : Nat) : Chip :=
  if s.allFit b || s.hasMove b || s.spreading b || (List.range 4).any (s.laneLost b) then s
  else match s.bestMove b with
    | some (k, x) =>
      let s' := s.movedTo b k x
      if s'.allFit b || decide (s'.largestLoad b < s.largestLoad b) then
        { s with sched := { s.sched with move := Map.write 0 s.sched.move (b * 4 + k) (x + 1) } }
      else s
    | none => s

/-- HALFRATE while any position runs at half rate or without estimation. -/
def Chip.showHalfRate (s : Chip) : Chip :=
  s.wrBit 0x2100 0x05 3 ((List.range 16).any (fun b => s.halfRate b != 0 || Map.read 0 s.sched.noEst b != 0))

/-- Spare lane `k` takes over logical lane `i` of a block from physical lane `l`, with a new role epoch; suspended slow
jobs start again from their entries (R76, R405, R443, R448). `cause`: 1 wear, 2 mismatch, 3 self-test failure. -/
def Chip.takeLane (s : Chip) (b i l k cause : Nat) : Chip :=
  let s := { s with sched := { s.sched with phys := Map.write i s.sched.phys (b * 4 + i) k } }
  let s := s.setLane b k 0
  let s := if l < 5 then
      let x := s.tine (laneTine b l)
      (s.ungrant x.job.pages).setTine (laneTine b l) { x with run := false, wait := none, ctxs := [], job := { x.job with pages := [] } }
    else s
  let s := s.setTine (laneTine b k) {}
  let s := (((s.bumpLane b i).countSwap).post 0xB001 b (le 4 l ++ le 1 cause)).exhaust 1 (s.rd 0x2A00 0x02)
  if (List.range 4).any (s.laneLost b) then s else s.fullRate b

/-- Copy the profile copies and kernel data of physical lane `l` into lane `k` (R486). -/
def Memory.copyLane (m : Memory) (t u : TineId) : Memory :=
  let inside (a : Nat) : Bool := (0x10000000 ≤ a && a < 0x10006C00) || (0x10008000 ≤ a && a < 0x1000C000)
  let key (v : TineId) : Nat := (tineNo v + 1) * 2 ^ 32
  m.foldl (fun acc x =>
    if key t ≤ x.1 && x.1 < key t + 2 ^ 32 && inside (x.1 - key t) then Memory.setByte acc (key u + (x.1 - key t)) x.2
    else acc)
    (m.foldl (fun acc x =>
      if key u ≤ x.1 && x.1 < key u + 2 ^ 32 && inside (x.1 - key u) then Memory.setByte acc x.1 0#8 else acc) m)

/-- Where the data of a kernel begins in the lanes of a ring, after the data of the kernels before it (log entry 32). -/
def Chip.kernelData (s : Chip) (r k : Nat) : Nat :=
  0x10008000 + (((s.ringKernels r).filter (· < k)).map (fun j => imgInitLen (s.image j) + imgZeroLen (s.image j))).foldl (· + ·) 0

/-- A kernel's initial data in a lane. -/
def Memory.loadData (m : Memory) (t : TineId) (data : Nat) (b : List Byte) : Memory :=
  m.store (localKey t data) (imgInit b ++ zeros (imgZeroLen b))

/-- Copy a kernel's code and initial data into a lane. -/
def Memory.loadKernel (m : Memory) (t : TineId) (code data : Nat) (b : List Byte) : Memory :=
  (m.store (localKey t code) (imgCode b)).loadData t data b

/-- The copy engine of block `b` at a takeover (R486). Whether a word of the copy made for a mismatch is uncorrectable, and which one, is a
free value; the spare's kernel data then start from the images (0x6068 with buffer code 3, log entry 155). -/
def State.laneCopy (s : State) (b l k : Nat) (mismatch : Bool) : State :=
  let m := s.mem.copyLane (laneTine b l) (laneTine b k)
  if 5 ≤ l then s
  else if !mismatch then { s with mem := m }
  else
    let (v, c) := s.chip.draw
    if v % 2 == 0 then { s with chip := c, mem := m }
    else
      { s with chip := c.post 0x6068 b (le 4 3 ++ le 4 (v / 2))
               mem := (c.ringKernels b).foldl (fun m j => m.loadData (laneTine b k) (c.kernelData b j) (c.image j)) m }

/-- Mismatches of a pair within the last `d` days or `h` hours. -/
def Chip.mismatchesIn (s : Chip) (p : PairId) (secs : Nat) : Nat :=
  ((Map.read [] s.lock.times (pairNo p)).filter (fun t => decide (s.rd 0x1040 0x01 < t + secs))).length

/-- A lane pair or ring without its lanes: the ring is not admitted (R29, R462, R490). -/
def Chip.ringOut (s : Chip) (r : Nat) : Chip := s.setRingState r 5

/-- The same until a restart: discovery does not admit it again. -/
def Chip.ringUnfit (s : Chip) (r : Nat) : Chip := (s.setRing r { s.ring r with unfit := true }).ringOut r

/-- Retire a pair without a spare (R490): 0x6007 with its consequence. -/
def Chip.retireNonspare (s : Chip) (t : TineId) : Chip :=
  let x := s.tine t
  let s := (s.setTine t { x with run := false, stopped := true, retired := true, wait := none }).wrBit 0x6000 0x01 2 true
  let s := match t with
    | .ringCtl r => (s.wr (0x6040 + r.val) 0x01 1).ringUnfit r
    | .can p => (List.range 1024).foldl (fun s _ => s.canDispose p 0xF) s
    | _ => s
  s.post 0x6007 (placeOf t) (le 1 (match t with | .ringCtl _ => 1 | .can _ => 2 | _ => 3))

/-- A supervisor pair leaves service and the spare takes over (R443, R489); 0xB002 carries the cause. -/
def Chip.takeSupervisor (s : Chip) (cause : Nat) : Chip :=
  (((s.wr 0x2A00 0x03 1).countSwap).post 0xB002 0 (le 1 cause)).exhaust 2 0

end Sys2Proof.Machine
end

