-- ==== Sys2Proof/Machine/Restart.lean ====
section
/-!
DEFINITION. Sys2Proof/Machine/Restart.lean: the reset of the compute die, starts and the way down (R24–R41 of
01_architecture, 20_startup_and_power_fail).
-/

namespace Sys2Proof.Machine

/-! ## The compute-die reset -/

def keptKey (k : Nat) : Bool := match entryOf (k / 256) (k % 256) with
  | some e => e.keep
  | none => false

/-- What a restart that is not clean leaves set besides: the SAFE-HOLD cause, LSBROKEN and RETIRED, unchecked pairs, retired
ring-controller Tines and held regions (R39, R462, R495, 6000:01). -/
def uncleanKey (k : Nat) : Bool :=
  k == okey 0x2000 0x03 || k == okey 0x6000 0x01 || ((0x6040 ≤ k / 256 && k / 256 ≤ 0x604F) && (k % 256 == 1 || k % 256 == 3)) ||
  ((0x6064 ≤ k / 256 && k / 256 ≤ 0x6067) && k % 256 == 1)

/-- What of a ring lies in its slices, its ports and its fault loop, outside the compute die's logic. DESIGN CHOICE: a hold of R83 does
not outlive the reset, whatever the persistent herd table says of the position (log entry 156). -/
def Ring.afterReset (x : Ring) : Ring :=
  { crossA := x.crossA, crossB := x.crossB, peerA := x.peerA, peerB := x.peerB, portx := x.portx, short := x.short, hbLost := x.hbLost }

/-- COMPUTE-DIE RESET: the compute die loses what it holds in SRAM; eMRAM, the AON domain and the slices keep theirs. The
adopt handshake starts anew (R13, R382), a debug session ends (R499), claims end (R552). -/
def Chip.computeReset (s : Chip) : Chip :=
  let clean := s.cleanNow
  let od := s.od.filter (fun x => keptKey x.1 || (!clean && uncleanKey x.1))
  let od := mergeInto od s.profPend
  let adopt : Adopt := { s.adopt.disrupt with clean := clean, safeHold := s.adopt.safeHold && !clean }
  let fresh : Chip :=
    { fresh := s.fresh, od := od, mode := .boot
      trip := { s.trip with base := s.aonNs, unseen := [], swapDue := false }
      chan := s.chan.each {} (fun c => { c with offTick := none }), group := s.group, adopt := adopt
      dom := mergeInto (s.dom.filter (fun x => keptKey x.1)) s.profPendDom
      clk := { p := Map.read 1 s.od (okey 0x2100 0x01), edge := s.now }
      slices := s.slices, herd := s.herd, images := s.images
      rings := s.rings.each {} Ring.afterReset
      estr := s.estr.each {} (fun (x : EStr) => ({ sinceRest := x.sinceRest } : EStr))
      pager := { slow := s.pager.slow, pool := s.pager.pool, remap := s.pager.remap, moveTo := s.pager.moveTo, hold := s.pager.hold
                 bad := s.pager.bad, flushed := s.pager.flushed, move := s.pager.move, worn := s.pager.worn, errs := s.pager.errs
                 rowErrs := s.pager.rowErrs, rowGone := s.pager.rowGone, rows := s.pager.rows, bankRows := s.pager.bankRows }
      tines := if clean then [] else (s.tines.filter (fun x => 80 ≤ x.1 && x.2.retired)).map
        (fun x => (x.1, ({ stopped := true, retired := true } : Tine)))
      sched := { phys := s.sched.phys }
      lock := { times := s.lock.times, checker := s.lock.checker, chipOff := s.lock.chipOff && !clean }
      power := { s.power with
        started := false, from_ := s.mode.code, restart := none
        ended := if clean then s.power.ended else some ((s.clk.sincePor - s.lock.since) / 1000) } }
  let fresh := (fresh.wr 0x6000 0x01 (fresh.rd 0x6000 0x01 &&& 5)).wrBit 0x2A00 0x01 2 false
  if s.linkLost then fresh.tripDeassert 43 else fresh

/-- Slots written in a sector. -/
def Recorder.usedIn (r : Recorder) (k : Nat) : Nat :=
  ((List.range 64).filter (fun i => !(Map.read [] r.log (64 * k + i)).isEmpty)).length

/-- The recorder after a reset: the log stays, the FIFO is lost; SEQ goes on above the highest SEQ of the log and of the
last closing record (R601). `lost` records count into LOST of the first record (R627). -/
def Recorder.restart (r : Recorder) (lost : Nat) : Recorder :=
  let used := r.usedIn r.open_
  { nextSeq := (r.logSeqs.foldl max (r.closedSeq.getD 0)) + 1
    log := r.log, oldest := r.oldest, open_ := r.open_, closing := r.closing, closingSlot := r.closingSlot
    former := r.former, full := r.full, closedSeq := r.closedSeq, pendingLost := lost
    planSec := if used == 64 then r.nextSector r.open_ 2048 else r.open_
    planSlot := if used == 64 then 0 else used }

def Recorder.unwrittenRecs (r : Recorder) : Nat := (r.fifo.filter (fun x => !x.written)).length

/-- RESET at once, without a flush (R627); `known`: the count of unwritten records survives. -/
def State.resetNow (s : State) (known : Bool) : State :=
  let s := s.drainPort
  { s with chip := s.chip.computeReset, mem := []
           rcd := s.rcd.restart (if known then s.rcd.unwrittenRecs + s.rcd.pendingLost else 0) }

/-- A controlled restart: an event, the FIFO flushed, then the reset (R463, R579). -/
def State.controlledReset (s : State) (code src : Nat) (detail : List Byte) : State :=
  let s := { s with chip := s.chip.post code src detail }.drainPort
  let r := if s.rcd.full == 2 then s.rcd else s.rcd.flush false
  { s with rcd := r }.resetNow true

/-- RESET_N (R627, R640): the start that follows carries cause 0x03; with VAUX low after the closing record the die stays in
reset. -/
def execResetN (s : State) : Host.Outcome State Fault Refusal :=
  if s.chip.power.closed && s.chip.power.dropped then .next s
  else
  let s := if s.chip.power.closed then s else s.resetNow true
  let p := s.chip.power
  .next { s with chip := { s.chip with up := true, mode := .boot
                                       power := { p with closed := false, cause := 0, started := false
                                                         from_ := if p.closed then 6 else p.from_ } } }

/-- SUPPLY_UNDERVOLTAGE (R651): the compute die loses its supply and resets, and a way down in progress ends without a closing record. -/
def execSupplyUndervoltage (_rail : Fin 3) (s : State) : Host.Outcome State Fault Refusal :=
  let s := if s.chip.power.closed then s else s.resetNow false
  .next { s with chip := { s.chip with power := { s.chip.power with
    cause := if s.chip.power.closed then s.chip.power.cause else 0, noRail := true } } }

/-! ## Start-up (R625–R632) -/

/-- Which firmware image runs: its number, the cause of 0xA003 (0 none), and the image that failed (R631, R632). -/
def Chip.chooseImage (s : Chip) (ok : Bool × Bool) : Option (Nat × Nat × Option Nat) :=
  let newer (i : Nat) : Bool := decide (s.rd 0x1031 0x05 ≤ imgVersion (s.image (32 + i)))
  let sig (i : Nat) : Bool := if i == 0 then ok.1 else ok.2
  let good (i : Nat) : Bool := sig i && newer i
  let pref := s.rd 0x1030 0x06 % 2
  let back := decide (s.rd 0x1031 0x07 ≤ s.rd 0x1031 0x06)
  let first := if back then 1 - pref else pref
  if good first then some (first, if back then 3 else 0, none)
  else if good (1 - first) then some (1 - first, if sig first then 2 else 1, some first)
  else none

/-- The resident images and the root key are those of the running firmware image, once an update has written it (R415, R416): a root key
that it withdraws signs no certificate any more. -/
def Chip.takeFirmware (s : Chip) (run : Nat) : Chip :=
  match s.images.find? (fun x => x.1 == 32 + run) with
  | none => { s with images := s.images.filter (fun x => 8 ≤ x.1) }
  | some (_, b) =>
    let s := (List.range 8).foldl (fun (s : Chip) k =>
      { s with images := Map.write (imageDefault k) s.images k (Config.firmwareResident b k) }) s
    s.wr 0x2E00 0x06 (Config.firmwareRoot b)

/-- Versions and states of the images in 1030 (in recovery mode both have failed), and the resident Tine images in their slots (R416, R580).
-/
def Chip.loadImages (s : Chip) (run : Nat) (failed : List Nat) : Chip :=
  let st (i : Nat) : Nat := if failed.contains i then 2 else if i == run then 3 else if s.image (32 + i) == [] then 0 else 1
  let s := (((s.wr 0x1030 0x01 run).wr 0x1031 0x01 (1 - run)).wr 0x1030 0x04 (st 0)).wr 0x1030 0x05 (st 1)
  let s := (s.wr 0x1030 0x02 (imgVersion (s.image 32))).wr 0x1030 0x03 (imgVersion (s.image 33))
  let s := s.takeFirmware run
  (List.range 8).foldl (fun s k =>
    let b := s.image k
    let i := 0x2E10 + k
    let s := if s.rd i 0x01 == 0 then s.wr i 0x01 3 else s
    (((s.wr i 0x02 (residentPlace k)).wr i 0x03 (residentCode k)).wr i 0x04 (imgVersion b)).wr i 0x05 b.length) s

/-- A pair that fails its start-up self-test or misses an injection (R29, R482): 0x6003 or 0xA005, and its replacement. -/
def Chip.startFailure (s : Chip) (x : PairId × Option (Fin 335)) : Chip :=
  let (p, missed) := x
  let s := match missed with
    | some n => (s.wrBit 0x6000 0x01 1 true).post 0x6003 (placeOfPair p) (le 4 (injection n).1 ++ le 4 (injection n).2)
    | none => let (g, s) := s.draw; s.post 0xA005 (placeOfPair p) (le 1 1 ++ le 4 g)
  match p with
  | .tine (.lane b l) =>
    if s.rd (0x2A20 + b.val) (l.val + 1) == 2 then s
    else if s.idleSpare b == some l.val then (s.setLane b l 2).spareFails 1 b
    else match s.logicalOf b l, s.idleSpare b with
      | some i, some k => (s.setLane b l 2).takeLane b i l k 3
      | some _, none => s.setLane b l 2
      | none, _ => s.setLane b l 2
  | .tine t => s.retireNonspare t
  | .supervisor true => if s.rd 0x2A00 0x03 == 0 then (s.wr 0x2A00 0x03 2).spareFails 2 0 else s
  | .supervisor false => if s.rd 0x2A00 0x03 == 0 then s.takeSupervisor 3 else s

/-- Rings of blocks that cannot field four healthy lanes are not admitted, with 0xA013 (R29). -/
def Chip.shortBlocks (s : Chip) : Chip :=
  (List.range 16).foldl (fun s b => if (List.range 4).any (s.laneLost b) then (s.ringUnfit b).post 0xA013 b else s) s

/-- Step 5: the committed matrix after a cold start, or its check after any other (R629). -/
def Chip.loadMatrix (s : Chip) : Chip :=
  if s.adopt.cold then s.swapMatrix
  else if s.activeCrc == s.committedCrc then s
  else (s.swapMatrix).post 0xA005 0 (le 1 2 ++ le 4 0)

/-- No supervisor pair has passed its self-test (R28). -/
def noSupervisor (failed : List (PairId × Option (Fin 335))) : Bool :=
  failed.any (fun x => x.1 == .supervisor false) && failed.any (fun x => x.1 == .supervisor true)

/-- Events of a start after 0xA001 and the change to BOOT: another image, no closing record, a low reservoir, VAUX back,
an ended session (R499, R631, R635, R642, R644). -/
def Chip.startFindings (s : Chip) (run img : Nat) (unclosed : Bool) (high : Nat) : Chip :=
  let p := s.power
  let s := if img ≠ 0 then s.post 0xA003 run (le 1 img) else s
  let s := if unclosed then s.post 0xA004 0 (le 8 high) else s
  let s := match p.holdup with
    | some v => if v < 10000 then s.post 0xA006 0 (le 2 v) else s
    | none => s
  let s := match p.below with
    | some ms => s.post 0xA032 0 (le 4 ms)
    | none => s
  let s := match p.ended with
    | some d => s.post 0x600A 0 (le 1 3 ++ le 4 d)
    | none => s
  { s with power := { s.power with holdup := none, below := none, ended := none } }

/-- The AON domain is cleared, trip records and trip status with it, and COLD set (R237, R382, R643). The retirement map in eMRAM keeps
the segments that spares have replaced (R447). -/
def Chip.clearAon (s : Chip) : Chip :=
  let spares := (List.range 16).filter (fun k => (s.ch k).spare)
  let s : Chip := { ((s.wr 0x2000 0x03 0).wr 0x2300 0x0B 0).wr 0x2300 0x0C 0 with
    trip := {}, chan := [], group := [], adopt := { image := s.adopt.image } }
  spares.foldl (fun s k => s.setCh k { spare := true }) s

/-- Section time at BOOT (R503): that of the last closing record, or 0; after a restart with power kept, not earlier than
the time held (R518; log entry 54). -/
def Chip.startTime (s : Chip) (cause : Nat) : Nat :=
  let t := s.power.closeTime.getD 0
  if cause == 3 || cause == 4 || cause == 5 then max t s.clk.edge else t

/-- What the power die counts since BOOT begins at 0 (R238, R385): trips and turn-ons. -/
def Chip.countsFromBoot (s : Chip) : Chip :=
  { s with od := s.od.filter (fun (x : Nat × Nat) => x.1 / 256 != 0x2303 && !(x.1 / 4096 == 0x241 && x.1 % 256 == 0x12)) }

/-- Boot attempts that ended before READY (R632). -/
def Chip.countAttempt (s : Chip) (cause : Nat) : Chip :=
  if 3 ≤ s.power.booting && 3 ≤ cause then s.inc 8 0x1031 0x06 else s

/-- POWER_ON (R625–R629): counters, image, memory, self-test and configuration. `failed` names the pairs that failed, with
the injection missed where it was one; `imageOk` is the boot ROM's verification of images A and B. -/
def State.powerOn (s : State) (cause : Nat) (failed : List (PairId × Option (Fin 335))) (imageOk : Bool × Bool) : State :=
  let c := s.chip
  let c := (if cause == 1 then c.clearAon else c).countsFromBoot
  let first := c.rd 0x1040 0x02 == 0 && c.rd 0x1040 0x03 == 0
  let seqs := s.rcd.logSeqs
  let high := seqs.foldl max 0
  let unclosed := (cause == 1 || cause == 2 || cause == 6) && !first && (match s.rcd.closedSeq with | none => true | some q => decide (q < high))
  let c := c.inc 32 0x1040 (if cause == 1 || cause == 2 || cause == 6 then 0x02 else 0x03)
  let c := c.countAttempt cause
  let c := { c with up := true, mode := .boot
                    clk := { p := c.clk.p, edge := c.startTime cause }
                    power := { c.power with started := true, booting := cause, closed := false, cause := 0, dropped := false
                                            noRail := false
                                            recovery := (c.chooseImage imageOk).isNone } }
  let (run, img, bad) := (c.chooseImage imageOk).getD (c.rd 0x1030 0x01, 0, none)
  let c := c.loadImages run (if c.power.recovery then [0, 1] else bad.toList)
  let c := (c.post 0xA001 cause (le 1 run ++ le 1 (c.rd 0x1031 0x06))).post 0xA010 (c.power.from_ * 256 + 1)
  let c := c.startFindings run img unclosed high
  let c := if c.power.recovery then c
    else
      let c := (failed.foldl Chip.startFailure c.retireBad).shortBlocks.loadMatrix
      let ks := (List.range 32).filter (fun k => (List.range 16).any (fun r => (c.ringKernels r).contains k))
      let c := { (List.range 4).foldl Chip.canPower c with kernels := ks }.showEol.showLearning
      if noSupervisor failed then c.enterSafeHold 3 else c
  { s with chip := c, mem := [] }

/-- May a start with this cause run now: the die waits in BOOT, or VAUX was lost after the closing record. -/
def Chip.mayStart (s : Chip) (cause : Nat) : Bool :=
  cause != 0 && ((s.up && s.mode == .boot && !s.power.started) || (cause == 1 && s.power.closed))

def execPowerOn (cause : Fin 7) (failed : List (PairId × Option (Fin 335))) (imageOk : Bool × Bool) (s : State) :
    Host.Outcome State Fault Refusal :=
  if s.chip.mayStart cause then
    let c := s.chip
    let c := if c.power.closed then { c with power := { c.power with from_ := 6 } } else c
    .next ({ s with chip := c }.powerOn cause failed imageOk)
  else .next s

/-! ## The way down (R636–R645) -/

/-- VAUX_DROP (R636): SHUTDOWN, a section emergency, and the flush. A drop while a mode request takes the device down starts
the power-fail at once (R639); one in reset lets VAUX_RETURN follow (R640), and one before the start has run writes no closing record (R644).
-/
def Chip.vauxDrop (s : Chip) (vaux holdup : Nat) : Chip :=
  if !s.up then { s with power := { s.power with dropped := true } }
  else if !s.power.started then { s with mode := .shutdown, up := false, power := { s.power with closed := true, dropped := true } }
  else if s.power.cause == 1 then s
  else
    let s := s.post 0xA030 0 (le 2 vaux ++ le 2 holdup)
    let s := s.enterShutdown
    let s := { s with power := { s.power with cause := 1, dropped := true } }
    s.sectionEmergency.pageFlush false

def execVauxDrop (vauxMv holdupMv : BitVec 16) (s : State) : Host.Outcome State Fault Refusal :=
  let go := s.chip.up && s.chip.power.started && s.chip.power.cause != 1
  .next { s with chip := s.chip.vauxDrop vauxMv.toNat holdupMv.toNat
                 rcd := if go then { s.rcd with flushing := true, flushPrio := 1 } else s.rcd }

/-- Pages still being written when the way down ends are stored (R438). -/
def Chip.finishPages (s : Chip) : Chip :=
  let w := s.pager.cache.filter (fun x => (x.2.st == .writing || s.pageHolds x.1) &&
    (x.2.st == .writing || x.2.st == .dirty || s.pager.reqs.any (fun q => q.kind == .write && q.unit == x.1)))
  w.foldl (fun s x => s.storePage x.1 x.2) s

/-- Write the unwritten records as far as free sectors reach (R618). -/
def Recorder.flushReach : List FifoRec → Recorder → List FifoRec × Recorder
  | [], r => ([], r)
  | x :: xs, r =>
    if x.written then
      let r' := if x.dirty then r.writeRec x else r
      let (ys, r'') := Recorder.flushReach xs r'
      ({ x with dirty := false } :: ys, r'')
    else if x.at_ / 64 != r.open_ && r.freeSectors == 0 then (x :: xs, r)
    else
      let r' := r.writeRec x
      let r' := match xs with
        | y :: _ => if y.at_ / 64 != x.at_ / 64 then r'.pad x.endAt (64 - x.endAt % 64 % 64) else r'
        | [] => r'
      let (ys, r'') := Recorder.flushReach xs { r' with open_ := x.at_ / 64 }
      ({ x with written := true } :: ys, r'')

/-- The place of the closing record: the plan's, or the next slot of the closing sector, whose newest closing record it
replaces once the sector is full (R618). -/
def Recorder.closingPlace (r : Recorder) : Nat × Recorder :=
  match r.closing with
  | none => r.place 2
  | some k =>
    let i := if r.closingSlot + 2 ≤ 64 then r.closingSlot else 62
    (k * 64 + i, { r with closingSlot := i + 2 })

/-- The last free sector becomes the closing sector once a power-fail in FULL has used the reserve (R618). -/
def Recorder.startClosing (r : Recorder) : Recorder :=
  if r.full == 2 && r.closing.isNone then { r with closing := some ((r.oldest + 2047) % 2048), closingSlot := 0 } else r

/-- The 64-byte snapshot slot of R638. -/
def State.closingSlotBytes (s : State) (slots lost us vaux holdup : Nat) : List Byte :=
  let c := s.chip
  fit 64 (le 8 c.now ++ le 1 (c.rd 0x2200 0x03) ++ le 1 c.power.before ++ le 2 c.pager.flushed ++ le 2 slots ++ le 2 lost ++
    le 2 (c.pager.bad.headD 0xFFFF) ++ le 2 us ++ le 2 holdup ++ le 2 vaux)

/-- CLOSING_RECORD (R637, R638): the last events, pages and FIFO records are written, then the closing record; the compute
die is held in reset. -/
def State.closingRecord (s : State) (us vaux holdup : Nat) : State :=
  let s := { s with chip := s.chip.finishPages }.drainPort
  let before := s.rcd.unwritten
  let (f, r) := Recorder.flushReach s.rcd.fifo s.rcd
  let r := { r with fifo := f }
  let r := match r.gone with
    | some x => if x.dirty then r.writeRec x else r
    | none => r
  let slots := s.rcd.downSlots + (before - r.unwritten)
  let lost := r.unwrittenRecs
  let row := s.chip.rowWord (s.chip.rowOf 0xA031 255 0)
  let x : Record :=
    { seq := r.nextSeq, optime := s.chip.rd 0x1040 0x01, tick := s.chip.clk.subSec, pcycle := s.chip.rd 0x1040 0x02,
      stime := s.chip.now, flags := s.chip.rd 0x2200 0x03 % 4 + (if r.fill > 384 && bit row 25 then 32 else 0), code := 0xA031,
      src := s.chip.power.cause, lost := min (r.pendingLost + lost) 0xFFFFFFFF, snapSet := 0, detail := [],
      snaps := [s.closingSlotBytes slots lost us vaux holdup] }
  let (a, r) := r.closingPlace
  let u := r.usedIn r.open_
  let r := if r.closing.isNone && a / 64 != r.open_ then { r.pad (r.open_ * 64 + u) (64 - u) with open_ := a / 64 } else r
  let r := { r.writeRec { r := x, at_ := a } with nextSeq := x.seq + 1, closedSeq := some x.seq }.startClosing
  let c := s.chip
  let t := c.now
  let c := c.computeReset
  let c := { c with mode := .shutdown, up := false
                    power := { c.power with cause := s.chip.power.cause, before := s.chip.power.before, closed := true
                                            dropped := s.chip.power.dropped, closeTime := some t, holdup := some holdup } }
  { s with chip := c, rcd := r.restart 0, mem := [] }

def execClosingRecord (flushUs vauxMv holdupMv : BitVec 16) (s : State) : Host.Outcome State Fault Refusal :=
  if s.chip.mode == .shutdown && s.chip.up && s.chip.power.cause != 0 then
    .next (s.closingRecord flushUs.toNat vauxMv.toNat holdupMv.toNat)
  else .next s

/-- VAUX_RETURN (R642): after the closing record, from SHUTDOWN to BOOT; a shutdown by mode request waits for a drop
(R640). -/
def execVauxReturn (belowMs : Word) : State → Host.Outcome State Fault Refusal :=
  lift (fun s =>
    if s.power.closed && s.power.dropped then
      { s with up := true, mode := .boot
               power := { s.power with closed := false, cause := 0, started := false, from_ := 6, below := some belowMs.toNat } }
    else s)

/-! ## HOLDUP (R641) -/

/-- HOLDUP_LOW: the source asserts, the dirty count is held at 0 and DIRTY pages are written back at the 1 s floor. -/
def execHoldupLow : State → Host.Outcome State Fault Refusal :=
  lift (fun s => ({ s with pager := { s.pager with hold := true } }).tripAssert 44)

def execHoldupRestored : State → Host.Outcome State Fault Refusal :=
  lift (fun s => ({ s with pager := { s.pager with hold := false } }).tripDeassert 44)

end Sys2Proof.Machine
end

