-- ==== Sys2Proof/Machine/Arb.lean ====
section
/-!
DEFINITION. Sys2Proof/Machine/Arb.lean: arbiters and bleat, fault collectors, crossings and W1C flags
(13_arbitration_crossings_resets).
-/

namespace Sys2Proof.Machine

/-! ## Arbiters (R451–R459) -/

/-- Number of an arbiter, and its number of inputs (R451). -/
def arbNo : ArbiterId → Nat
  | .lanePort b l => b.val * 5 + l.val
  | .blockShared b => 100 + b.val
  | .blockUp b => 120 + b.val
  | .regionUp r => 140 + r.val
  | .regionDown b => 150 + b.val
  | .chipTarget t => 170 + t.val
  | .chipDown r => 180 + r.val

def arbInputs : ArbiterId → Nat
  | .lanePort _ _ => 2
  | .blockShared _ => 8
  | .blockUp _ => 6
  | .regionUp _ => 5
  | .regionDown _ => 1
  | .chipTarget _ => 10
  | .chipDown _ => 3

/-- The first of `cand` at or after input `i` in input order, wrapping round (R453). -/
def roundRobin (n i cand : Nat) : Option Nat := ((List.range n).map (fun k => (i + k) % n)).find? (bit cand ·)

/-- Let an input of an arbiter bleat, or not. -/
def Chip.setBleat (s : Chip) (a : ArbiterId) (i : Nat) (v : Bool) : Chip :=
  { s with bleats := Map.write 0 s.bleats (arbNo a) (putBit (Map.read 0 s.bleats (arbNo a)) i v) }

/-- ARBITER_GRANT (R453, R454): bleating inputs win over the others, each kind in round-robin order after the last grant.
`requests` are the requesting inputs; `next` is the arbiter and input at which the granted request goes on, with its
bleat, if this is not its target. -/
def Chip.arbiterGrant (s : Chip) (a : ArbiterId) (requests : Nat) (next : Option (ArbiterId × Fin 16)) : Chip :=
  let n := arbInputs a
  let i := Map.read 0 s.arbLast (arbNo a)
  let loud := requests &&& Map.read 0 s.bleats (arbNo a)
  match (match roundRobin n i loud with | some k => some k | none => roundRobin n i requests) with
  | none => s
  | some k =>
    let was := bit (Map.read 0 s.bleats (arbNo a)) k
    let s := { s with arbLast := Map.write 0 s.arbLast (arbNo a) (k + 1) }.setBleat a k false
    match next with
    | some (b, j) => if was then s.setBleat b j true else s
    | none => s

def execArbiterGrant (a : ArbiterId) (requests : BitVec 16) (next : Option (ArbiterId × Fin 16)) :
    State → Host.Outcome State Fault Refusal := lift (·.arbiterGrant a requests.toNat next)

/-- Counter of the bleats of an origin level, 6060:06–09. -/
def bleatSub : Level → Nat
  | .lane => 0x06
  | .block => 0x07
  | .region => 0x08
  | .chip => 0x09

/-- BLEAT_RAISE (R454, R455): a request past its bound bleats; behind an occupied port its occupant bleats as well. -/
def Chip.bleatRaise (s : Chip) (a : ArbiterId) (i : Nat) (o : Level) (occ : Option (ArbiterId × Fin 16)) : Chip :=
  let s := (s.inc 32 0x6060 (bleatSub o)).setBleat a i true
  match occ with
  | some (b, j) => s.setBleat b j true
  | none => s

def execBleatRaise (a : ArbiterId) (input : Fin 16) (origin : Level) (occupant : Option (ArbiterId × Fin 16)) :
    State → Host.Outcome State Fault Refusal := lift (·.bleatRaise a input origin occupant)

/-- EMRAM_BLEAT (R458): a waiting request of classes 4 to 7 bleats, and goes before the others of these classes. -/
def Chip.emramBleat (s : Chip) (i : Nat) : Chip :=
  let louder (x : MramReq × Nat) : MramReq := if x.2 == i then { x.1 with loud := true } else x.1
  if !s.pager.reqs.zipIdx.any (fun x => x.2 == i && decide (4 ≤ x.1.cls) && !x.1.loud) then s
  else ({ s with pager := { s.pager with reqs := s.pager.reqs.zipIdx.map louder } }.inc 32 0x6060 0x0A).serveMram

def execEmramBleat (req : Nat) : State → Host.Outcome State Fault Refusal := lift (·.emramBleat req)

/-! ## Region and chip faults (R460–R463) -/

/-- Blocks and rings of a region (R14). -/
def regionBlocks (r : Nat) : List Nat := [4 * r, 4 * r + 1, 4 * r + 2, 4 * r + 3]

/-- The reset of a Tine's core ends its invocation; pages granted to the job are free (R429). -/
def Chip.resetTine (s : Chip) (t : TineId) : Chip :=
  let x := s.tine t
  (s.ungrant x.job.pages).setTine t { x with run := false, wait := none, job := { x.job with pages := [] } }

/-- The generation bits of the two sides of a crossing differ (R469). -/
def Chip.gensDiffer (s : Chip) (c : Nat) : Bool := bit (Map.read 0 s.gens c) 0 != bit (Map.read 0 s.gens c) 1

/-- Both sides of a crossing leave a reset together: the bits toggle and agree, the pulse count is 0 (R468, R469). -/
def Chip.resetSides (s : Chip) (c : Nat) : Chip :=
  { s with gens := Map.write 0 s.gens c (if bit (Map.read 0 s.gens c) 0 then 0 else 3), pulses := Map.write 0 s.pulses c 0 }

/-- The crossings of a ring's two ports are reset. -/
def Chip.resetPorts (s : Chip) (r : Nat) : Chip := (s.resetSides (7 + 2 * r)).resetSides (8 + 2 * r)

/-- Everything of a region that its reset ends: invocations, requests and frames under way, and the crossings of its ring
ports (R461, R468). -/
def Chip.resetBlock (s : Chip) (b : Nat) : Chip :=
  let s := (List.range 5).foldl (fun s l => s.resetTine (laneTine b l)) (s.resetPorts b)
  let t : TineId := .ringCtl (Fin.ofNat 16 b)
  let s := s.resetTine t
  s.setRing b { s.ring b with queue := [], txs := [], resps := [], sentA := [], sentB := [] }

/-- REGION_FAULT (R461, R462): a reset of the region; its tick is stale without being counted; the third fault in 600 s
holds the region. -/
def Chip.regionFault (s : Chip) (r cause addr : Nat) : Chip :=
  let i := 0x6064 + r
  if s.rd i 0x01 != 0 || cause == 0 || !s.up then s
  else
    let now := s.rd 0x1040 0x01
    let ts := ((Map.read [] s.regions r).filter (fun t => decide (now < t + 600))) ++ [now]
    let s := { s with regions := Map.write [] s.regions r ts
                      lock := { s.lock with stale := s.lock.stale ||| BitVec.ofNat 64 (0xFFFF * 2 ^ (16 * r)) } }
    let s := (((s.wr i 0x01 1).inc 32 i 0x02).wr i 0x03 (min 255 ts.length)).wr i 0x04 cause
    let s := s.post 0x6060 r (le 1 cause ++ le 4 addr)
    let s := (regionBlocks r).foldl Chip.resetBlock s
    if ts.length ≥ 3 then (regionBlocks r).foldl Chip.ringOut ((s.wr i 0x01 2).post 0x6062 r (le 1 (min 255 ts.length)))
    else s

def execRegionFault (r : Fin 4) (cause : Fin 4) (addr : Word) : State → Host.Outcome State Fault Refusal :=
  lift (·.regionFault r cause addr.toNat)

/-- REGION_RUNNING (R461). -/
def execRegionRunning (r : Fin 4) (us : Nat) : State → Host.Outcome State Fault Refusal :=
  lift (fun s => if s.rd (0x6064 + r.val) 0x01 == 1 then (s.wr (0x6064 + r.val) 0x01 0).post 0x6061 r (le 4 us) else s)

/-- RESTART_HELD_REGION (R462): discovery runs on the region's rings. -/
def Chip.restartRegion (s : Chip) (m : Master) (r v : Nat) : Chip :=
  s.action m 8 (fun s =>
    if v ≠ 1 then s.answer .range
    else if s.rd (0x6064 + r) 0x01 != 2 then s
    else
      let s := (s.wr (0x6064 + r) 0x01 0).post 0x6067 r (le 1 (masterCode m))
      ((regionBlocks r).filter s.configured).foldl Chip.startDiscovery s)

def execRestartHeldRegion (m : Master) (r : Fin 4) (v : Byte) : State → Host.Outcome State Fault Refusal :=
  lift (·.restartRegion m r v.toNat)

/-- CHIP_FAULT (R463): counted for the life of the part, then a controlled restart; the start carries cause 0x04. -/
def State.chipFault (s : State) (cause : Nat) : State :=
  if cause == 0 || !s.chip.up then s
  else { s with chip := (s.chip.inc 32 0x6068 0x03).wr 0x6068 0x04 cause }.controlledReset 0x6066 0 (le 1 cause)

def execChipFault (cause : Fin 4) (s : State) : Host.Outcome State Fault Refusal := .next (s.chipFault cause)

/-- ARBITER_CHECK_FAULT (R459, R460): below the chip level a region fault with cause ARB, at it a chip fault. -/
def State.arbiterFault (s : State) (a : ArbiterId) : State :=
  let region (r : Nat) : State := { s with chip := s.chip.regionFault r 1 (arbNo a) }
  match a with
  | .lanePort b _ => region (b.val / 4)
  | .blockShared b => region (b.val / 4)
  | .blockUp b => region (b.val / 4)
  | .regionUp r => region r
  | .regionDown b => region (b.val / 4)
  | .chipTarget _ => s.chipFault 2
  | .chipDown _ => s.chipFault 2

def execArbiterCheckFault (a : ArbiterId) (s : State) : Host.Outcome State Fault Refusal := .next (s.arbiterFault a)

/-- An uncorrectable error in a fast record: the element is initialised at its next fresh slot (R255, R460). -/
def Chip.fastRecordEcc (s : Chip) (g : Nat) : Chip :=
  (s.setEl g { s.el g with want := 3 }).post 0x400D (g / 1024) (le 1 (g / 16 % 64) ++ le 1 (g % 16) ++ le 1 5)

/-- UNCORRECTABLE_BLOCK_ERROR (R460): the herd table copy is reloaded at the next edge; the slots of a frame buffer count as
not arrived; `addr` is an offset in block shared SRAM (log entry 35). -/
def Chip.blockError (s : Chip) (b : Nat) (herd : Bool) (addr : Nat) : Chip :=
  if herd then
    { s.post 0x6068 b (le 4 2 ++ le 4 addr) with reload := if s.reload.contains b then s.reload else s.reload ++ [b] }
  else if addr < 0x20000 then s.fastRecordEcc (b * 1024 + addr / 128)
  else
    let up := bit (addr / 4096) 0
    let s := s.post 0x6068 b (le 4 1 ++ le 4 addr)
    (List.range (s.nOf b)).foldl (fun s p =>
      if bit (s.ring b).got.toNat p && s.isUp b p == up then
        let x : SlotRec := Map.read {} s.slotData (b * 64 + p)
        let s := { s with slotData := Map.write {} s.slotData (b * 64 + p) { x with age := max 1 x.age } }
        s.setRing b { s.ring b with got := (s.ring b).got &&& ~~~ BitVec.twoPow 64 p }
      else s) s

def execUncorrectableBlockError (block : Fin 16) (herd : Bool) (addr : Word) : State → Host.Outcome State Fault Refusal :=
  lift (·.blockError block herd addr.toNat)

/-- Reload the working herd table of a ring from the persistent copy (R134, R460). -/
def Chip.reloadHerd (s : Chip) (r : Nat) : Chip :=
  (List.range 64).foldl (fun s p =>
    let h := s.hrd (r * 64 + p)
    let s := ((s.setHT r 0 p h.serial).setHT r 1 p (h.state * 4096 + h.type * 256 + h.flags * 16)).setHT r 2 p h.epoch
    ((s.setHT r 3 p h.cumA).setHT r 4 p h.cumB).setHT r 6 p h.str) s

/-! ## Crossings (R464–R470) -/

/-- The ring port of a clock domain, ring and logical side: domains are numbered in the order of R464, port by port (log entry 56). -/
def Chip.portOfDomain (s : Chip) (d : Nat) : Option (Nat × Bool) :=
  if 7 ≤ d && d < 39 then some ((d - 7) / 2, ((d - 7) % 2 == 1) != (s.ring ((d - 7) / 2)).portx) else none

/-- The guard that serves a domain (R464): the chip guard NET and LINK, that of the ring's region RING; no other domain stops. -/
def guardOf (d : Nat) : Option GuardId :=
  if 3 ≤ d && d < 7 then some .chip
  else if 7 ≤ d && d < 39 then some (.region (Fin.ofNat 4 ((d - 7) / 8)))
  else if d == 41 then some .chip
  else none

/-- Has the clock of a domain stopped (R464): NET without a receive signal, RING without lock, LINK at die-link loss? -/
def Chip.clockStopped (s : Chip) (d : Nat) : Bool :=
  if 3 ≤ d && d < 7 then s.rd (0x2C20 + (d - 3)) 0x01 == 0
  else match s.portOfDomain d with
    | some (r, up) => !s.rdBit (0x3000 + r) 0x01 (if up then 1 else 0)
    | none => d == 41 && s.linkLost

/-- Both sides of a crossing are reset together: a ring port loses the frames of its interface (R467, R468). -/
def Chip.resetCrossing (s : Chip) (d : Nat) : Chip :=
  let s := s.resetSides d
  match s.portOfDomain d with
  | some (r, false) => s.setRing r { s.ring r with sentA := [] }
  | some (r, true) => s.setRing r { s.ring r with sentB := [] }
  | none => s

/-- GUARD_STALL_LIMIT (R467): the guard of a domain whose clock has stopped ends the access with an error: a Tine's job with cause ACCESS,
any other with HWERR. -/
def Chip.stallLimit (s : Chip) (g : GuardId) (d addr : Nat) (t : Option TineId) : Chip :=
  if guardOf d != some g || !s.clockStopped d then s
  else
  let s := (s.resetCrossing d).flag 0x6061 0x01 2
  let (n, s) := match g with
    | .region r =>
      let i := 0x6064 + r.val
      let n := s.rd i 0x06
      (n, (s.inc 32 i 0x05).wr i 0x07 (max n (s.rd i 0x07)))
    | .chip => (s.rd 0x6068 0x01, s.inc 32 0x6068 0x02)
  let s := s.post 0x6063 d (le 4 addr ++ le 4 n)
  match t with
  | some t => s.tineFault t causeAccess 0
  | none => s.answer .hwErr

def execGuardStallLimit (g : GuardId) (domain : Fin 64) (addr : Word) (tine : Option TineId) :
    State → Host.Outcome State Fault Refusal := lift (·.stallLimit g domain addr.toNat tine)

/-- Record pulses past 15, one by one. -/
def Chip.pulseOverflow (s : Chip) (c : Nat) : Nat → Chip
  | 0 => s
  | n + 1 => (((s.flag 0x6061 0x01 1).inc 32 0x6061 0x03).post 0x6065 c).pulseOverflow c n

/-- PULSE_CROSSING (R466): the handshake delivers the pulses that arrived since the last one, at most 15; a receiver whose
generation bit differs discards them (R470). -/
def Chip.pulseCrossing (s : Chip) (c n : Nat) : Chip :=
  let s := s.pulseOverflow c (n - 15)
  { s with pulses := Map.write 0 s.pulses c (if s.gensDiffer c then 0 else min n 15) }

def execPulseCrossing (c : Fin 64) (arrived : Fin 64) : State → Host.Outcome State Fault Refusal :=
  lift (·.pulseCrossing c arrived)

/-- GENERATION_MISMATCH (R470): one side has been reset alone, so its bit has toggled. -/
def execGenerationMismatch (c : Fin 64) (transfers : Nat) : State → Host.Outcome State Fault Refusal :=
  lift (fun s =>
    let g := Map.read 0 s.gens c.val
    let s := { s with gens := Map.write 0 s.gens c (if s.gensDiffer c then g else g ^^^ 2), pulses := Map.write 0 s.pulses c 0 }
    ((s.flag 0x6061 0x01 0).add 32 0x6061 0x02 transfers).post 0x6064 c (le 4 transfers))

/-- CROSSING_RESYNC (R470): both sides are reset together and their bits agree again. -/
def execCrossingResync (c : Fin 64) : State → Host.Outcome State Fault Refusal :=
  lift (fun s => if s.gensDiffer c then s.resetCrossing c else s)

/-! ## W1C flags (R8, R471, R573) -/

/-- W1C_CLEAR: `hwSet` are bits that hardware sets in the same cycle; the set wins and is counted. -/
def Chip.w1cClear (s : Chip) (m : Master) (idx sub mask hwSet : Nat) : Chip :=
  let s := match w1cOf idx sub with
    | some (_, w) =>
      let s := if m = .observer then s.answer .role
        else (s.answer .ok).wr idx sub (s.rd idx sub - (s.rd idx sub &&& mask &&& w))
      (bitsSet 16 (hwSet &&& w)).foldl (fun s b => s.flag idx sub b) s
    | none =>
      s.answer (if m = .observer then .role else if !idxExists idx then .noObj else if (entryOf idx sub).isNone then .noSub else .access)
  s

def execW1cClear (m : Master) (o : ObjRef) (mask hwSet : Word) : State → Host.Outcome State Fault Refusal :=
  lift (·.w1cClear m o.idx.toNat o.sub.toNat mask.toNat hwSet.toNat)

end Sys2Proof.Machine
end

