-- ==== Sys2Proof/Machine/Channels.lean ====
section
/-!
DEFINITION. Sys2Proof/Machine/Channels.lean: commands to the protected load channels and what happens at their pins,
supplies and segments (10_load_switch_channels R358–R386). A paralleled pair acts as one (R360).
-/

namespace Sys2Proof.Machine

/-! ## Commands (R362, R363, R374) -/

/-- CHANNEL_ON_COMMAND. -/
def Chip.channelOn (s : Chip) (m : Master) (k : Nat) : Chip :=
  s.process m (fun s =>
    let why := s.onRefusal m k
    let s := s.chanEvent k m (s.ch k).cmd 1 why
    if why ≠ 0 then
      let s := if why = 2 then s.post 0x300A k (le 8 (s.trip.asserted ||| s.trip.latched).toNat) else s
      s.answer .refused why
    else (s.chOn k).saveImage)

def execChannelOnCommand (m : Master) (k : Chan) : State → Host.Outcome State Fault Refusal := lift (·.channelOn m k)

/-- CHANNEL_OFF_COMMAND: refused only before adopt (R13, R363). -/
def Chip.channelOff (s : Chip) (m : Master) (k : Nat) : Chip :=
  s.process m (fun s =>
    let why := if s.adopt.status = 0 then 1 else 0
    let s := s.chanEvent k m (s.ch k).cmd 0 why
    if why ≠ 0 then s.answer .refused why else ((s.chOff k).mainsOpened s).saveImage)

def execChannelOffCommand (m : Master) (k : Chan) : State → Host.Outcome State Fault Refusal := lift (·.channelOff m k)

/-- One channel leaves LATCHED (R373, R374). -/
def Chip.clearLatchOne (s : Chip) (k : Nat) : Chip :=
  let c := s.ch k
  if c.state == .latched then s.setCh k { c with state := .off, cmd := false, fault := 0, causes := [] } else s

/-- CLEAR_LATCH_COMMAND. -/
def Chip.clearChannel (s : Chip) (m : Master) (k : Nat) : Chip :=
  s.process m (fun s =>
    let why := if s.adopt.status = 0 then 1 else 0
    let s := s.chanEvent k m (s.ch k).cmd 2 why
    if why ≠ 0 then s.answer .refused why else ((s.pair k).foldl Chip.clearLatchOne s).saveImage)

def execClearLatchCommand (m : Master) (k : Chan) : State → Host.Outcome State Fault Refusal := lift (·.clearChannel m k)

/-! ## IN pins (R364–R366) -/

/-- Channel `k` follows an edge of its pin to `level`: a rising one after the action has ended ends a hold-off in modes 1 and 3 (R226); warm
channels switch at the
IN-edge slew, without a ramp. -/
def Chip.inOne (s : Chip) (level cold : Bool) (k : Nat) : Chip :=
  let mode := s.rd (0x2410 + k) 0x05
  let c := s.ch k
  let c := if level && (mode == 1 || mode == 3) && !s.heldOff k then { c with hold := false } else c
  let s := s.setCh k c
  if mode == 0 then s
  else
    let before := c.state
    let s :=
      if (before == .off || before == .idle) && c.wants level mode && !cold then
        (s.setCh k { c with state := .on }).inc 32 (0x2410 + k) 0x12
      else s.follow k
    if (s.ch k).state == before then s else s.noteChange k (s.ch k).state

/-- IN_EDGE: a pair follows the pin of its lower channel. -/
def Chip.inEdge (s : Chip) (k : Nat) (level cold : Bool) : Chip :=
  let s := s.setCh k { s.ch k with inPin := level }
  if (s.pair k).any (· < k) then s else ((s.pair k).foldl (fun s j => s.inOne level cold j) s).mainsOpened s

def execInEdge (k : Chan) (level cold : Bool) : State → Host.Outcome State Fault Refusal := lift (·.inEdge k level cold)

/-! ## Turn-on (R368) -/

/-- Do `f` to both channels of a pair. -/
def Chip.both (s : Chip) (k : Nat) (f : Chip → Nat → Chip) : Chip := (s.pair k).foldl f s

/-- RAMP_END: INRUSH, or ON where the window is 0. -/
def execRampEnd (k : Chan) : State → Host.Outcome State Fault Refusal :=
  lift (·.both k (fun s j =>
    let c := s.ch j
    if c.state == .ramp && !c.dipHeld then
      s.setCh j { c with state := if c.window == 0 then ChState.on else .inrush }
    else s))

/-- INRUSH_WINDOW_END; during LIMIT the window runs on (R371). -/
def execInrushWindowEnd (k : Chan) : State → Host.Outcome State Fault Refusal :=
  lift (·.both k (fun s j =>
    let c := s.ch j
    if c.state == .inrush then s.setCh j { c with state := .on }
    else if c.state == .limit && c.from_ == .inrush then s.setCh j { c with windowOver := true } else s))

/-! ## Faults and retries (R370–R373) -/

/-- A fault of channel `k` and its partner: PAUSE for min(2^(f-1), 1,024) ms, or LATCHED beyond N with 0x5022. `cause` is the place of the
cause in R372 from 0. -/
def Chip.chFault (s : Chip) (k cause : Nat) : Chip :=
  let f := (s.ch k).fault + 1
  let latch := decide (s.rd (0x2410 + k) 0x0A < f)
  let b := s
  let s := s.both k (fun s j =>
    let c := s.ch j
    let st : ChState := if latch then .latched else .pause
    (s.setCh j { c with state := st, fault := min 255 f, causes := c.causes ++ [cause + 1], dipHeld := false,
                        handover := false, pauseMs := if latch then 0 else min (2 ^ (f - 1)) 1024 }).noteChange j st)
  let s := s.mainsOpened b
  if latch then s.post 0x5022 k (leList 1 (s.ch k).causes) else s

/-- CHANNEL_SHORT. -/
def Chip.channelShort (s : Chip) (k peak : Nat) : Chip :=
  if (s.ch k).state.conducts then
    let f := (s.ch k).fault + 1
    ((s.flag (0x2410 + k) 0x0F 2).post 0x5020 k (le 4 (min 40000 peak) ++ le 1 f)).chFault k 0
  else s

def execChannelShort (k : Chan) (peakMa : Nat) : State → Host.Outcome State Fault Refusal := lift (·.channelShort k peakMa)

/-- CURRENT_AT_LIMIT. -/
def execCurrentAtLimit (k : Chan) : State → Host.Outcome State Fault Refusal :=
  lift (·.both k (fun s j =>
    let c := s.ch j
    if c.state == .ramp || c.state == .inrush || c.state == .on then
      s.setCh j { c with state := .limit, from_ := c.state, windowOver := false }
    else s))

/-- LIMIT_RELEASE: back to the state it came from; ON where the inrush window has ended meanwhile. -/
def execLimitRelease (k : Chan) : State → Host.Outcome State Fault Refusal :=
  lift (·.both k (fun s j =>
    let c := s.ch j
    if c.state == .limit then
      s.setCh j { c with state := if c.from_ == .inrush && c.windowOver then ChState.on else c.from_ }
    else s))

/-- LIMIT_TIME_EXPIRY. -/
def Chip.limitTime (s : Chip) (k : Nat) : Chip :=
  if (s.ch k).state == .limit then
    let f := (s.ch k).fault + 1
    ((s.flag (0x2410 + k) 0x0F 3).post 0x5021 k (le 1 (s.ch k).from_.code ++ le 1 f)).chFault k 1
  else s

def execLimitTimeExpiry (k : Chan) : State → Host.Outcome State Fault Refusal := lift (·.limitTime k)

/-- CHANNEL_RAMP_TIMEOUT (R368). -/
def Chip.rampLate (s : Chip) (k : Nat) : Chip :=
  if (s.ch k).state == .ramp && !(s.ch k).dipHeld then
    ((s.flag (0x2410 + k) 0x0F 4).post 0x5026 k (le 2 (s.rd (0x2410 + k) 0x0D))).chFault k 2
  else s

def execChannelRampTimeout (k : Chan) : State → Host.Outcome State Fault Refusal := lift (·.rampLate k)

/-- A pause runs out: a ramp where the on-condition still holds, but not while the group is above 130 °C, by its last reading or since
an over-temperature (R377). -/
def Chip.restart (s : Chip) (k : Nat) : Chip :=
  let c := s.ch k
  let mode := s.rd (0x2410 + k) 0x05
  if c.state != .pause then s
  else if (s.grp (k / 4)).hot || (!(s.grp (k / 4)).fell && decide (13000 < s.rdI 16 (0x2404 + k / 4) 0x02)) then s.setCh k { c with otHeld := true }
  else
    let s := s.setCh k { c with otHeld := false, pauseMs := 0 }
    let s := if c.wants (s.pinOf k) mode then s.startRamp k else s.setCh k { s.ch k with state := c.rest mode }
    s.noteChange k (s.ch k).state

/-- PAUSE_END. -/
def execPauseEnd (k : Chan) : State → Host.Outcome State Fault Refusal := lift (·.both k Chip.restart)

/-- FAULT_COUNT_CLEAR (R373). -/
def execFaultCountClear (k : Chan) : State → Host.Outcome State Fault Refusal :=
  lift (·.both k (fun s j =>
    if (s.ch j).state == .on then s.setCh j { s.ch j with fault := 0, causes := [] } else s))

/-! ## Group supply and temperature (R375–R377) -/

def groupChans (g : Nat) : List Nat := [4 * g, 4 * g + 1, 4 * g + 2, 4 * g + 3]

/-- SUPPLY_DIP: the ramps of the group are held, but for those that resumed after 5 ms and have not seen 16.5 V since. -/
def Chip.supplyDip (s : Chip) (g : Nat) : Chip :=
  let ks := (groupChans g).filter (fun k => (s.ch k).state == .ramp && !(s.ch k).dipHeld && !(s.ch k).dipDone)
  let s := (s.flag (0x2404 + g) 0x04 0).setGrp g { s.grp g with dip := true }
  if ks.isEmpty then s else ks.foldl Chip.holdRamp (s.inc 32 (0x2404 + g) 0x03)

def execSupplyDip (g : Group) : State → Host.Outcome State Fault Refusal := lift (·.supplyDip g)

/-- DIP_RESUME: every held ramp after 50 µs at 16.5 V (`recovered`), or those held longest after their 5 ms; 0x5023 for each, with the
length of its own pause. A supply still below 16.0 V after 5 ms, by its last reading, holds them no more (R375; log entry 143). -/
def Chip.dipResume (s : Chip) (g minMv pauseUs : Nat) (recovered : Bool) : Chip :=
  if !(s.grp g).dip then s
  else
    let held := (groupChans g).filter (fun k => (s.ch k).dipHeld)
    let first := held.foldl (fun a k => min a (s.ch k).dipAt) s.aonNs
    let low := decide (s.rd (0x2404 + g) 0x01 < 16000)
    let s := s.setGrp g { s.grp g with dip := !recovered }
    (groupChans g).foldl (fun s k =>
      let c := s.ch k
      if c.dipHeld && (recovered || c.dipAt == first) then
        (s.setCh k { c with dipHeld := false, dipDone := !recovered && low }).post 0x5023 k
          (le 2 (min 65535 minMv) ++ le 4 (pauseUs - (c.dipAt - first) / 1000))
      else s.setCh k { c with dipDone := !recovered && c.dipDone }) s

def execDipResume (g : Group) (minMv pauseUs : Nat) (recovered : Bool) : State → Host.Outcome State Fault Refusal :=
  lift (·.dipResume g minMv pauseUs recovered)

/-- GROUP_UVLO: conducting channels turn off, every command of the group is cleared, no fault is counted. -/
def Chip.groupUvlo (s : Chip) (g : Nat) : Chip :=
  let off := (groupChans g).filter (fun k => (s.ch k).state.conducts)
  let s := s.flag (0x2404 + g) 0x04 1
  let b := s
  let s := (groupChans g).foldl (fun s k =>
    let was := (s.ch k).state
    let c := { s.ch k with cmd := false, hold := true, dipHeld := false, handover := false }
    let st := if was.conducts || was == .idle then c.rest (s.rd (0x2410 + k) 0x05) else was
    let s := s.setCh k { c with state := st }
    if st == was then s else s.noteChange k st) s
  (s.mainsOpened b).post 0x502B g (leList 1 off)

def execGroupUvlo (g : Group) : State → Host.Outcome State Fault Refusal := lift (·.groupUvlo g)

/-- An over-temperature ends what channel `k` has under way: OTABORT for a ramp, an inrush window or a limit, 0x5024 for a ramp. -/
def Chip.rampAborted (s : Chip) (k : Nat) : Chip :=
  let st := (s.ch k).state
  let s := if st == .ramp || st == .inrush || st == .limit then s.flag (0x2410 + k) 0x0F 5 else s
  if st == .ramp then s.post 0x5024 k (le 2 (s.rd (0x2410 + k) 0x0D)) else s

/-- GROUP_OVERTEMP: above 150 °C ramps, inrush windows and limits end with a fault; above 160 °C everything that
conducts. OTABORT is set where a ramp, its window or a limit was ended. -/
def Chip.groupOvertemp (s : Chip) (g : Nat) (over160 : Bool) : Chip :=
  let short (st : ChState) : Bool := st == .ramp || st == .inrush || st == .limit
  let hit (st : ChState) : Bool := short st || (over160 && st == .on)
  let ks := (groupChans g).filter (fun k => hit (s.ch k).state)
  let s := s.flag (0x2404 + g) 0x04 2
  let s := if over160 then s.flag (0x2404 + g) 0x04 3 else s
  let s := s.setGrp g { s.grp g with hot := true, fell := false }
  let s := s.post 0x5025 g (le 4 (if over160 then 160 else 150) ++ leList 1 ks)
  ks.foldl (fun s k =>
    let c := s.ch k
    if !hit c.state then s
    else
      let s := (s.pair k).foldl (fun s j => s.rampAborted j) s
      s.chFault k 3) s

def execGroupOvertemp (g : Group) (over160 : Bool) : State → Host.Outcome State Fault Refusal := lift (·.groupOvertemp g over160)

/-- OVERTEMP_FALL: pauses that have run out meanwhile end. -/
def Chip.overtempFall (s : Chip) (g : Nat) : Chip :=
  let s := s.setGrp g { s.grp g with hot := false, fell := true }
  (groupChans g).foldl (fun s k => if (s.ch k).otHeld then s.restart k else s) s

def execOvertempFall (g : Group) : State → Host.Outcome State Fault Refusal := lift (·.overtempFall g)

/-! ## Off-state diagnostics (R379) -/

def ChState.offState : ChState → Bool
  | .off | .idle | .pause | .latched => true
  | _ => false

/-- The level of the IS output of channel `k` (R367): 0 V, its current, or the fault level. The fault level of an output driven from outside
stands while VAUXSHORT is set and the channel is off (R379; log entry 143). OPENLOAD does not change it. -/
def Chip.isOutput (s : Chip) (k : Nat) : IsLevel :=
  match (s.ch k).state with
  | .off | .idle => if s.rdBit (0x2410 + k) 0x0F 9 then .fault else .zero
  | .ramp | .inrush | .on | .limit => .current
  | .pause | .latched | .tripped => .fault

/-- VAUX_SHORT_DETECT. -/
def execVauxShortDetect (k : Chan) : State → Host.Outcome State Fault Refusal :=
  lift (fun s => if (s.ch k).state.offState then
      (s.flag (0x2410 + k) 0x0F 9).post 0x5028 k (le 2 (s.rd (0x2410 + k) 0x0D))
    else s)

/-- OPEN_LOAD_DETECT: only ON shows OPENLOAD. -/
def execOpenLoadDetect (k : Chan) : State → Host.Outcome State Fault Refusal :=
  lift (fun s => if (s.ch k).state == .on then (s.wrBit (0x2410 + k) 0x0F 8 true).post 0x5027 k else s)

/-! ## The spare segment (R380, R443, R448) -/

/-- SEGMENT_SWAP: a swap that has been decided, at the first tick edge at which the state allows it. -/
def Chip.segmentSwap (s : Chip) (k : Nat) : Chip :=
  let c := s.ch k
  let now := c.state == .off || c.state == .idle || c.state == .latched
  if !c.swapWait || c.spare || !(now || c.state == .on) then s
  else
    let ratio := 1000 * s.rd (0x2410 + k) 0x11 / max 1 (Config.fetRef k)
    let s := s.setCh k { c with swapWait := false, spare := true, handover := !now, fetRun := 0 }
    let s := ((s.flag (0x2410 + k) 0x0F 7).countSwap).post 0xB004 k (le 4 ratio)
    s.exhaust 4 ((List.range 16).filter (fun j => !(s.ch j).spare)).length

def execSegmentSwap (k : Chan) : State → Host.Outcome State Fault Refusal := lift (·.segmentSwap k)

/-- SEGMENT_HANDOVER_END: the main segment turns off after 1 ms. -/
def execSegmentHandoverEnd (k : Chan) : State → Host.Outcome State Fault Refusal :=
  lift (fun s => s.setCh k { s.ch k with handover := false })

end Sys2Proof.Machine
end

