-- ==== Sys2Proof/Machine/Identity.lean ====
section
/-!
DEFINITION. Sys2Proof/Machine/Identity.lean: module identity (08_learning R302–R312).
-/

namespace Sys2Proof.Machine

/-- Section time is unlocked: quality code UNLOCKED (R30, R504). -/
def Chip.timeUnlocked (s : Chip) : Bool := s.rd 0x2200 0x03 == 0

/-- The present day since 2000-01-01, in the TAI days of section time (log entry 49). -/
def Chip.day2000 (s : Chip) : Int := (s.now / 1000000000 : Nat) / 86400 - 10957

/-- Does a certificate of the compact form carry a signature of `key` over its bytes 0–55? -/
def certSigned (key cert : List Byte) : Bool := Config.ecdsaVerify key (Config.sha256 (cert.take 56)) (cert.drop 56)

/-- Revocation and day of a certificate (R306); days are not checked while time is unlocked. -/
def Chip.certCurrent (s : Chip) (cert : List Byte) : Bool :=
  let revoked := s.rdDom 0x2900 0x25
  let gone := (List.range (revoked.length / 8)).any (fun i => (revoked.drop (8 * i)).take 8 == cert.take 8)
  let day := s.day2000
  !gone && (s.timeUnlocked || (decide ((beAt cert 45 2 : Int) ≤ day) && decide (day ≤ (beAt cert 47 2 : Int))))

/-- The certificate is valid (R306): issuer, revocation and day. -/
def Chip.certValid (s : Chip) (cert : List Byte) : Bool :=
  let site := s.rdDom 0x2900 0x20
  let inter := ((List.range 4).map (fun i => s.rdDom 0x2900 (0x21 + i))).filter (fun c => c.length == 120 && certSigned site c)
  cert.length == 120 && (certSigned site cert || inter.any (fun c => certSigned ((c.drop 8).take 33) cert)) && s.certCurrent cert

/-- The module tag's signature over nonce, slice serial, tag serial, ring and position (R305). -/
def Chip.tagSigOk (s : Chip) (r p : Nat) (x : IdentObs) : Bool :=
  let sl := s.slice (r * 64 + p)
  let msg := fit 32 sl.tag.nonce ++ be 8 sl.serial.toNat ++ be 8 x.tag ++ be 1 r ++ be 1 p
  beAt x.cert 0 8 == x.tag && Config.ecdsaVerify ((x.cert.drop 8).take 33) (Config.sha256 msg) x.sig

/-- Thermistor signature: di = Ri / mean(R) − 1, 0.01 % (R304). -/
def thermSig (rs : List Nat) : List Int :=
  let sum := rs.foldl (· + ·) 0
  (List.range 4).map (fun i => if sum = 0 then 0 else divNear (40000 * (rs.getD i 0 : Int)) sum - 10000)

/-- The thermistor signature may be taken: the string is CHECKING or RESTED and the slice's TUSED values agree. -/
def Chip.thermTakeable (s : Chip) (r p : Nat) : Bool :=
  match s.stringOf r p with
  | none => false
  | some n =>
    let ts := ((List.range 16).map (fun e => s.fastRec (r * 1024 + p * 16 + e))).filter (· != []) |>.map (fun b => toInt 16 (leAt b 22 2))
    decide (2 ≤ s.rd (0x2920 + n) 0x01) && !ts.isEmpty &&
    decide (ts.foldl max (ts.headD 0) - ts.foldl min (ts.headD 0) ≤ (s.rd 0x2900 0x06 : Int))

/-- The signature a check has seen, as the eight bytes of THSIG or IDCODE: identity pin, or the four thermistor figures. -/
def sigCode (x : IdentObs) (therm : Bool) : List Byte :=
  if therm then (thermSig x.thraw).flatMap (fun d => le 2 (ofInt 16 d)) else le 8 (bits x.idpin 15 0)

/-- Does a signature match a stored one (R303, R304)? An open pin never does. -/
def Chip.sigMatches (s : Chip) (r : Nat) (x : IdentObs) (therm : Bool) (stored : List Byte) : Bool :=
  let tol := s.rd (0x2960 + r) 0x03
  if therm then (List.range 4).all (fun i =>
    decide (((thermSig x.thraw).getD i 0 - toInt 16 (leAt stored (2 * i) 2)).natAbs ≤ tol))
  else bit x.idpin 16 && bits x.idpin 15 0 != 0xFFFF &&
    decide (((bits x.idpin 15 0 : Int) - (leAt stored 0 8 : Int)).natAbs * 10000 ≤ tol * leAt stored 0 8)

/-- Does a slow record hold the identity that was seen? -/
def Chip.idMatches (s : Chip) (r : Nat) (x : IdentObs) (auth therm : Bool) (b : List Byte) : Bool :=
  if auth then bit (leAt b 936 1) 1 && leAt b 896 8 == x.tag
  else bit (leAt b 936 1) 0 && s.sigMatches r x therm ((b.drop 896).take 8)

/-- Does a record carry no identity because a CRC error has made it new (R301)? -/
def idBlank (b : List Byte) : Bool := bit (leAt b 6 2) 10 && leAt b 936 1 == 0

/-- Write the identity into a record (R299, R302): code, fingerprint, method, state, signature and time. -/
def idWrite (x : IdentObs) (auth sig therm : Bool) (st now : Nat) (b : List Byte) : List Byte :=
  let b := splice b 896 (if auth then le 8 x.tag else sigCode x therm)
  let b := splice b 904 (if x.cert.length == 120 && auth then fit 32 (Config.sha256 x.cert) else zeros 32)
  let b := splice b 936 (le 1 ((if sig then 1 else 0) + (if auth then 2 else 0)) ++ le 1 st)
  let b := if sig then splice b 938 (sigCode x therm) else b
  splice b 946 (le 4 now)

/-- A check that has found the stored identity leaves it as it stands (R308), with the state, the methods that have verified it and the
time; a record without one takes it from `ref`, the identity of the module's other records (R301). `changed`: the signature is a new
one. -/
def idKeep (x : IdentObs) (ref : List Byte) (auth sig therm changed : Bool) (now : Nat) (b : List Byte) : List Byte :=
  let b := if idBlank b then splice b 896 ((ref.drop 896).take 50) else b
  let m := leAt b 936 1 ||| ((if sig then 1 else 0) + (if auth then 2 else 0))
  let b := splice b 936 (le 1 m ++ le 1 2)
  splice (if changed then splice b 938 (sigCode x therm) else b) 946 (le 4 now)

/-- The 16 elements of a position. -/
def posElems (r p : Nat) : List Nat := (List.range 16).map (fun e => r * 1024 + p * 16 + e)

/-- Show IDSTATE: bit 7 says that validity dates were not checked (log entry 49). -/
def Chip.setIdState (s : Chip) (r p st : Nat) (auth : Bool) : Chip :=
  (s.wr (0x2960 + r) (0x41 + p) (st + (if auth && s.timeUnlocked && st != 5 then 128 else 0))).showLearning

/-- A failed check (R308): a fawn becomes REJECTED. -/
def Chip.idFailed (s : Chip) (r p cause : Nat) : Chip :=
  let s := (posElems r p).foldl (fun s g => s.updSlow g (fun b => splice b 937 (le 1 5))) s
  let s := (s.setIdState r p 5 true).post 0x401A r (le 1 p ++ le 1 cause)
  if (s.ring r).fawns.contains p then s.rejectFawn r p 3 else s

/-- A VACANT position of the device whose records hold this identity; never the position the slice itself is leaving. -/
def Chip.vacantMatch (s : Chip) (r p : Nat) (x : IdentObs) (auth therm : Bool) : Option (Nat × Nat) :=
  ((List.range 1024).find? (fun k =>
    let (r', p') := (k / 64, k % 64)
    s.herdState r' p' == 3 && !(r' == r && p' == p) && !(r' == r && s.hT r' 0 p' == s.hT r 0 p) &&
    s.idMatches r x auth therm (s.slowRec (r' * 1024 + p' * 16)))).map (fun k => (k / 64, k % 64))

/-- The log entry of a rest point verified in this tick: it belongs to the identity that a check of the tick establishes (R311). -/
def Chip.tickEntry (s : Chip) (g : Nat) : Option (List Byte) :=
  let b := s.slowRec g
  if (s.el g).logged == s.ticks + 1 then (rpNewest b).map (rpAt b) else none

/-- Log an entry in a record. -/
def withEntry (x : Option (List Byte)) (b : List Byte) : List Byte :=
  match x with
  | some e => splice b (768 + 16 * rpPlace b) e
  | none => b

/-- Adoption (R312): the records move, and the vacancy hold of the position they leave ends. -/
def Chip.adoptRecords (s : Chip) (r p r' p' : Nat) : Chip :=
  let s := (List.range 16).foldl (fun s e =>
    let src := r' * 1024 + p' * 16 + e
    let b := s.slowRec src
    let g := r * 1024 + p * 16 + e
    let s := s.updSlow g (fun _ => withEntry (s.tickEntry g) (setSFlag b 9 true))
    s.updSlow src (fun _ => newSlow (s.qnomOf src) 0)) s
  let s := (posElems r p).foldl (fun s g => s.setEl g { s.el g with want := 1 }) s
  (s.showEol.setRing r' { s.ring r' with hold := Map.erase p' (s.ring r').hold }).post 0x4019 r (le 1 r' ++ le 1 p' ++ le 1 r ++ le 1 p)

/-- A new module (R308, R309): records reset with IDNEW and elements initialised again by OCV; a rest point of this tick is its own
(R311). -/
def Chip.newModule (s : Chip) (r p : Nat) (new : List Byte) : Chip :=
  let old := ((s.slowRec (r * 1024 + p * 16)).drop 896).take 8
  let s := (posElems r p).foldl (fun s g =>
    let s := s.updSlow g (fun _ => withEntry (s.tickEntry g) (newSlow (s.qnomOf g) 256))
    s.setEl g { s.el g with want := 4 }) s
  s.showEol.post 0x4018 r (le 1 p ++ fit 8 old ++ fit 8 new)

/-- IDENTITY_CHECK: the first row of the table of R308 that applies. Nothing is checked where no method is selected. The stored identity
is that of the position's records but for those that a CRC error has made new, which take it again (R301). -/
def Chip.identityCheck (s : Chip) (r p : Nat) (x : IdentObs) : Chip :=
  let m := s.rd (0x2960 + r) 0x01
  let (sig, auth) := (bit m 0, bit m 1)
  let therm := s.rd (0x2960 + r) 0x02 == 1
  if m == 0 || s.herdType r p != 1 || !(s.herdState r p == 1 || s.herdState r p == 2) then s
  else if auth && !x.answered then s.idFailed r p 3
  else if auth && !s.certValid x.cert then s.idFailed r p 1
  else if auth && !s.tagSigOk r p x then s.idFailed r p 2
  else
    let takeable := sig && (!therm || s.thermTakeable r p)
    if sig && !auth && !takeable then
      let s := if (s.ring r).fawns.contains p then (posElems r p).foldl (fun s g => s.setEl g { s.el g with want := 4 }) s else s
      s.setIdState r p 1 false
    else
      let now := s.optime
      let put (s : Chip) (st : Nat) : Chip :=
        ((posElems r p).foldl (fun s g => s.updSlow g (idWrite x auth (takeable) therm st now)) s).setIdState r p st auth
      match ((posElems r p).map s.slowRec).find? (fun b => !idBlank b) with
      | none => put s 2
      | some b =>
        if s.idMatches r x auth therm b then
          let changed := auth && takeable && !s.sigMatches r x therm ((b.drop 938).take 8)
          let s := ((posElems r p).foldl (fun s g => s.updSlow g (idKeep x b auth takeable therm changed now)) s).setIdState r p 2 auth
          if changed then s.post 0x401B r (le 1 p) else s
        else match s.vacantMatch r p x auth therm with
          | some (r', p') => put (s.adoptRecords r p r' p') 4
          | none => put (s.newModule r p (if auth then le 8 x.tag else sigCode x therm)) 3

def execIdentityCheck (r : RingNo) (p : Pos) (x : IdentObs) : State → Host.Outcome State Fault Refusal :=
  lift (·.identityCheck r p x)

end Sys2Proof.Machine
end

