-- ==== Sys2Proof/Machine/Ripple.lean ====
section
/-!
DEFINITION. Sys2Proof/Machine/Ripple.lean: impedance from converter ripple (08_learning R291–R294). Sine and cosine are
formed in fixed point with 48 fraction bits, the fit in exact integers, and the phasors are rounded once to binary32 (log
entry 50).
-/

namespace Sys2Proof.Machine

/-! ## Sine and cosine -/

def fx : Nat := 281474976710656
/-- π / 2 with 48 fraction bits. -/
def fxHalfPi : Nat := 442139859501778

/-- The series of cosine and sine from one term on: `t` is the term x^k / k!. -/
def trigSeries (x : Int) : Nat → Nat → Int → Int → Int → Int × Int
  | 0, _, _, c, s => (c, s)
  | n + 1, k, t, c, s =>
    let t' := t * x / (fx : Int) / ((k : Int) + 1)
    let (c, s) := match k % 4 with
      | 0 => (c + t, s)
      | 1 => (c, s + t)
      | 2 => (c - t, s)
      | _ => (c, s - t)
    trigSeries x n (k + 1) t' c s

/-- Cosine and sine of `num / den` turns, with 48 fraction bits. -/
def turn (num : Int) (den : Nat) : Int × Int :=
  let m := (num % (den : Int)).toNat
  let q := 4 * m / den
  let (c, s) := trigSeries ((fxHalfPi * (4 * m % den) / den : Nat) : Int) 22 0 fx 0 0
  match q with
  | 0 => (c, s)
  | 1 => (-s, c)
  | 2 => (-c, -s)
  | _ => (s, -c)

/-! ## The fit of one burst -/

def isum (xs : List Int) : Int := xs.foldl (· + ·) 0

def det3 (a b c d e f g h i : Int) : Int := a * (e * i - f * h) - b * (d * i - f * g) + c * (d * h - e * g)

/-- Least squares of y = a + c·cos ωt + d·sin ωt: c and d as fractions over the determinant; none where it is singular.
Each sample is its cosine, sine and value. -/
def rippleFit (xs : List (Int × Int × Int)) : Option (Int × Int × Nat) :=
  let n : Int := xs.length * (fx : Int) * fx
  let sc := isum (xs.map (fun x => (fx : Int) * x.1))
  let ss := isum (xs.map (fun x => (fx : Int) * x.2.1))
  let cc := isum (xs.map (fun x => x.1 * x.1))
  let cs := isum (xs.map (fun x => x.1 * x.2.1))
  let s2 := isum (xs.map (fun x => x.2.1 * x.2.1))
  let y0 := isum (xs.map (fun x => (fx : Int) * x.2.2))
  let yc := isum (xs.map (fun x => x.1 * x.2.2))
  let ys := isum (xs.map (fun x => x.2.1 * x.2.2))
  let d := det3 n sc ss sc cc cs ss cs s2
  if d ≤ 0 then none
  else some (det3 n y0 ss sc yc cs ss ys s2 * fx, det3 n sc y0 sc cc yc ss cs ys * fx, d.toNat)

/-- A burst slot's samples, of 16 bits each, with the sign of a current. -/
def burstVals (b : List Byte) (signed_ : Bool) : List Int :=
  (List.range (min 16 (beAt b 34 1))).map (fun i => if signed_ then toInt 16 (beAt b (2 * i) 2) else (beAt b (2 * i) 2 : Int))

/-- A burst is used: at least 4 samples, no INJ. -/
def burstOk (b : List Byte) : Bool := b.length == 44 && decide (4 ≤ beAt b 34 1) && !bit (beAt b 40 4) 18

/-- Phasor of a burst at `f` mHz over the offsets, 100 ns each, in units of 1 / `per`. -/
def phasor (f : Nat) (offs : List Nat) (ys : List Int) (per : Nat) : Option (F32 × F32) :=
  let xs := (offs.zip ys).map (fun p => let (c, s) := turn ((f * p.1 : Nat) : Int) 10000000000; (c, s, p.2))
  (rippleFit xs).map (fun r => (f32OfFrac r.1 (r.2.2 * per), f32Neg (f32OfFrac r.2.1 (r.2.2 * per))))

/-- Burst offsets of the half of position `p` (R181). -/
def Chip.halfOffsets (s : Chip) (r p : Nat) : List Nat :=
  let m := 0x3010 + r
  let h := halfIdx p
  (List.range (s.rd m (0x03 + h))).map (fun i => s.rd m (0x05 + 16 * h + i))

/-! ## One point (R294) -/

/-- Clear a point's accumulators and count. -/
def zClear (b : List Byte) (i : Nat) : List Byte := splice (splice b (332 + 2 * i) (le 2 0)) (512 + 16 * i) (zeros 16)

/-- A point whose count is reached: Z and γ² are stored where coherence and current suffice; the sums are cleared. The
mean |I| is taken as √(S_ii / n) (log entry 50). -/
def Chip.zStore (s : Chip) (b : List Byte) (i f : Nat) : List Byte :=
  let at_ (k : Nat) : F32 := recF b (512 + 16 * i + 4 * k)
  let n := leAt b (332 + 2 * i) 2
  let (vr, vi, ii, vv) := (at_ 0, at_ 1, at_ 2, at_ 3)
  let g2 := fDiv (fAdd (fMul vr vr) (fMul vi vi)) (fMul ii vv)
  let mean := fSqrt (fDiv ii (fInt (n : Int)))
  let ok := f32Le (s.profF 0x2900 0x11 255) g2 && f32Le (s.profF 0x2900 0x13 1000) mean
  let b := if ok then
      let z := 384 + 16 * i
      let cnt := min 255 (leAt b (z + 13) 1 + 1)
      setSFlag (splice b z (le 4 f ++ realB (fDiv vr ii) ++ realB (fDiv vi ii) ++
        le 1 (fRound (fMul g2 (fInt 255)) 0 255).toNat ++ le 1 cnt ++ le 2 (s.optime / dayS))) 4 true
    else b
  zClear b i

/-- Accumulate one point: S_vi += V·conj(I), S_ii += |I|², S_vv += |V|². -/
def Chip.zAdd (s : Chip) (b : List Byte) (i f : Nat) (v c : F32 × F32) : List Byte :=
  let at_ (k : Nat) : F32 := recF b (512 + 16 * i + 4 * k)
  let re := fAdd (fMul v.1 c.1) (fMul v.2 c.2)
  let im := fSub (fMul v.2 c.1) (fMul v.1 c.2)
  let b := splice b (512 + 16 * i) (realB (fAdd (at_ 0) re) ++ realB (fAdd (at_ 1) im) ++
    realB (fAdd (at_ 2) (fAdd (fMul c.1 c.1) (fMul c.2 c.2))) ++ realB (fAdd (at_ 3) (fAdd (fMul v.1 v.1) (fMul v.2 v.2))))
  let b := splice b (332 + 2 * i) (le 2 (leAt b (332 + 2 * i) 2 + 1))
  if leAt b (332 + 2 * i) 2 ≥ s.rd 0x2900 0x12 then s.zStore b i f else b

/-- Is an element eligible (R291): it and its string's current are privileged, with equal offset lists? -/
def Chip.rippleEligible (s : Chip) (r p e h : Nat) : Bool :=
  (s.privOf r p).contains e && (s.privOf r h).contains 0 && s.halfOffsets r p == s.halfOffsets r h

/-- IMPEDANCE_JOB: the bursts of the previous tick, which arrived with this tick's SWEEP (R110). -/
def Chip.impedanceJob (s : Chip) (g : Nat) : Chip :=
  let (r, p, e) := (g / 1024, g / 16 % 64, g % 16)
  match s.strOf g with
  | none => s
  | some n =>
    match s.headOf n with
    | none => s
    | some (_, h) =>
      s.slowJob g (fun s =>
        let bv := Map.read [] s.burstData ((r * 64 + p) * 16 + e)
        let bi := Map.read [] s.burstData ((r * 64 + h) * 16)
        if !s.rippleEligible r p e h || !burstOk bv || !burstOk bi then s
        else
          let offs := s.halfOffsets r p
          -- 10, 20, 50 or 100 mA per LSB (BSCALE)
          let per := [100, 50, 20, 10].getD ((s.slice (r * 64 + h)).effReg 0x0C % 4) 100
          let tau := s.rdI 16 (0x2920 + n) 0x12
          let fs := s.rdDom (0x2920 + n) 0x13
          let b := (List.range 8).foldl (fun b i =>
            let f := leAt fs (4 * i) 4
            if f = 0 then b
            else match phasor f offs (burstVals bv false) 10000, phasor f offs (burstVals bi true) per with
              | some v, some c =>
                let (ct, st) := turn ((f : Int) * tau) 1000000000000
                let (ct, st) := (f32OfFrac ct fx, f32OfFrac st fx)
                let c := (fSub (fMul c.1 ct) (fMul c.2 st), fAdd (fMul c.1 st) (fMul c.2 ct))
                s.zAdd b i f v c
              | _, _ => b) (s.slowRec g)
          if b == s.slowRec g then s else s.writeSlow g b)

def execImpedanceJob (e : ElemNo) : State → Host.Outcome State Fault Refusal := lift (·.impedanceJob e)

end Sys2Proof.Machine
end

