-- ==== Sys2Proof/Machine/Switching.lean ====
section
/-!
DEFINITION. Sys2Proof/Machine/Switching.lean: balancing, the protection program's conditions, the supervisor policy,
string commands, and the ends of the steps of closing, opening and pre-charge (09_limits R325–R355).
-/

namespace Sys2Proof.Machine

/-! ## Balancing (R325–R327) -/

/-- Duties of one slice from the reference: deadband and band, budget, then temperature, each rounded down but the first. A
slice without a valid temperature drains nothing (log entry 51). -/
def Chip.sliceDuties (s : Chip) (r p ref : Nat) : List Nat :=
  let gs := (List.range 16).map (fun e => r * 1024 + p * 16 + e)
  let db := s.rd 0x2700 0x02 * 5
  let band := s.rd 0x2700 0x03 * 5
  let ds := gs.map (fun g =>
    let d := leAt (s.fastRec g) 6 2 - ref
    if !s.balEligible g || d ≤ db then 0
    else if band = 0 then s.rd 0x2700 0x04
    else min (s.rd 0x2700 0x04) ((2 * 255 * (d - db) + band) / (2 * band)))
  let sum := ds.foldl (· + ·) 0
  let budget := s.rd 0x2700 0x07
  let ds := if sum > budget then ds.map (fun d => d * budget / sum) else ds
  let ts := slotTemps (s.slotAt r p)
  let hot := ts.foldl max (ts.headD 32767)
  let (t1, t2) := (s.rdI 16 0x2700 0x08, s.rdI 16 0x2700 0x09)
  if hot ≤ t1 then ds
  else if t2 ≤ hot then ds.map (fun _ => 0)
  else ds.map (fun d => (Int.ofNat d * (t2 - hot) / (t2 - t1)).toNat)

/-- The update of one string in the slow tier of the tick after the exchange (R326). -/
def Chip.balanceString (s : Chip) (n : Nat) : Chip :=
  let i := 0x2720 + n
  let cause := s.balCause n
  if (s.headOf n).isNone then s
  else if s.rd 0x2700 0x01 == 0 then s.balanceOff n
  else if s.ticks % max 1 (s.rd 0x2700 0x06) != 1 then s
  else if cause ≠ 0 then s.balanceStop n cause (if cause = 3 then (s.es n).balShed + 1 else 0)
  else match (s.es n).balMin with
    | none => s.balanceStop n 1 0
    | some ref =>
      let was := (s.es n).balStop
      let s := s.setEs n { s.es n with balStop := 0, balShed := 0 }
      let s := (s.ksOf n).foldl (fun s x =>
        ((s.sliceDuties x.1 x.2 ref).zipIdx).foldl (fun s d => s.putDuty (x.1 * 1024 + x.2 * 16 + d.2) d.1) s) s
      let cnt := ((s.elemsOf n).filter (fun g => Map.read 0 s.duty g != 0)).length
      let s := ((s.wr i 0x01 ref).wr i 0x02 cnt).wr i 0x04 1
      if was ≠ 0 then s.post 0x4023 n else s

/-- BALANCING_UPDATE (R326). -/
def execBalancingUpdate : State → Host.Outcome State Fault Refusal := lift (fun s => (List.range 32).foldl Chip.balanceString s)

/-! ## Orderly disconnects (R329, R335, R355) -/

/-- An orderly disconnect of a string: its closing ends; a string welded in both paths takes the section with it; one in an
emergency is not acted on (R329). -/
def Chip.orderlyString (s : Chip) (n : Nat) : Chip :=
  let x := s.st n
  if x.weldBoth then s.orderRamp [] true
  else if x.emergency || x.sw == .opening || x.sw == .ramping then s
  else if x.sw == .closed then s.orderRamp [n] false
  else if x.sw == .testing || x.sw == .closing then
    -- an opening wins over the closing in progress: its coils are released and the sequence goes on
    ((s.releaseCoils n 3).dropString n).goAhead
  else s.setSt n { x with wait := false, sw := if x.sw == .held then SwState.open else x.sw }

/-! ## Protection conditions and their emergencies (R331–R333) -/

/-- PROTECTION_CONDITION: a condition that has held for its persistence count begins to act, with 0x3010. -/
def Chip.protection (s : Chip) (n cond e : Nat) : Chip :=
  let g := if cond = 6 then n else e
  let key := cond * 16384 + g
  if Map.read 0 s.acting key == 1 || decide (Map.read 0 s.prot key < s.protNeed n cond) || (cond != 6 && s.strOf e != some n) then s
  else
    let s := { s with acting := Map.write 0 s.acting key 1 }
    let v := (s.protValue n cond g).getD 0
    let s := s.post 0x3010 n (le 1 cond ++ le 2 e ++ le 4 (ofInt 32 (if cond = 5 then v / 10 else v)))
    if cond = 4 || cond = 5 then s.emergency n cond 1 else s.orderlyString n

def execProtectionCondition (n : StringNo) (cond : Fin 6) (e : ElemNo) : State → Host.Outcome State Fault Refusal :=
  lift (·.protection n (cond + 1) e)

/-- EMERGENCY_UNCONFIRMED (R333): unless the KH2 shows both coils off and the current below 2500:14. -/
def Chip.emergencyUnconfirmed (s : Chip) (n : Nat) : Chip :=
  let w := s.contactor n
  let off := s.headSlot n != [] && bits w 5 4 == 0 && decide ((s.strI n).natAbs < s.rd 0x2500 0x14)
  if !(s.st n).emergency || off then s
  else
    let s := s.post 0x3013 n (le 4 (bits w 5 4) ++ le 4 (ofInt 32 (s.strI n)))
    (s.post 0x3012 n (le 1 9 ++ le 1 6)).sectionEmergency

def execEmergencyUnconfirmed (n : StringNo) : State → Host.Outcome State Fault Refusal := lift (·.emergencyUnconfirmed n)

/-! ## The supervisor policy (R334) -/

/-- A policy condition as it begins: recorded once with its action, and acted on by `f`. -/
def Chip.policy (s : Chip) (cond src action : Nat) (holds : Bool) (f : Chip → Chip) : Chip :=
  let key := (16 + cond) * 16384 + src
  if !holds then { s with acting := Map.write 0 s.acting key 0 }
  else if Map.read 0 s.acting key == 1 then s
  else f ({ s with acting := Map.write 0 s.acting key 1 }.post 0x3012 src (le 1 cond ++ le 1 action))

/-- The conditions of one string. -/
def Chip.policyString (s : Chip) (n : Nat) : Chip :=
  if (s.headOf n).isNone then s
  else
    let es := s.es n
    let dis := match es.disAt with | some t => decide (s.rd 0x2560 0x04 * 3600 ≤ s.optime - t) | none => false
    let unref := s.rdBit (0x2920 + n) 0x0C 1
    let kd := if dis then s.rd 0x2560 0x03 else 100
    let ku := if unref then s.rd 0x2560 0x07 else 100
    let s := s.policy 3 n 2 dis id
    let s := s.policy 6 n 2 (unref && ku < 100) id
    let s := s.setSt n { s.st n with derate := min kd ku }
    let s := s.policy 5 n 3 (decide (s.rd 0x2560 0x06 < es.drift)) (·.orderlyString n)
    let s := s.policy 4 n 1 (decide (s.rd 0x2560 0x05 < es.drift)) id
    s.policy 8 n 3 (s.isShut n && s.headSlot n != [] && bits (s.contactor n) 3 2 != 0) (·.orderlyString n)

/-- POLICY_EVALUATION. -/
def Chip.policyEvaluation (s : Chip) : Chip :=
  let held (i : Nat) : Bool := s.trip.asserted.getLsbD i &&
    decide (s.rd 0x2560 0x02 * 1000000000 ≤ s.aonNs - Map.read s.aonNs s.trip.since i)
  let warnOnly := s.rd 0x2560 0x01 == 0
  let s := s.policy 1 0xFF (if warnOnly then 1 else 4) (held 32 || held 33)
    (fun s => if warnOnly then s else s.orderRamp [] true)
  let warn := (List.range 2).any (fun b => decide (s.rd 0x3300 (0x30 + b) < s.rd 0x3300 (0x32 + b)))
  let s := s.policy 2 0xFF 1 warn id
  let s := s.policy 7 0xFF 1 (s.rdBit 0x2900 0x01 3) id
  (List.range 32).foldl Chip.policyString s

def execPolicyEvaluation : State → Host.Outcome State Fault Refusal := lift Chip.policyEvaluation

/-! ## Ramps (R336, R337) -/

/-- RAMP_COMPLETE: the section current in use and the currents of the strings to open have stayed at or below 2500:10 for three
consecutive fresh ticks (R336). -/
def Chip.rampComplete (s : Chip) : Chip :=
  if s.swi.ramp && s.swi.step.isNone && decide (3 ≤ s.swi.lowTicks) then s.beginOpening else s

def execRampComplete : State → Host.Outcome State Fault Refusal := lift Chip.rampComplete

/-- RAMP_TIMEOUT: a string emergency for every string to open, or a section emergency; the ramp ends when their openings are
confirmed (R336, R337). -/
def Chip.rampTimeout (s : Chip) : Chip :=
  if s.swi.ramp && s.swi.step.isNone then
    let ns := (List.range 32).filter (fun n => (s.st n).toOpen && !(s.st n).ordered)
    let s := if s.swi.rampSection then ns.foldl (fun s n => s.setSt n { s.st n with ordered := true }) s.sectionEmergency
      else ns.foldl (fun s n => s.emergency n 0x10 2) s
    { s with swi := { s.swi with rampSection := false, sec := .opening, step := some .confirming } }.settleRamp
  else s

def execRampTimeout : State → Host.Outcome State Fault Refusal := lift Chip.rampTimeout

/-! ## String commands (R341, R555) -/

/-- STRING_CLOSE_COMMAND: refused with 0x500D, with all bits of 32nn:06, where the string is not closable or an opening came in the same
tick. One that is closed, closing or on its way to open is recorded and does not act (R329). -/
def Chip.stringClose (s : Chip) (m : Master) (n : Nat) : Chip :=
  s.process m (fun s =>
    let x := s.st n
    let why := s.refusal n
    if why ≠ 0 || x.openTick == some s.ticks then
      let held := if s.rdBit (0x3200 + n) 0x06 8 then 256 else 0
      (s.answer .refused).post 0x500D n (le 2 (why + held) ++ le 1 (masterCode m))
    else
      let s := s.commanded m (0x3200 + n) 0x04 1 1 .ok
      if s.isShut n || s.engaged n || x.emergency || x.sw == .testing || x.sw == .closing then s
      else
        let s := s.setSt n { x with wait := true }
        if s.mode == .active && s.swi.step.isNone then s.goAhead else s)

def execStringCloseCommand (m : Master) (n : StringNo) : State → Host.Outcome State Fault Refusal := lift (·.stringClose m n)

/-- STRING_ORDERLY_OPEN (R335). -/
def Chip.stringOpen (s : Chip) (m : Master) (n : Nat) : Chip :=
  s.process m (fun s =>
    ((s.setSt n { s.st n with openTick := some s.ticks }).commanded m (0x3200 + n) 0x04 1 2 .ok).orderlyString n)

def execStringOrderlyOpen (m : Master) (n : StringNo) : State → Host.Outcome State Fault Refusal := lift (·.stringOpen m n)

/-- STRING_EMERGENCY_OPEN (R330). -/
def Chip.stringEmergency (s : Chip) (m : Master) (n : Nat) : Chip :=
  s.process m (fun s =>
    ((s.setSt n { s.st n with openTick := some s.ticks }).commanded m (0x3200 + n) 0x04 1 3 .ok).emergency n 0x11 3)

def execStringEmergencyOpen (m : Master) (n : StringNo) : State → Host.Outcome State Fault Refusal := lift (·.stringEmergency m n)

/-! ## Steps of the closing sequence (R342–R351) -/

/-- SOLO_TEST_END: the contactor under test is released; current or a fallen ΔV shows that the other one is welded. -/
def Chip.soloTestEnd (s : Chip) : Chip :=
  match s.swi.step with
  | some (.solo n c1 dv0) =>
    let k := if c1 then 2 else 1
    let current := s.carries n
    let bad := current || decide (2 * (s.dv n).natAbs < dv0.natAbs)
    let s := s.releaseCoils n k
    if bad then (s.weld n (if c1 then 1 else 2) (if current then 1 else 2) false).goAhead
    else if c1 then ((s.ctrlHead n 0x02 2).setSw n .closing).setStep (some (.c1 n))
    else (s.ctrlHead n 0x02 2).setStep (some (.solo n true (s.dv n)))
  | _ => s

def execSoloTestEnd : State → Host.Outcome State Fault Refusal := lift Chip.soloTestEnd

/-- The link has followed the bus: it has covered half the difference that stood before the main negative channel went on
(R347; the half is the model's, log entry 51). -/
def Chip.linkFollowed (s : Chip) : Bool :=
  let d := s.vBus - s.swi.v0
  decide (s.rd 0x2500 0x0A * s.vBus.natAbs < 1000 * d.natAbs) && decide (d.natAbs ≤ 2 * (s.vLink - s.swi.v0).natAbs)

/-- Switch the main positive channel on, unless it has been found on (R353). -/
def Chip.mainPosOn (s : Chip) (pre : Bool) : Chip :=
  let k := s.rd 0x2500 0x03
  if s.chanOn k then s.setStep (some (.mainPos pre)) else s.seqStepOn k (.mainPos pre)

/-- After the main negative channel's contact time: weld, main positive, or pre-charge with 0x5001. A main positive channel that is on
is not taken for a weld. -/
def Chip.afterMainNeg (s : Chip) : Chip :=
  let pre := s.rd 0x2500 0x02
  if s.linkFollowed && !s.chanOn (s.rd 0x2500 0x03) then
    let s := { s with swi := { s.swi with mainWeld := true } }
    (s.post 0x500A (s.rd 0x2500 0x03) (le 1 3 ++ le 1 4)).failActive 7 9
  else if s.linkNear then s.mainPosOn false
  else if pre < 16 && s.heldOff pre then s.seqStepOn pre .mainNeg
  else
    let s := (s.seqOn pre).post 0x5001 0xFF (le 4 (ofInt 32 s.vBus) ++ le 4 (ofInt 32 s.vLink))
    { s with swi := { s.swi with step := some (.precharge false), v0 := s.vLink, sec := .precharge, tauMs := 0 } }

/-- CONTACT_TIME_END. A main channel whose on-command was refused is commanded again, and the step goes on (log entry 115), but for one that
a trip holds off (R350). -/
def Chip.contactTimeEnd (s : Chip) : Chip :=
  match s.swi.step with
  | some (.c1 n) =>
    if !bit (s.contactor n) 1 then s.stepFailed n 3 1
    else if !s.swi.first && !s.matches n then ((s.releaseCoils n 3).hold n).goPass
    else (s.ctrlHead n 0x02 1).setStep (some (.c0 n))
  | some (.c0 n) =>
    if bits (s.contactor n) 1 0 == 3 && decide ((s.dv n).natAbs < s.rd 0x2500 0x13) then s.closed n else s.stepFailed n 5 2
  | some .mainNeg => if s.chanOn (s.rd 0x2500 0x04) then s.afterMainNeg else s.seqStepOn (s.rd 0x2500 0x04) .mainNeg
  | some (.mainPos pre) =>
    if !s.chanOn (s.rd 0x2500 0x03) then s.seqStepOn (s.rd 0x2500 0x03) (.mainPos pre)
    else
    let s := if pre then
        (s.seqOff (s.rd 0x2500 0x02) .sequence).post 0x5002 0xFF (le 2 s.swi.tauMs ++ le 4 s.swi.durationMs)
      else s
    { s with swi := { s.swi with sec := .closed } }.goPass
  | some .opening => s.endOpening
  | _ => s

def execContactTimeEnd : State → Host.Outcome State Fault Refusal := lift Chip.contactTimeEnd

/-- PRECHARGE_TAU_POINT: τm against τ = R · C within the tolerance, in ms · 10⁶ = mΩ · µF. -/
def Chip.prechargeTau (s : Chip) (tau : Nat) : Chip :=
  match s.swi.step with
  | some (.precharge false) =>
    let rc := s.rd 0x2500 0x07 * s.rd 0x2500 0x08
    let tol := s.rd 0x2500 0x09
    let s := { (s.wr 0x2500 0x1E (min 65535 tau)) with swi := { s.swi with tauMs := min 65535 tau } }
    if tau * 100000000 < rc * (100 - tol) || rc * (100 + tol) < tau * 100000000 then s.prechargeFails 1
    else s.setStep (some (.precharge true))
  | _ => s

def execPrechargeTauPoint (tauMs : Nat) : State → Host.Outcome State Fault Refusal := lift (·.prechargeTau tauMs)

/-- PRECHARGE_COMPLETE: main positive switches on. -/
def Chip.prechargeComplete (s : Chip) (d : Nat) : Chip :=
  match s.swi.step with
  | some (.precharge _) =>
    { s with swi := { s.swi with durationMs := d % 2 ^ 32 } }.mainPosOn true
  | _ => s

def execPrechargeComplete (durationMs : Nat) : State → Host.Outcome State Fault Refusal := lift (·.prechargeComplete durationMs)

/-- PRECHARGE_TIMEOUT: no rise where 63.2 % has not been covered, else timeout. -/
def Chip.prechargeTimeout (s : Chip) : Chip :=
  match s.swi.step with
  | some (.precharge seen) => s.prechargeFails (if seen then 3 else 2)
  | _ => s

def execPrechargeTimeout : State → Host.Outcome State Fault Refusal := lift Chip.prechargeTimeout

/-- RETRY_PAUSE_END: pre-charge is tried again from the main negative channel on (R349). -/
def Chip.retryPauseEnd (s : Chip) : Chip := if s.swi.step == some .retryPause then s.goMain else s

def execRetryPauseEnd : State → Host.Outcome State Fault Refusal := lift Chip.retryPauseEnd

/-- A string in its closing steps when the sequence times out: CLOSED where both feedbacks show it, else released. -/
def Chip.timeoutString (s : Chip) (n : Nat) : Chip :=
  let x := s.st n
  if x.sw == .testing || x.sw == .closing then
    if x.sw == .closing && bits (s.contactor n) 1 0 == 3 then
      (s.setSt n { x with sw := .closed, closedTick := some s.ticks }).post 0x5004 n (le 4 (s.rd (0x3200 + n) 0x0C))
    else (s.releaseCoils n 3).setSw n .open
  else s

/-- SEQUENCE_TIMEOUT (R351). -/
def Chip.sequenceTimeout (s : Chip) : Chip :=
  if !s.swi.running then s
  else
    let (step, src) := match s.swi.step with | some st => st.ref | none => (6, 0xFF)
    let pre := s.rd 0x2500 0x02
    let s := if s.chanOn pre then s.seqOff pre .sequence else s
    let s := (List.range 32).foldl Chip.timeoutString s
    let s := s.post 0x500E src (le 1 step ++ le 1 7)
    if !s.mainsOn then s.failActive step 7
    else
      let s := (List.range 32).foldl (fun s n => if (s.st n).wait then s.hold n else s) s
      s.finishActive

def execSequenceTimeout : State → Host.Outcome State Fault Refusal := lift Chip.sequenceTimeout

end Sys2Proof.Machine
end

