-- ==== Sys2Proof/Machine/Sem.lean ====
section
/-!
DEFINITION. Sys2Proof/Machine/Sem.lean: the function-group semaphores and their claims (R543–R554).
-/

namespace Sys2Proof.Machine

/-- The claim with an id, where `m` owns it and its lease has not run out (R548, R551). -/
def Chip.claimOfId (s : Chip) (m : Master) (id : Nat) : Option Claim :=
  s.claims.find? (fun c => c.id == id && c.owner == m && c.live && c.next != .rollback)

def Chip.setClaim (s : Chip) (c : Claim) : Chip := { s with claims := s.claims.map (fun x => if x.id = c.id then c else x) }
def Chip.dropClaim (s : Chip) (id : Nat) : Chip := { s with claims := s.claims.filter (fun x => x.id ≠ id) }

/-- Operations 1 and 2 (R544–R546): all the groups under one claim id, or none. -/
def Chip.claim (s : Chip) (m : Master) (edit : Bool) (groups lease : Nat) : Chip :=
  if !mayWrite m then s.answer .role
  else if groups == 0 || lease > 600 then s.answer .range
  else match s.claims.find? (fun c => c.groups &&& groups != 0) with
    | some c => (s.post 0x8004 (masterCode m) (le 2 groups ++ le 1 (masterCode c.owner))).answer .busy
    | none =>
      let ms := 100 * (if lease == 0 then 50 else lease)
      let c : Claim := { id := s.nextClaim, owner := m, edit := edit, groups := groups, run := .run, lease := ms, left := ms }
      let s := { s with claims := s.claims ++ [c], nextClaim := s.nextClaim % 65535 + 1 }
      (s.post 0x8003 (masterCode m) (le 2 groups ++ le 1 (if edit then 1 else 2) ++ le 2 c.id)).answer .ok

/-- Queue a broadcast BALSTOP on a ring that is swept (R121). -/
def Chip.sendBalStop (s : Chip) (r : Nat) : Chip :=
  if s.sweeps r then
    s.setRing r { s.ring r with queue := (s.ring r).queue ++ [{ type := 6, pos := 64, payload := ctrlPayload 8 0, epoch := 0 }] }
  else s

/-- SWITCH leaves RUN: a closing sequence aborts (R350, R554). BAL leaves RUN: a broadcast BALSTOP and zero duties (R327). -/
def Chip.leaveRun (s : Chip) (groups : Nat) : Chip :=
  let s := if bit groups 3 then s.abortSeq 5 else s
  if bit groups 4 then (List.range 16).foldl Chip.sendBalStop ((List.range 32).foldl Chip.zeroDuty s) else s

/-- Operation 3 (R549). -/
def Chip.toCheck (s : Chip) (c : Claim) : Chip :=
  if c.edit && (c.run == .check) then s.answer .busy
  else
    let n := c.staged.length + c.stagedDom.length
    let s := s.post 0x8005 (masterCode c.owner) (le 2 c.groups ++ le 2 n)
    if c.edit then
      let s := if c.run == .run then s.leaveRun c.groups else s
      (s.setClaim { c with run := .check, left := 0 }).answer .ok
    else (s.dropClaim c.id).answer .ok

/-- Operation 4 (R550): a claim that has passed CHECK takes effect in full (R549), so its abort is refused with STATE
(log entry 62). -/
def Chip.abortClaim (s : Chip) (c : Claim) : Chip :=
  if c.next == .commit then s.answer .state
  else if c.edit then (s.rollback c 0x8008 (le 2 c.groups ++ le 1 2)).answer .ok
  else ((s.post 0x8008 (masterCode c.owner) (le 2 c.groups ++ le 1 2)).dropClaim c.id).answer .ok

/-- Operation 5 (R548); CHECK has no lease to renew (R549). -/
def Chip.renewClaim (s : Chip) (c : Claim) : Chip :=
  if c.run == .check then s.answer .state else (s.setClaim { c with left := c.lease }).answer .ok

/-- Operations 3, 4 and 5 name a claim in force of the master (R551). -/
def Chip.semOp (s : Chip) (m : Master) (id : Nat) (f : Chip → Claim → Chip) : Chip :=
  if !mayWrite m then s.answer .role
  else match s.claimOfId m id with
    | some c => f s c
    | none => s.answer .stale

/-- The dictionary is not served while the compute die is held in reset, and in recovery mode 2001 does not exist (R631). -/
def Chip.serves (s : Chip) (f : Chip → Chip) : Chip :=
  if !s.up then s else if s.power.recovery then s.answer .noObj else f s

/-- CLAIM_FOR_EDIT. -/
def execClaimForEdit (m : Master) (groups : BitVec 9) (lease : BitVec 16) : State → Host.Outcome State Fault Refusal :=
  lift (·.serves (·.claim m true groups.toNat lease.toNat))

/-- CLAIM_FOR_COMMAND. -/
def execClaimForCommand (m : Master) (groups : BitVec 9) (lease : BitVec 16) : State → Host.Outcome State Fault Refusal :=
  lift (·.serves (·.claim m false groups.toNat lease.toNat))

/-- RELEASE_TO_CHECK. -/
def execReleaseToCheck (m : Master) (claim : BitVec 16) (_groups : BitVec 9) : State → Host.Outcome State Fault Refusal :=
  lift (·.serves (·.semOp m claim.toNat Chip.toCheck))

/-- SEMAPHORE_ABORT. -/
def execSemaphoreAbort (m : Master) (claim : BitVec 16) (_groups : BitVec 9) : State → Host.Outcome State Fault Refusal :=
  lift (·.serves (·.semOp m claim.toNat Chip.abortClaim))

/-- SEMAPHORE_RENEW. -/
def execSemaphoreRenew (m : Master) (claim : BitVec 16) (_groups : BitVec 9) : State → Host.Outcome State Fault Refusal :=
  lift (·.serves (·.semOp m claim.toNat Chip.renewClaim))

/-- A write of an operation word to 2001:01 (R544). -/
def Chip.semWord (s : Chip) (m : Master) (v : Nat) : Chip :=
  let op := bits v 63 56
  let id := bits v 55 40
  if bits v 39 32 != 0 || bits v 15 9 != 0 || op == 0 || op > 5 then (if mayWrite m then s.answer .range else s.answer .role)
  else if op ≤ 2 then
    (if id != 0 && mayWrite m then s.answer .range else s.claim m (op == 1) (bits v 8 0) (bits v 31 16))
  else s.semOp m id (if op == 3 then Chip.toCheck else if op == 4 then Chip.abortClaim else Chip.renewClaim)

/-- HOLD_ENTRY (R546): the edit claims that were granted since the last tick edge enter HOLD. -/
def Chip.holdEntry (s : Chip) : Chip :=
  let enters (c : Claim) : Bool := c.edit && c.run == .run && c.next == .stay
  let groups := (s.claims.filter enters).foldl (fun n c => n ||| c.groups) 0
  let s := { s with claims := s.claims.map (fun c => if enters c then { c with run := .hold } else c) }
  s.leaveRun groups

def execHoldEntry : State → Host.Outcome State Fault Refusal := lift (fun s => if s.up then s.holdEntry else s)

/-- EDIT_ENTRY (R546). -/
def Chip.editEntry (s : Chip) : Chip :=
  { s with claims := s.claims.map (fun c => if c.run == .hold && c.next == .stay then { c with run := .edit } else c) }

def execEditEntry : State → Host.Outcome State Fault Refusal := lift (fun s => if s.up then s.editEntry else s)

/-- LEASE_EXPIRY (R549, R550): a claim for command frees its groups, a claim for edit is rolled back; CHECK has no lease. -/
def Chip.leaseExpiry (s : Chip) (id : Nat) : Chip :=
  match s.claims.find? (fun c => c.id == id && c.run != .check && c.next == .stay) with
  | none => s
  | some c => if c.edit then s.rollback c 0x8008 (le 2 c.groups ++ le 1 1) else s.dropClaim c.id

def execLeaseExpiry (claim : BitVec 16) : State → Host.Outcome State Fault Refusal :=
  lift (fun s => if s.up then s.leaseExpiry claim.toNat else s)

end Sys2Proof.Machine
end

