-- ==== Sys2Proof/Machine/Check.lean ====
section
/-!
DEFINITION. Sys2Proof/Machine/Check.lean: the rules that CHECK evaluates on the staged settings of a claim (R549). A failure
is a result code of 201g:07 and the object named in 201g:08.
-/

namespace Sys2Proof.Machine

/-! ## The staged values over those in force -/

/-- Slot objects of a stored image (R417, R422). -/
def Chip.storeImage (s : Chip) (k : Nat) (b : List Byte) : Chip :=
  let i := 0x2E10 + k
  let s := { s with images := Map.write (imageDefault k) s.images k b
                    sched := { s.sched with loaded := s.sched.loaded.filter (fun (x : Nat × Nat) => x.2 != k + 1) } }
  (((((s.wr i 0x01 2).wr i 0x02 (imgPlace b)).wr i 0x03 (imgKcode b)).wr i 0x04 (imgVersion b)).wr i 0x05 b.length).wr i 0x08 0

/-- Slots that the assignments 2E00:10–14 name for a place. -/
def Chip.assigned (s : Chip) (place : Nat) : List Nat :=
  if place == 3 then (List.range 4).map (fun p => s.rd 0x2E00 (0x10 + p)) else if place == 4 then [s.rd 0x2E00 0x14] else []

/-- A slot becomes active; one that was active for the same kernel code or assignment becomes valid (R419). -/
def Chip.activate (s : Chip) (k : Nat) : Chip :=
  let place (j : Nat) := s.rd (0x2E10 + j) 0x02
  let s := (List.range 32).foldl (fun s j =>
    if j != k && s.rd (0x2E10 + j) 0x01 == 3 && place j == place k &&
        (if place k == 1 then s.rd (0x2E10 + j) 0x03 == s.rd (0x2E10 + k) 0x03
         else (place k == 3 || place k == 4) && !(s.assigned (place k)).contains j)
    then s.wr (0x2E10 + j) 0x01 2 else s) s
  (s.wr (0x2E10 + k) 0x01 3).wr (0x2E10 + k) 0x08 0

def Chip.eraseImage (s : Chip) (k : Nat) : Chip :=
  [0x01, 0x02, 0x03, 0x04, 0x05, 0x08].foldl (fun s j => s.wr (0x2E10 + k) j 0)
    { s with images := Map.erase k s.images }

/-- Value staged in a claim. -/
def Claim.val (c : Claim) (idx sub : Nat) : Option Nat := (c.staged.find? (fun x => x.1 == okey idx sub)).map (·.2)
def Claim.bytes (c : Claim) (idx sub : Nat) : Option (List Byte) := (c.stagedDom.find? (fun x => x.1 == okey idx sub)).map (·.2)

/-- Does the claim stage an object of an index in a range? -/
def Claim.hits (c : Claim) (lo hi : Nat) : Bool :=
  c.staged.any (fun x => lo ≤ x.1 / 256 && x.1 / 256 ≤ hi) || c.stagedDom.any (fun x => lo ≤ x.1 / 256 && x.1 / 256 ≤ hi)

/-- Slots requested for activation and for erasure (R417, R422). -/
def Claim.activates (c : Claim) : List Nat := (List.range 32).filter (fun k => c.val (0x2E10 + k) 0x09 == some 1)
def Claim.erases (c : Claim) : List Nat := (List.range 32).filter (fun k => c.val (0x2E10 + k) 0x0A == some 1)

/-- Requests and staging data, which are no values in force (R422, R633). -/
def requestKey (k : Nat) : Bool :=
  (0x2E10 ≤ k / 256 && k / 256 ≤ 0x2E2F && (k % 256 == 0x09 || k % 256 == 0x0A)) || k == okey 0x1031 0x02

/-- Put the staged values of a claim into `od` and `dom`. -/
def Chip.put (s : Chip) (c : Claim) : Chip :=
  let ws := c.staged.filter (fun (x : Nat × Nat) => !requestKey x.1)
  let ds := c.stagedDom.filter (fun (x : Nat × List Byte) => !requestKey x.1)
  { s with od := ws.foldl (fun m (x : Nat × Nat) => Map.write (dflt x.1) m x.1 x.2) s.od
           dom := ds.foldl (fun m (x : Nat × List Byte) => Map.write (domDefault x.1) m x.1 x.2) s.dom }

/-- The image slots as the claim leaves them: stored, activated, erased. -/
def Chip.putImages (s : Chip) (c : Claim) : Chip :=
  let k := s.rd 0x2E00 0x02
  let s := match c.bytes 0x2E00 0x03 with
    | some b => if k < 32 then s.storeImage k b else s
    | none => s
  c.erases.foldl Chip.eraseImage (c.activates.foldl Chip.activate s)

/-- The machine as the claim would leave it: committed profile values that wait are in force, staged values over them. -/
def Chip.withStaged (s : Chip) (c : Claim) : Chip :=
  let s := { s with od := s.profPend.foldl (fun m (x : Nat × Nat) => Map.write (dflt x.1) m x.1 x.2) s.od
                    dom := s.profPendDom.foldl (fun m (x : Nat × List Byte) => Map.write (domDefault x.1) m x.1 x.2) s.dom }
  let s := (s.put c).putImages c
  { s with clk := { s.clk with p := s.rd 0x2100 0x01 } }

/-! ## Rules that several groups share -/

/-- One rule: its result and object where it is broken. -/
def broken (b : Bool) (res obj : Nat) : List (Nat × Nat) := if b then [(res, obj)] else []

/-- R57: a lane or half-frame that the change takes past its limit, or one past its limit that it loads further (R61). Lanes that one
boundary move would make fit pass (R72); the move is made with the commit. -/
def Chip.admission (s new : Chip) : List (Nat × Nat) :=
  (List.range 16).flatMap (fun r =>
    let moved : Bool := !new.allFit r && !s.spreading r &&
      (match new.bestMove r with | some (k, x) => (new.movedTo r k x).allFit r | none => false)
    (List.range 4).flatMap (fun l =>
      let ok (x : Chip) : Bool := x.fits r l (x.lanePos r l)
      broken (!ok new && !moved && (ok s || decide (s.laneLoad r l < new.laneLoad r l))) 2 (okey (0x2120 + r) (0x01 + l))) ++
    [false, true].flatMap (fun up =>
      let ok (x : Chip) : Bool := decide (x.credits r up ≤ halfLimit x.clk.p)
      broken (!ok new && (ok s || decide (s.credits r up < new.credits r up))) 2 (okey (0x2120 + r) (if up then 0x12 else 0x11))))

/-- Privileged channels that a change adds: none while the shed level is above 0 (R69), on a folded ring or one in fault (R156), or in an
over-admitted block (R61). -/
def Chip.addedPriv (s new : Chip) : List (Nat × Nat) :=
  let more (i j : Nat) : Bool := (new.rd i j &&& (65535 - s.rd i j % 65536)) != 0
  (List.range 16).flatMap (fun r => (List.range 64).flatMap (fun p =>
    let m := 0x3010 + r
    broken (more m (0x41 + p) && (decide (0 < s.rd 0x2100 0x03) || s.ringState r == 3 || s.ringState r == 4)) 4 (okey m (0x41 + p)) ++
    broken (more m (0x41 + p) && !s.allFit r) 2 (okey m (0x41 + p)))) ++
  broken (more 0x3300 0x62 && decide (0 < s.rd 0x2100 0x03)) 4 (okey 0x3300 0x62)

/-- R421: the kernels of a ring's strings fit into the kernel area and its data region. -/
def Chip.kernelsFit (s : Chip) (r : Nat) : Bool :=
  let bs := (s.ringKernels r).map s.image
  decide ((bs.map imgCodeLen).foldl (· + ·) 0 ≤ 12288) &&
  decide ((bs.map (fun b => imgInitLen b + imgZeroLen b)).foldl (· + ·) 0 ≤ 16384)

/-- Rings that carry a string of profile `n`. -/
def Chip.ringsOf (s : Chip) (n : Nat) : List Nat :=
  (List.range 16).filter (fun r => (List.range 32).any (fun k => s.rd (0x3200 + k) 0x01 == r && s.rd (0x2840 + k) 0x01 == n))

/-- Not strictly rising. -/
def unordered (xs : List Int) : Bool := (xs.zip xs.tail).any (fun x => decide (x.2 ≤ x.1))

/-- R317 for profile `n`. -/
def Chip.voltageOrder (s : Chip) (n : Nat) : List (Nat × Nat) :=
  let l := 0x2610 + n
  let hi := s.rd (0x2550 + n) 0x01
  let lo := s.rd (0x2550 + n) 0x02
  broken (!decide (s.rd l 0x02 < hi)) 1 (okey l 0x02) ++
  broken (!decide (lo < s.rd l 0x01)) 1 (okey l 0x01) ++
  (s.ringsOf n).flatMap (fun r =>
    broken (!decide (hi < s.rd (0x2320 + r) 0x01)) 1 (okey (0x2550 + n) 0x01) ++
    broken (!decide (s.rd (0x2320 + r) 0x02 < lo)) 1 (okey (0x2550 + n) 0x02)) ++
  broken (unordered ([0x05, 0x06, 0x07, 0x08].map (s.rdI 16 l))) 1 (okey l 0x05) ++
  broken (unordered ([0x09, 0x0A, 0x0B, 0x0C].map (s.rdI 16 l))) 1 (okey l 0x09)

def Chip.voltages (new : Chip) (c : Claim) : List (Nat × Nat) :=
  if c.hits 0x2610 0x2617 || c.hits 0x2550 0x2557 || c.hits 0x2320 0x232F then (List.range 8).flatMap new.voltageOrder else []

/-! ## PROT (R233) -/

/-- Items of the matrix that a claim can stage, with their numbers in events (log entry 43). -/
def stagedItems : List (Nat × Nat × Nat) :=
  [(0x2300, 0x08, 73), (0x2300, 0x09, 74), (0x2300, 0x0A, 75)] ++ (List.range 24).map (fun i => (0x2304, i + 1, 49 + i))

/-- Item number of a setting of the matrix. -/
def settingNo (k : Nat) : Nat :=
  if k / 256 == 0x2301 then k % 256 - 1
  else ((stagedItems.find? (fun x => okey x.1 x.2.1 == k)).map (·.2.2)).getD 48

/-- The shadow's CRC differs from that over the values the supervisor wrote (R233): the first item that the shadow lacks. -/
def Chip.shadowLacks (new : Chip) : Option Nat :=
  match new.trip.unseen with
  | [] => none
  | x :: _ => if new.shadowCrc == new.committedCrc then none else some (settingNo x.1)

/-- The first cause of R233, by its place in the list of the rule, with item and object. -/
def Chip.matrixRefusal (new : Chip) : Option (Nat × Nat × Nat) :=
  let word (i : Nat) := new.rd 0x2301 (i + 1)
  let range (x : Nat × Nat × Nat) : Bool := match entryOf x.1 x.2.1 with
    | some e => inRange e (new.rd x.1 x.2.1)
    | none => true
  let differs (i : Nat) : Bool := (List.range 16).any (fun k => match new.partner k with
    | some p => bit (word i) k != bit (word i) p
    | none => false)
  let carries (r : Nat) : Bool := (List.range 64).any (fun p => new.herdState r p != 0 && decide (new.hT r 6 p < 32))
  match (List.range 48).find? (fun i => bits (word i) 63 34 != 0) with
  | some i => some (1, i, okey 0x2301 (i + 1))
  | none => match stagedItems.find? (fun x => !range x) with
    | some x => some (2, x.2.2, okey x.1 x.2.1)
    | none => match (List.range 48).find? differs with
      | some i => some (3, i, okey 0x2301 (i + 1))
      | none => match (List.range 16).find? (fun r => !bit (new.rd 0x2300 0x03) r && carries r) with
        | some _ => some (4, 48, okey 0x2300 0x03)
        | none => new.shadowLacks.map (fun i => (5, i, okey 0x2300 0x02))

def Chip.checkProt (new : Chip) (c : Claim) : List (Nat × Nat) :=
  (match new.matrixRefusal with | some x => [(5, x.2.2)] | none => []) ++ new.voltages c

/-! ## EST (R246, R292, R317, R421) -/

def posReal (v : Nat) : Bool := v != 0 && bits v 30 23 != 255 && !bit v 31
def Chip.badTables (s : Chip) (i : Nat) : List (Nat × Nat) :=
  let ps := s.rdDom i 0x08
  broken ((List.range 8).any (fun j => unordered ((List.range 201).map (fun k => (s.profOcv i k j : Int))))) 1 (okey i 0x07) ++
  broken (unordered ((List.range 8).map (fun j => toInt 16 (leAt (s.rdDom i 0x06) (2 * j) 2)))) 1 (okey i 0x06) ++
  broken ((List.range 1008).any (fun k => let v := leAt ps (4 * k) 4
            !posReal v && !(k % 6 == 5 && v % 2 ^ 31 == 0))) 1 (okey i 0x08)

/-- R246 for profile `n`. -/
def Chip.profileFaults (new : Chip) (n : Nat) : List (Nat × Nat) :=
  let i := 0x2810 + n
  new.badTables i ++
  broken (decide (new.rd i 0x04 < new.rd i 0x03 + 2000)) 1 (okey i 0x03) ++
  broken (!(decide (9000 ≤ new.rd i 0x05) && decide (new.rd i 0x05 ≤ 10000))) 3 (okey i 0x05) ++
  broken ((new.kernelSlot (new.rd i 0x01)).isNone) 5 (okey i 0x01)

/-- Is a symmetric matrix [[a, b, c], [b, d, e], [c, e, f]] positive semidefinite? -/
def psd3 (a b c d e f : Int) : Bool :=
  decide (0 ≤ a) && decide (0 ≤ d) && decide (0 ≤ f) && decide (0 ≤ a * d - b * b) && decide (0 ≤ a * f - c * c) &&
  decide (0 ≤ d * f - e * e) && decide (0 ≤ det3 a b c b d e c e f)

/-- Greatest `mu` with the matrix less `mu` on the diagonal still semidefinite, bit by bit: the least eigenvalue. -/
def leastEigen (a b c d e f : Int) : Nat → Int → Int
  | 0, mu => mu
  | n + 1, mu =>
    let t := mu + (2 : Int) ^ n
    leastEigen a b c d e f n (if psd3 (a - t) b c (d - t) e (f - t) then t else mu)

/-- The normal matrix of the fit of R293 has a condition number of at most 100, as the ratio of its eigenvalues (log entry 64). -/
def wellConditioned (mHz : Nat) (offs : List Nat) : Bool :=
  let xs := offs.map (fun t => turn ((mHz * t : Nat) : Int) 10000000000)
  let a : Int := offs.length * (fx : Int) * fx
  let b := isum (xs.map (fun x => (fx : Int) * x.1))
  let c := isum (xs.map (fun x => (fx : Int) * x.2))
  let d := isum (xs.map (fun x => x.1 * x.1))
  let e := isum (xs.map (fun x => x.1 * x.2))
  let f := isum (xs.map (fun x => x.2 * x.2))
  let mu := leastEigen a b c d e f 104 0
  decide (0 < mu) && psd3 (100 * mu - a) (-b) (-c) (100 * mu - d) (-e) (100 * mu - f)

/-- R292 for string `n`. -/
def Chip.pointFaults (new : Chip) (n : Nat) : List (Nat × Nat) :=
  let ps := ((List.range 8).map (fun i => leAt (new.rdDom (0x2920 + n) 0x13) (4 * i) 4)).filter (· != 0)
  match new.headOf n with
  | none => broken (!ps.isEmpty) 5 (okey (0x2920 + n) 0x13)
  | some (r, h) =>
    let some_ := (new.positionsOf n).any (fun p => new.isKs16 r p && (List.range 16).any (fun e => new.rippleEligible r p e h))
    broken (ps.any (fun f => !some_ || !wellConditioned f (new.halfOffsets r h))) 5 (okey (0x2920 + n) 0x13)

/-- R182: the front end's burst offsets obey R181. -/
def Chip.frontOffsets (new : Chip) : List (Nat × Nat) :=
  let os := (List.range (new.rd 0x3300 0x51)).map (fun i => new.rd 0x3300 (0x52 + i))
  (List.range os.length).flatMap (fun i =>
    broken (decide (new.periodNs ≤ 100 * os.getD i 0) || (i != 0 && decide (os.getD i 0 < os.getD (i - 1) 0 + 10))) 1
      (okey 0x3300 (0x52 + i)))

def Chip.checkEst (s new : Chip) (c : Claim) : List (Nat × Nat) :=
  ((List.range 8).filter (fun n => c.hits (0x2810 + n) (0x2810 + n))).flatMap new.profileFaults ++
  ((List.range 32).filter (fun n => c.hits (0x2840 + n) (0x2840 + n))).flatMap (fun n =>
    broken ((new.kernelSlot (new.kernelOf n)).isNone) 5 (okey (0x2840 + n) 0x01)) ++
  ((List.range 32).filter (fun n => (c.bytes (0x2920 + n) 0x13).isSome)).flatMap new.pointFaults ++
  new.voltages c ++
  (if c.hits 0x3300 0x3300 then new.frontOffsets ++ s.addedPriv new else []) ++
  (if c.hits 0x2810 0x285F then (List.range 16).flatMap (fun r => broken (!new.kernelsFit r) 5 (okey (0x2120 + r) 0x01)) else []) ++
  (if c.hits 0x2810 0x285F || c.hits 0x2100 0x2100 then s.admission new else [])

/-! ## SWEEP (R180, R181, R57) -/

/-- R181 for half `h` of ring `r`, and the privileged masks of R180. -/
def Chip.sweepFaults (new : Chip) (r : Nat) : List (Nat × Nat) :=
  let m := 0x3010 + r
  [0, 1].flatMap (fun h =>
    let os := (List.range (new.rd m (0x03 + h))).map (fun i => new.rd m (0x05 + 16 * h + i))
    (List.range os.length).flatMap (fun i =>
      broken (decide (new.periodNs ≤ 100 * os.getD i 0) || (i != 0 && decide (os.getD i 0 < os.getD (i - 1) 0 + 10))) 1
        (okey m (0x05 + 16 * h + i)))) ++
  (List.range 64).flatMap (fun p =>
    let v := new.rd m (0x41 + p)
    broken (if new.herdType r p == 2 then decide (3 < v) else decide (4 < popCount v 16)) 3 (okey m (0x41 + p)))

def Chip.checkSweep (s new : Chip) (c : Claim) : List (Nat × Nat) :=
  if c.hits 0x3010 0x301F then
    ((List.range 16).filter (fun r => c.hits (0x3010 + r) (0x3010 + r))).flatMap new.sweepFaults ++
    (List.range 32).flatMap (fun n => (new.pointFaults n).filter (fun f => !(s.pointFaults n).contains f)) ++ s.addedPriv new ++ s.admission new
  else []

/-! ## SWITCH (R348, R360, R361, R364) -/

def Chip.channelFaults (s new : Chip) (k : Nat) : List (Nat × Nat) :=
  let i := 0x2410 + k
  let role := new.rd i 0x03
  let mode := new.rd i 0x05
  let moved (j : Nat) : Bool := s.rd i j != new.rd i j
  broken ((s.ch k).state.conducts && (moved 0x03 || moved 0x0B || moved 0x05)) 4 (okey i 0x03) ++
  broken ((role == 2 && mode != 0) || (role == 1 && mode != 0 && mode != 2)) 1 (okey i 0x05) ++
  (match new.partner k with
   | none => []
   | some p =>
     let q := 0x2410 + p
     broken (p != (if k % 2 == 0 then k + 1 else k - 1) || new.partner p != some k) 1 (okey i 0x0B) ++
     broken ([0x03, 0x04, 0x05, 0x06, 0x07, 0x08, 0x09, 0x0A, 0x13].any (fun j => new.rd i j != new.rd q j)) 1 (okey i 0x0B) ++
     broken ((List.range 48).any (fun w => bit (new.rd 0x2301 (w + 1)) k != bit (new.rd 0x2301 (w + 1)) p)) 1 (okey i 0x0B))

def Chip.checkSwitch (s new : Chip) (c : Claim) : List (Nat × Nat) :=
  broken (decide (new.rd 0x2500 0x0B * 1000000 < 4 * (new.rd 0x2500 0x07 * new.rd 0x2500 0x08))) 1 (okey 0x2500 0x0B) ++
  [0x02, 0x03, 0x04].flatMap (fun j =>
    let k := new.rd 0x2500 j
    broken (k < 16 && (if j == 0x02 then new.rd (0x2410 + k) 0x03 != 2
                       else new.rd (0x2410 + k) 0x03 != 1 || new.rd (0x2410 + k) 0x04 != 0xFF)) 1 (okey 0x2500 j)) ++
  (List.range 16).flatMap (s.channelFaults new) ++
  (if c.hits 0x3200 0x321F then s.admission new else [])

/-! ## TIME (R46, R510, R521) -/

def Chip.timeFaults (new : Chip) (c : Claim) : List (Nat × Nat) :=
  let port (d : Nat) := new.rd (0x2210 + d) 0x02
  let prof (d : Nat) := new.rd (0x2210 + d) 0x03
  let q (d : Nat) := 0x2220 + port d
  let ranged (d : Nat) : Bool := c.hits (0x2210 + d) (0x2210 + d) || c.hits (q d) (q d)
  [0, 1].flatMap (fun d =>
    broken (new.rd (q d) 0x01 != 1) 1 (okey (0x2210 + d) 0x02) ++
    broken (ranged d && (new.rd (q d) 0x03 != (if prof d == 0 then 0 else 1))) 3 (okey (q d) 0x03) ++
    broken (ranged d && !Config.ptpRange (prof d) (new.rdI 8 (q d) 0x05) (new.rdI 8 (q d) 0x06) (new.rd (q d) 0x07)) 3 (okey (q d) 0x05)) ++
  broken (port 0 == port 1 && new.rd 0x2210 0x01 == new.rd 0x2211 0x01) 1 (okey 0x2211 0x01) ++
  [1, 2, 3, 4].flatMap (fun n =>
    broken (new.rd (0x2230 + n) 0x01 == 5 && decide (new.rd (0x2230 + n) 0x03 ≤ new.rd (0x2230 + n) 0x04)) 1 (okey (0x2230 + n) 0x04))

/-- R46: objects that must lie below P, in index order. -/
def Chip.beyondPeriod (new : Chip) : List (Nat × Nat) :=
  let p := new.periodNs
  broken (decide (p ≤ 1000 * new.rd 0x2241 0x04)) 1 (okey 0x2241 0x04) ++
  (List.range 16).flatMap (fun r => (List.range 32).flatMap (fun i =>
    broken (decide (p ≤ 100 * new.rd (0x3010 + r) (0x05 + i))) 1 (okey (0x3010 + r) (0x05 + i)))) ++
  (List.range 16).flatMap (fun i => broken (decide (p ≤ 100 * new.rd 0x3300 (0x52 + i))) 1 (okey 0x3300 (0x52 + i)))

def Chip.checkTime (s new : Chip) (c : Claim) : List (Nat × Nat) :=
  (if new.rd 0x2100 0x01 != s.rd 0x2100 0x01 then
    broken (s.mode != .discover && s.mode != .ready) 4 (okey 0x2100 0x01) ++ new.beyondPeriod ++ s.admission new
   else broken (decide (new.periodNs ≤ 1000 * new.rd 0x2241 0x04)) 1 (okey 0x2241 0x04)) ++
  new.timeFaults c

/-! ## REC (R609) -/

/-- Size of the value of a listed object; none where a set may not name it. -/
def snapSize (idx sub : Nat) : Option Nat :=
  if !idxExists idx then none
  else match entryOf idx sub with
    | none => if sub == 0 then some 1 else none
    | some e => match e.ty with
      | .dom _ _ => none
      | t => if e.acc == .wo then none else some t.size

def Chip.setFaults (new : Chip) (n : Nat) : List (Nat × Nat) :=
  let b := new.rdDom (0x2B20 + n) 0
  let sizes := (List.range (b.length / 4)).map (fun i => snapSize (leAt b (4 * i) 2) (leAt b (4 * i + 2) 1))
  broken (b.length % 4 != 0 || sizes.any (·.isNone) || decide (448 < (sizes.filterMap id).foldl (· + ·) 0)) 1 (okey (0x2B20 + n) 0)

def Chip.checkRec (new : Chip) (c : Claim) : List (Nat × Nat) :=
  ((List.range 32).filter (fun n => c.hits (0x2B20 + n) (0x2B20 + n))).flatMap new.setFaults

/-! ## NET (R553, R561, R581, R586, R590, R597) -/

/-- Bit times in 12.5 ns. -/
def Chip.bitTime (s : Chip) (p j : Nat) : Nat := s.rd (0x2D10 + p) j * (1 + s.rd (0x2D10 + p) (j + 1) + s.rd (0x2D10 + p) (j + 2))

/-- Time on the bus, 12.5 ns, of a classical frame of eight bytes with all its stuff bits, and of a 64-byte CAN FD frame (log
entry 65). -/
def Chip.classicalTime (s : Chip) (p : Nat) : Nat := 135 * s.bitTime p 0x03
def Chip.fdTime (s : Chip) (p : Nat) : Nat :=
  if s.rd (0x2D10 + p) 0x01 == 3 then 34 * s.bitTime p 0x03 + 678 * s.bitTime p 0x07 else 712 * s.bitTime p 0x03

def Chip.canFaults (new : Chip) (p : Nat) : List (Nat × Nat) :=
  let i := 0x2D10 + p
  let data := new.rd i 0x18 == 1
  let ref := bit (new.rd 0x2241 0x01) p
  let n := new.rd i 0x1B
  let set := if new.rd i 0x19 == 1 then new.fdTime p else 9 * new.classicalTime p
  let refs := if ref then ((n + new.rd 0x2241 0x03 - 1) / max 1 (new.rd 0x2241 0x03)) * new.classicalTime p else 0
  broken (decide (new.bitTime p 0x03 < 80)) 3 (okey i 0x03) ++
  broken (decide (new.bitTime p 0x07 < 10)) 3 (okey i 0x07) ++
  broken (decide (new.rd i 0x05 < new.rd i 0x06)) 1 (okey i 0x06) ++
  broken (decide (new.rd i 0x09 < new.rd i 0x0A)) 1 (okey i 0x0A) ++
  broken (decide (960 < ((List.range 9).map (fun q => new.rd i (0x1E + q))).foldl (· + ·) 0)) 1 (okey i 0x1E) ++
  broken (new.rd i 0x02 == 1 && (data || ref)) 1 (okey i 0x18) ++
  broken (data && new.rd i 0x19 == 1 && decide (new.rd i 0x01 < 2)) 1 (okey i 0x19) ++
  broken (data && decide (n * new.clk.p * 80000 < 2 * (set + refs))) 1 (okey i 0x1B)

/-- Master of a session. -/
def Session.master (x : Session) : Master := if x.role == 1 then .a else if x.role == 2 then .b else .observer

def Chip.sess (s : Chip) (k : Nat) : Session := Map.read {} s.sessions k

/-- Open sessions of a master. -/
def Chip.sessionsOf (s : Chip) (m : Master) : List Session :=
  ((List.range 8).map s.sess).filter (fun x => x.role != 0 && x.master == m)

/-- Is a fingerprint on a list of 32-byte entries? -/
def onList (list print : List Byte) : Bool :=
  print.length == 32 && (List.range (list.length / 32)).any (fun i => (list.drop (32 * i)).take 32 == print)

def Chip.netFaults (s new : Chip) (c : Claim) : List (Nat × Nat) :=
  let xs := s.sessionsOf c.owner
  let sub := if c.owner == .a then 0x11 else 0x12
  broken (!xs.isEmpty && xs.all (fun x => !onList (new.rdDom 0x2C00 sub) x.print)) 4 (okey 0x2C00 sub) ++
  (List.range 4).flatMap (fun p =>
    let moved := [0x02, 0x04, 0x05, 0x06, 0x07].any (fun j => s.rd (0x2C20 + p) j != new.rd (0x2C20 + p) j)
    broken (moved && !xs.isEmpty && xs.all (fun x => x.port == p)) 4 (okey (0x2C20 + p) 0x02)) ++
  broken (decide (new.rd 0x2C80 0x03 < 2000 * new.clk.p)) 1 (okey 0x2C80 0x03)

def Chip.checkNet (s new : Chip) (c : Claim) : List (Nat × Nat) := (List.range 4).flatMap new.canFaults ++ s.netFaults new c

/-! ## TINE (R411, R415–R418, R421, R633) -/

/-- Validity dates of a certificate (R306); they are not checked while time is unlocked. -/
def Chip.certDated (s : Chip) (cert : List Byte) : Bool :=
  s.timeUnlocked || (decide ((beAt cert 45 2 : Int) ≤ s.day2000) && decide (s.day2000 ≤ (beAt cert 47 2 : Int)))

def imgSigned (b : List Byte) : Bool :=
  Config.ecdsaVerify (((imgCert b).drop 8).take 33) (Config.sha256 (b.take (b.length - 64))) (b.drop (b.length - 64))

def Chip.imgChained (s : Chip) (b : List Byte) : Bool :=
  certSigned (Config.rootKey (s.rd 0x2E00 0x06)) (imgCert b) && s.certDated (imgCert b)

/-- Does the image declare a figure of a kind and entry? -/
def declares (b : List Byte) (kind entry : Nat) : Bool :=
  (List.range (min (imgNfig b) 4096)).any (fun i => leAt b (128 + 8 * i) 1 == kind && leAt b (129 + 8 * i) 1 == entry)

/-- 85 % of the cycles in 0.95P at the shortest tick (R411): a sweep program serves every tick period (log entry 148). -/
def sweepLimit : Nat := 475000 * 85 / 100

/-- The figure set of its place (R407, R411). -/
def figuresOk (b : List Byte) : Bool :=
  match imgPlace b with
  | 1 => [0x03, 0x04, 0x05, 0x06, 0x07, 0x08].all (fun k => declares b k 0) &&
      [2, 3, 4, 5, 6, 7].all (fun e => imgEntry b e == 0xFFFFFFFF || declares b 0x09 e)
  | 2 => declares b 0x10 0 && decide (imgFig b 0x10 0 ≤ sweepLimit)
  | 3 => declares b 0x20 0 && decide (imgFig b 0x20 0 ≤ 1600)
  | 4 => declares b 0x30 0 && decide (imgFig b 0x30 0 ≤ 400)
  | 5 => declares b 0x01 0 && declares b 0x02 0
  | _ => true

/-- MAGIC, FORMAT, lengths and figure set. -/
def formatOk (b : List Byte) : Bool :=
  leAt b 0 4 == 0x3154464F && leAt b 4 2 == 0x0100 && decide (imgNfig b ≤ 4096) &&
  b.length == imgCodeAt b + imgCodeLen b + imgInitLen b + 184 && figuresOk b &&
  (imgPlace b == 1 || imgKcode b == 0)

/-- R416. -/
def sizeOk (b : List Byte) : Bool :=
  let d := imgInitLen b + imgZeroLen b
  if imgPlace b == 1 then decide (imgCodeLen b ≤ 12288) && decide (d ≤ 16384)
  else decide (imgCodeLen b ≤ 8192) && decide (d ≤ 4096)

/-- Version of the running firmware (R580). -/
def Chip.firmware (s : Chip) : Nat := s.rd 0x1030 (0x02 + s.rd 0x1030 0x01)

/-- A slot named by a profile in use or an assignment. -/
def Chip.slotNamed (s : Chip) (k : Nat) : Bool :=
  (s.rd (0x2E10 + k) 0x02 == 1 && (List.range 8).any (fun n => s.rd (0x2810 + n) 0x01 == s.rd (0x2E10 + k) 0x03)) ||
  (s.assigned 3 ++ s.assigned 4).contains k

/-- Causes 1 to 4 of R418 for the customer images of a claim: signature, chain, format and place, with the slot concerned; 0 none. The image
area takes only places 1, 3 and 4, in slots 8–31 and with a kernel code of R244 for customers. -/
def Chip.imageResult (s new : Chip) (c : Claim) : Nat × Nat :=
  let target := new.rd 0x2E00 0x02
  let place (b : List Byte) : Bool := decide (8 ≤ target) && decide (target < 32) &&
    (imgPlace b == 3 || imgPlace b == 4 || (imgPlace b == 1 && decide (0x80 ≤ imgKcode b)))
  let empty := c.activates.find? (fun k => new.rd (0x2E10 + k) 0x01 == 0 || (new.image k).isEmpty)
  let misplaced := (List.range 5).any (fun i => (c.val 0x2E00 (0x10 + i)).isSome &&
    (let k := new.rd 0x2E00 (0x10 + i)
     (if k < 8 then residentPlace k else new.rd (0x2E10 + k) 0x02) != (if i == 4 then 4 else 3)))
  match c.bytes 0x2E00 0x03 with
  | some b =>
    if !imgSigned b then (0x01, target)
    else if !s.imgChained b then (0x02, target)
    else if !formatOk b then (0x03, target)
    else if !place b then (0x04, target)
    else (0, target)
  | none =>
    match empty with
    | some k => (0x03, k)
    | none => if misplaced then (0x04, target) else (0, target)

/-- The first failing cause of R418, in the order of its table: those of the image, the sizes of R416 and R421, the firmware, R57 with the
new figures, and slots in use that would be erased or overwritten. -/
def Chip.tineResult (s new : Chip) (c : Claim) : Nat × Nat :=
  let r := s.imageResult new c
  let data := c.bytes 0x2E00 0x03
  let used (k : Nat) : Bool := s.rd (0x2E10 + k) 0x01 == 3
  if r.1 != 0 then r
  else if data.any (fun b => !sizeOk b) || (List.range 16).any (fun r => !new.kernelsFit r) then (0x05, r.2)
  else if data.any (fun b => decide (s.firmware < imgMinFw b)) then (0x06, r.2)
  else if !c.activates.isEmpty && !(s.admission new).isEmpty then (0x07, (c.activates.head?).getD r.2)
  else if data.isSome && (used r.2 || new.slotNamed r.2) && !c.activates.contains r.2 then (0x08, r.2)
  else match c.erases.find? (fun k => used k || s.slotNamed k) with
    | some k => (0x08, k)
    | none => (0, r.2)

/-- Result of the firmware check of R633 (1031:04): 1 SIG, 2 CHAIN, 3 FORMAT, 4 ROLLBACK, 5 HARDWARE. -/
def Chip.firmwareResult (s : Chip) (c : Claim) : Option Nat :=
  (c.bytes 0x1031 0x02).map (fun b =>
    if !imgSigned b then 1
    else if !s.imgChained b then 2
    else if !(formatOk b && imgPlace b == 6) then 3
    else if imgVersion b < s.rd 0x1031 0x05 then 4
    else if !Config.hardwareRange b (s.rd 0x1018 0x03 / 65536) then 5
    else 0)

def Chip.checkTine (s new : Chip) (c : Claim) : List (Nat × Nat) :=
  let t := s.tineResult new c
  broken (t.1 == 0x07) 2 ((s.admission new).head?.map (·.2) |>.getD 0) ++
  broken (t.1 != 0 && t.1 != 0x07) 5 (okey 0x2E00 0x03) ++
  broken ((s.firmwareResult c).getD 0 != 0) 5 (okey 0x1031 0x02)

/-! ## The check of a claim (R549) -/

/-- Staged domains of group `g`, written in segments, that end below their least length (R537, R570). -/
def Claim.shortDomains (c : Claim) (g : Nat) : List (Nat × Nat) :=
  c.stagedDom.flatMap (fun (x : Nat × List Byte) =>
    match entryOf (x.1 / 256) (x.1 % 256) with
    | some e => (match e.ty with
      | .dom lo _ => broken (e.grp == g && decide (x.2.length < lo)) 3 x.1
      | _ => [])
    | none => [])

/-- The failures of one group. -/
def Chip.checkGroup (s new : Chip) (c : Claim) (g : Nat) : List (Nat × Nat) :=
  c.shortDomains g ++
  match g with
  | 0 => new.checkProt c
  | 1 => s.checkEst new c
  | 2 => s.checkSweep new c
  | 3 => s.checkSwitch new c
  | 5 => s.checkTime new c
  | 6 => new.checkRec c
  | 7 => s.checkNet new c
  | 8 => s.checkTine new c
  | _ => []

/-- The first failing group with its result and object. -/
def Chip.checkClaim (s : Chip) (c : Claim) : Option (Nat × Nat × Nat) :=
  let new := s.withStaged c
  (bitsSet 9 c.groups).findSome? (fun g => ((s.checkGroup new c g).head?).map (fun x => (g, x.1, x.2)))

/-- What a CHECK shows beside 201g: 0x3006 for a refused matrix; 2E00:05, CHECKFAIL and 0x6043, and 1031:04 for TINE. -/
def Chip.showCheck (s : Chip) (c : Claim) : Chip :=
  let new := s.withStaged c
  let s := match (if bit c.groups 0 then new.matrixRefusal else none) with
    | some x => s.post 0x3006 0 (le 1 x.1 ++ le 4 x.2.1)
    | none => s
  if bit c.groups 8 then
    let t := s.tineResult new c
    let s := match s.firmwareResult c with | some v => s.wr 0x1031 0x04 v | none => s
    let s := s.wr 0x2E00 0x05 t.1
    let s := if t.1 == 0 then s else s.post 0x6043 t.2 (le 1 t.1 ++ le 1 (masterCode c.owner))
    if t.1 == 0 && (s.firmwareResult c).getD 0 == 0 then s else s.flag 0x2E00 0x01 0
  else s

/-- 201g:07 and 08 of the claim's groups. -/
def Chip.setResult (s : Chip) (c : Claim) (f : Nat → Nat × Nat) : Chip :=
  (bitsSet 9 c.groups).foldl (fun s g => (s.wr (0x2010 + g) 0x07 (f g).1).wr (0x2010 + g) 0x08 (f g).2) s

/-- CHECK of a claim finishes: it commits at the next tick edge, or is rolled back. -/
def Chip.checkComplete (s : Chip) (id : Nat) : Chip :=
  match s.claims.find? (fun c => c.id == id && c.edit && c.run == .check && c.next == .stay) with
  | none => s
  | some c =>
    let res := s.checkClaim c
    let s := s.showCheck c
    match res with
    | none => (s.setResult c (fun _ => (0, 0))).setClaim { c with next := .commit }
    | some (g, x, o) =>
      let s := s.setResult c (fun h => if h == g then (x, o) else (0, 0))
      s.rollback c 0x8007 (le 1 g ++ le 1 x ++ le 4 o)

/-- CHECK_COMPLETE. -/
def execCheckComplete (claim : BitVec 16) : State → Host.Outcome State Fault Refusal :=
  lift (fun s => if s.up then s.checkComplete claim.toNat else s)

end Sys2Proof.Machine
end

