-- ==== Sys2Proof/Machine/Modes.lean ====
section
/-!
DEFINITION. Sys2Proof/Machine/Modes.lean: mode requests and the mode transitions of the start (R28–R35, R579, R628, R660).
-/

namespace Sys2Proof.Machine

/-! ## Mode requests (R31–R35) -/

/-- A refused mode request, with 0xA012: the issuer, the code requested and the mode (R31, R35). -/
def Chip.refuseMode (s : Chip) (issuer code : Nat) (st : Status) : Chip :=
  (s.post 0xA012 issuer (le 1 code ++ le 1 s.mode.code)).answer st

/-- The condition of R28 for the transition to ACTIVE besides the mode: PROT in RUN, no trip latched. -/
def Chip.mayActivate (s : Chip) : Bool := s.runOf 0 == .run && s.trip.latched == 0

/-- Coils of the strings in their closing steps are released: an opening wins over a closing (R27, R34). -/
def Chip.releaseClosing (s : Chip) : Chip :=
  (List.range 32).foldl (fun s n =>
    if (s.st n).sw == .testing || (s.st n).sw == .closing then s.releaseCoils n 3 else s) s

/-- The way to SHUTDOWN (R31, R34, R639): a closing sequence aborts, an orderly disconnect comes first where strings are closed or
on their way to open. -/
def Chip.goShutdown (s : Chip) : Chip :=
  let s := if s.trans == .toActive then s.releaseClosing.abortSeq 0 else s
  if (List.range 32).any s.engaged || s.swi.ramp then { s with trans := .toShutdown }.orderRamp [] true
  else s.releaseClosing.enterShutdown

/-- ACTIVE to READY, after the orderly disconnect of every string (R28). -/
def Chip.goReady (s : Chip) : Chip :=
  if (List.range 32).any s.engaged || s.swi.ramp then { s with trans := .toReady }.orderRamp [] true
  else (s.releaseClosing.suspendClosing true).setMode .ready

/-- A mode request ACTIVE of the same tick gives way to READY: it is refused with BUSY and 0xA012 (R33). -/
def Chip.yieldActive (s : Chip) : Chip :=
  match s.actReq with
  | some m => { s.post 0xA012 m (le 1 4 ++ le 1 s.mode.code) with actReq := none, actAns := some .busy }
  | none => s

/-- A mode request with a code of 2000:02; 0x00 has no effect. A request ACTIVE whose condition is met starts its transition at the
tick edge, since READY in the same tick would be taken instead (R33; log entry 116). A second request SHUTDOWN on the way down is accepted
without effect (log entry 117). -/
def Chip.requestMode (s : Chip) (issuer code : Nat) : Chip :=
  if code == 0 then s
  else if code == 6 then (if s.mode == .shutdown || s.trans == .toShutdown then s else s.goShutdown)
  else if code == 3 then
    let s := { s.yieldActive with readyTick := some s.ticks }
    if s.trans == .toActive then s.abortSeq 6
    else if s.trans != .none then s.refuseMode issuer code .busy
    else match s.mode with
      | .ready => s
      | .active => s.goReady
      | _ => s.refuseMode issuer code .state
  else if code == 4 then
    if s.trans != .none || s.actReq.isSome then s.refuseMode issuer code .busy
    else match s.mode with
      | .active => s
      | .ready =>
        if s.readyTick == some s.ticks then s.refuseMode issuer code .busy
        else if s.mayActivate then { s with actReq := some issuer, actAns := none }
        else s.refuseMode issuer code .state
      | _ => s.refuseMode issuer code .state
  else s.answer .range

/-- The mode request ACTIVE of the tick that has ended is taken at the tick edge, where its condition still holds. -/
def Chip.takeActive (s : Chip) : Chip :=
  match s.actReq with
  | none => s
  | some m =>
    let s := { s with actReq := none }
    if s.mode == .ready && s.trans == .none && s.mayActivate then { s with actAns := some .ok }.startSequence
    else { s.post 0xA012 m (le 1 4 ++ le 1 s.mode.code) with actAns := some (if s.trans == .none then Status.state else .busy) }

/-- MODE_REQUEST (R35, R574): an action of SWITCH. -/
def Chip.modeRequest (s : Chip) (m : Master) (code : Nat) : Chip :=
  s.action m 3 (fun s => s.requestMode (masterCode m) code)

def execModeRequest (m : Master) (code : Byte) : State → Host.Outcome State Fault Refusal :=
  lift (fun s => if s.up then s.modeRequest m code.toNat else s)

/-- A start by auto-activate (R660), refused with 0xA012 as a mode request ACTIVE would be, during a transition too (R31); it is recorded as
a supervisor policy. -/
def Chip.autoStart (s : Chip) : Chip :=
  if s.rd 0x2000 0x04 == 1 && s.mode == .ready then
    (if s.trans == .none && s.mayActivate then s.startSequence else s.post 0xA012 0x10 (le 1 4 ++ le 1 3))
  else s

/-! ## The start (R28, R628, R632) -/

/-- Discovery of every configured ring (R137); the ring of a block without four healthy lanes (R29), or of a region that is still held (R462),
is not admitted. -/
def Chip.discoverAll (s : Chip) : Chip :=
  (List.range 16).foldl (fun s r =>
    if !s.configured r || (s.ring r).disc then s
    else if (s.ring r).unfit then s.setRing r { s.ring r with done := true }
    else s.startDiscovery r) s

/-- BOOT_COMPLETE: with the adopt handshake complete, BOOT ends in DISCOVER, or in SAFE-HOLD while its latch is set; a device
that has entered SAFE-HOLD in BOOT runs discovery within it. -/
def Chip.bootComplete (s : Chip) : Chip :=
  if !s.up || !s.power.started || s.power.recovery || s.adopt.status == 0 then s
  else match s.mode with
    | .boot => (if s.adopt.safeHold then s.enterSafeHold 0 else s.setMode .discover).discoverAll
    | .safeHold =>
      if (List.range 16).any (fun r => (s.ring r).disc || (s.ring r).done) then s else s.discoverAll
    | _ => s

def execBootComplete : State → Host.Outcome State Fault Refusal := lift Chip.bootComplete

/-- DISCOVER_COMPLETE: READY is entered once every configured ring is discovered or timed out. The command comes when time is
locked or its acquisition timeout has run out (log entry 67). -/
def Chip.discoverComplete (s : Chip) : Chip :=
  if !s.up || s.mode != .discover || (List.range 16).any (fun r => s.configured r && !(s.ring r).done) then s
  else
    let s := (s.setMode .ready).post 0xA009 0 (le 4 s.clk.sincePor)
    let minFw := imgMinFw (s.image (32 + s.rd 0x1030 0x01))
    let s := (s.wr 0x1031 0x06 0).wr 0x1031 0x05 (max (s.rd 0x1031 0x05) minFw)
    { s with power := { s.power with booting := 0 } }.autoStart

def execDiscoverComplete : State → Host.Outcome State Fault Refusal := lift Chip.discoverComplete

/-! ## Commanded restart (R579) -/

/-- COMMANDED_RESTART: the restart follows at the next tick edge. -/
def Chip.commandedRestart (s : Chip) (m : Master) (v : Nat) : Chip :=
  s.action m 8 (fun s =>
    if v == 0x5A then { s with power := { s.power with restart := some (masterCode m) } } else s.answer .range)

def execCommandedRestart (m : Master) (v : Byte) : State → Host.Outcome State Fault Refusal :=
  lift (fun s => if s.up then s.commandedRestart m v.toNat else s)

end Sys2Proof.Machine
end

