-- ==== Sys2Proof/Machine/Commit.lean ====
section
/-!
DEFINITION. Sys2Proof/Machine/Commit.lean: the commit of a claim at the tick edge after its CHECK (R549, R577), and what each
group does at its return to RUN.
-/

namespace Sys2Proof.Machine

/-- Profile objects and the profile numbers of strings take effect at PROFILE_APPLY (R246). -/
def profileKey (k : Nat) : Bool :=
  (0x2810 ≤ k / 256 && k / 256 ≤ 0x2817) || (0x2840 ≤ k / 256 && k / 256 ≤ 0x285F && k % 256 == 0x01)

/-! ## NET (R581, R590) -/

/-- Close a session with 0x8002; 2C1s:04–05 keep their counts until another opens. -/
def Chip.closeSession (s : Chip) (k cause : Nat) : Chip :=
  if (s.sess k).role == 0 then s
  else
    let i := 0x2C10 + k
    let s := (((s.wr i 0x01 0).wr i 0x02 0xFF).wr i 0x03 0).wr 0x2C00 0x01 (s.rd 0x2C00 0x01 - 1)
    ({ s with sessions := Map.erase k s.sessions }).post 0x8002 k (le 1 cause)

/-- A committed change of 2C20+p:02–07 closes every session on the port. -/
def Chip.reopenPort (s old : Chip) (p : Nat) : Chip :=
  if [0x02, 0x04, 0x05, 0x06, 0x07].any (fun j => s.rd (0x2C20 + p) j != old.rd (0x2C20 + p) j) then
    (List.range 8).foldl (fun s k => if (s.sess k).port == p then s.closeSession k 0 else s) s
  else s

def Chip.commitNet (s old : Chip) : Chip :=
  let s := (List.range 4).foldl (fun s p => s.reopenPort old p) s
  (List.range 4).foldl (fun s p => (s.canPower p).canLimits p) s

/-! ## Settings held in slices (R116, R178, R181, R219) -/

/-- Queue the register writes of a position whose words the commit has changed. BOFS waits for the period where that changes
too (R46). -/
def Chip.rewriteSlice (s old : Chip) (r p : Nat) : Chip :=
  if s.herdState r p == 2 then
    let kh2 := s.herdType r p == 2
    let was := old.configWords r p kh2
    (s.configWords r p kh2).foldl (fun s w =>
      if was.contains w || (w.1 == 0x10 && s.clk.newP.isSome) then s else s.request r p 5 (writePayload w.1 w.2)) s
  else s

/-- A new filter corner (R178): 0x200E, and the half settles until FILTER_SETTLED. -/
def Chip.commitCorner (s old : Chip) (r h : Nat) : Chip :=
  let a := old.rd (0x3010 + r) (0x01 + h)
  let b := s.rd (0x3010 + r) (0x01 + h)
  if a == b then s
  else ({ s with settling := Map.write 0 s.settling (2 * r + h) 1 }).post 0x200E r (le 1 h ++ le 1 a ++ le 1 b)

/-- After a commit of SWEEP the words it changed; after every commit of PROT the protection words of every slice (R217). -/
def Chip.commitSlices (s old : Chip) (c : Claim) : Chip :=
  (List.range 16).foldl (fun s r =>
    let s := if c.hits (0x3010 + r) (0x3010 + r) then
        (List.range 64).foldl (fun s p => s.rewriteSlice old r p) ((s.commitCorner old r 0).commitCorner old r 1)
      else s
    if bit c.groups 0 then ((List.range 64).filter (s.hasPath r)).foldl (fun s p => s.protSlice r p) s else s) s

/-! ## SWITCH (R360–R365, R383, R660) -/

/-- Selecting another IN mode is a command to follow the pin (R365): the channel turns off where its on-condition has become false, and on
where it has become true. The power die takes it only after adopt (R13, R25); till then the channel holds (R24; log entry 142). -/
def Chip.remode (s old : Chip) (k : Nat) : Chip :=
  let a := old.rd (0x2410 + k) 0x05
  if s.rd (0x2410 + k) 0x05 == a || !s.adopted then s
  else if (s.ch k).wants (s.pinOf k) a then s.settleOff k
  else s.follow k

/-- A commit of SWITCH: the channels follow, the channel image is written (R383), and auto-activate may start (R660). -/
def Chip.commitSwitch (s old : Chip) (c : Claim) : Chip :=
  let s := ((List.range 16).foldl (fun s k => s.remode old k) s).saveImage
  if c.val 0x2000 0x04 == some 1 then s.autoStart else s

/-! ## TINE (R419, R422, R633) -/

/-- An activation is recorded; a lane kernel that strings use is broadcast in the next guard phase. -/
def Chip.activated (s : Chip) (k : Nat) : Chip :=
  let i := 0x2E10 + k
  let s := s.post 0x6040 k (le 1 (s.rd i 0x03) ++ le 4 (s.rd i 0x04) ++ le 8 (digest8 (s.image k)))
  if s.rd i 0x02 == 1 && (List.range 16).any (fun r => (s.ringKernels r).contains k) && !s.kernels.contains k then
    { s with kernels := s.kernels ++ [k] }
  else s

/-- A committed firmware image is written into the slot that does not run, with 0xA008 (R633). -/
def Chip.commitFirmware (s : Chip) (b : List Byte) : Chip :=
  let t := s.rd 0x1031 0x01
  let s := { s with images := Map.write (imageDefault (32 + t)) s.images (32 + t) b }
  let s := ((s.wr 0x1030 (0x02 + t) (imgVersion b)).wr 0x1030 (0x04 + t) 1)
  s.post 0xA008 t (le 4 (imgVersion b) ++ le 8 (digest8 b))

def Chip.commitTine (s : Chip) (c : Claim) : Chip :=
  let k := s.rd 0x2E00 0x02
  let s := if (c.bytes 0x2E00 0x03).isSome then s.forgetCounts k else s
  let s := (s.putImages c)
  let s := (c.activates.foldl (fun s k => ((s.activated k).forgetCounts k).forgetFaults k) s).showImages
  match c.bytes 0x1031 0x02 with
  | some b => s.commitFirmware b
  | none => s

/-! ## The commit (R549, R556, R577) -/

/-- Committed values: those of profiles wait for their PROFILE_APPLY, the others are in force. -/
def Chip.putCommitted (s : Chip) (c : Claim) : Chip :=
  let s := s.put { c with staged := c.staged.filter (fun (x : Nat × Nat) => !profileKey x.1)
                          stagedDom := c.stagedDom.filter (fun (x : Nat × List Byte) => !profileKey x.1) }
  { s with profPend := mergeInto s.profPend (c.staged.filter (fun (x : Nat × Nat) => profileKey x.1))
           profPendDom := mergeInto s.profPendDom (c.stagedDom.filter (fun (x : Nat × List Byte) => profileKey x.1)) }

/-- A ring that no string names any more is unconfigured (R137). -/
def Chip.dropUnnamed (s : Chip) (r : Nat) : Chip :=
  if s.configured r || s.ringState r == 0 then s else (s.setRing r { s.ring r with disc := false, done := true }).setRingState r 0

/-- What the groups of a claim do at their return to RUN. -/
def Chip.returnToRun (s old : Chip) (c : Claim) : Chip :=
  let g (n : Nat) : Bool := bit c.groups n
  let p := s.rd 0x2100 0x01
  let s := if g 5 && (c.val 0x2100 0x01).isSome && p != s.clk.p then { s with clk := { s.clk with newP := some p } } else s
  let s := if g 0 then s.sendCommit else s
  let s := if g 0 || g 2 then s.commitSlices old c else s
  let s := if g 5 then [0, 1].foldl Chip.showPort s else s
  let s := if g 7 then s.commitNet old else s
  let s := if g 8 then s.commitTine c else s
  let s := (List.range 16).foldl Chip.dropUnnamed s
  if g 3 then s.commitSwitch old c else s

/-- Event 0x8006: the groups, and the index of each staged write (R549, R556). -/
def Claim.indices (c : Claim) : List Byte :=
  let ks := c.staged.map (·.1) ++ c.stagedDom.map (·.1)
  le 2 ks.length ++ ks.flatMap (fun k => le 2 (k / 256))

def Chip.commit (s : Chip) (c : Claim) : Chip :=
  let old := s
  let s := (s.putCommitted c).dropClaim c.id
  let s := s.returnToRun old c
  let s := (bitsSet 9 c.groups).foldl (fun s g => s.inc 32 (0x2010 + g) 0x09) s
  s.post 0x8006 (masterCode c.owner) (le 2 c.groups ++ c.indices)

/-- At a tick edge the claims that passed CHECK commit, and those rolled back return to RUN. A boundary move that a commit needs shares
its edge (R57, R72, R73). -/
def Chip.settleClaims (s : Chip) : Chip :=
  let done := s.claims.filter (fun c => c.next == .commit)
  let s := done.foldl Chip.commit s
  let s := if done.isEmpty then s else (List.range 16).foldl Chip.rebalance s
  { s with claims := s.claims.filter (fun c => c.next != .rollback) }

end Sys2Proof.Machine
end

