-- ==== Sys2Proof/Machine/Lockstep.lean ====
section
/-!
DEFINITION. Sys2Proof/Machine/Lockstep.lean: faults of lockstep pairs, and the debug port (14_lockstep_execution).
-/

namespace Sys2Proof.Machine

/-! ## Faults of a pair (R484, R485, R489, R490) -/

/-- Comparison of a pair is off, so that nothing of it is reported (R494). -/
def Chip.unchecked (s : Chip) : PairId → Bool
  | .tine (.lane b l) => s.rdBit (0x6040 + b) 0x03 l
  | .tine (.ringCtl r) => s.rdBit (0x6040 + r) 0x03 5
  | _ => s.lock.chipOff

/-- Block of a pair, for 604b:02. -/
def pairBlock : PairId → Option Nat
  | .tine (.lane b _) => some b
  | .tine (.ringCtl r) => some r
  | _ => none

/-- Bytes of a value of each compared group of R476. -/
def groupBytes (g : Nat) : Nat := [13, 5, 9, 5, 4].getD g 0

/-- Detail of 0x6001: group, cycle count, PC and both values. -/
def mismatchDetail (g : Nat) (cycle pc : Word) (a b : BitVec 104) : List Byte :=
  le 4 (g + 1) ++ le 4 cycle.toNat ++ le 4 pc.toNat ++ le (groupBytes g) a.toNat ++ le (groupBytes g) b.toNat

/-- The Tine of a pair stops in the middle of its invocation; a slow job is abandoned. -/
def Chip.stopLane (s : Chip) (b l : Nat) : Chip :=
  let t := laneTine b l
  let x := s.tine t
  let s := (s.ungrant x.job.pages).setTine t
    { x with run := false, wait := none, stopped := true, job := { x.job with pages := [] } }
  if s.rd (0x2A20 + b) (l + 1) == 1 then s.setLane b l 0 else s

/-- What the fault of a pair does at once: it stops, LSRr or LSSUP asserts, and a Tine without a spare ends its invocation
as at a WATCH fault. -/
def Chip.stopPair (s : Chip) : PairId → Chip
  | .tine (.lane b l) => (s.stopLane b l).tripAssert (37 + b.val / 4)
  | .tine t =>
    let x := s.tine t
    let s := if x.run then (s.faultFollows t x.job.kind).endInvocation t none true else s
    s.setTine t { s.tine t with stopped := true }
  | .supervisor false => { s with lock := { s.lock with supFault := true } }.tripAssert 41
  | .supervisor true => if s.rd 0x2A00 0x03 == 0 then s.wr 0x2A00 0x03 1 else s

/-- Count a mismatch of a pair (R487, R500). -/
def Chip.countMismatch (s : Chip) (p : PairId) : Chip :=
  let n := pairNo p
  let s := { s with lock := { s.lock with times := Map.write [] s.lock.times n (Map.read [] s.lock.times n ++ [s.rd 0x1040 0x01]) } }
  let s := match pairBlock p with
    | some b => s.inc 32 (0x6040 + b) 0x02
    | none => s
  match p with
  | .tine (.lane b l) => s.inc 16 (0x2A20 + b) (0x0B + l)
  | _ => s

/-- LOCKSTEP_MISMATCH or CHECKER_FAULT of a pair whose comparison is on. -/
def Chip.pairFault (s : Chip) (p : PairId) (checker : Bool) (detail : List Byte) : Chip :=
  if s.unchecked p || !s.up then s
  else
    let s := s.inc 32 0x6000 (if checker then 0x03 else 0x02)
    let s := (s.wr 0x6000 0x04 (placeOfPair p)).post (if checker then 0x6002 else 0x6001) (placeOfPair p) detail
    let s := if checker then { s with lock := { s.lock with checker := s.lock.checker ++ [pairNo p] } } else s.countMismatch p
    s.stopPair p

def execLockstepMismatch (p : PairId) (group : Fin 5) (cycle pc : Word) (main checker : BitVec 104) :
    State → Host.Outcome State Fault Refusal :=
  lift (·.pairFault p false (mismatchDetail group cycle pc main checker))

/-- CHECKER_FAULT (R480, R481): rail 1 or parity 2, and the group or byte. -/
def execCheckerFault (p : PairId) (parity : Bool) (item : Fin 64) : State → Host.Outcome State Fault Refusal :=
  lift (·.pairFault p true (le 1 (if parity then 2 else 1) ++ le 4 item))

/-- SUPERVISOR_MISMATCH (R489): the pair in service. -/
def execSupervisorMismatch (checker : Bool) (group : Fin 5) (cycle pc : Word) (main other : BitVec 104) :
    State → Host.Outcome State Fault Refusal :=
  lift (fun s =>
    if checker then s.pairFault (.supervisor false) true (le 1 1 ++ le 4 (group.val + 1))
    else s.pairFault (.supervisor false) false (mismatchDetail group cycle pc main other))

/-- A stopped Tine without a spare starts again at its next invocation, or is retired: after a checker fault, a failed
injection or a third mismatch within 24 h (R490). -/
def Chip.resumeNonspare (s : Chip) (t : TineId) (injectionOk : Bool) : Chip :=
  let x := s.tine t
  if !x.stopped || x.retired then s
  else if s.lock.checker.contains (tineNo t) || !injectionOk || decide (3 ≤ s.mismatchesIn (.tine t) 86400) then s.retireNonspare t
  else s.setTine t { x with stopped := false }

/-- NONSPARE_TINE_MISMATCH (R490): a Tine that fails goes on after the guard phase's injection, which GUARD_PHASE brings;
one that must be retired is retired now. -/
def Chip.nonspareMismatch (s : Chip) (t : TineId) (checker injectionOk : Bool) (detail : List Byte) : Chip :=
  if t.isLane || (s.tine t).retired || s.unchecked (.tine t) then s
  else
    let s := s.pairFault (.tine t) checker detail
    if s.lock.checker.contains (tineNo t) || !injectionOk || decide (3 ≤ s.mismatchesIn (.tine t) 86400) then s.resumeNonspare t false
    else s

def execNonspareTineMismatch (t : TineId) (checker : Bool) (group : Fin 5) (cycle pc : Word) (main other : BitVec 104)
    (injectionOk : Bool) : State → Host.Outcome State Fault Refusal :=
  lift (fun s => s.nonspareMismatch t checker injectionOk
    (if checker then le 1 1 ++ le 4 (group.val + 1) else mismatchDetail group cycle pc main other))

/-! ## Replaced pairs (R487, R489) -/

/-- Cause of a retirement, 0 where the pair may return: 1 mismatch count, 2 checker fault, 3 self-test. -/
def Chip.retireCause (s : Chip) (p : PairId) (pass : Bool) : Nat :=
  if s.lock.checker.contains (pairNo p) then 2
  else if !pass then 3
  else if s.mismatchesIn p (86400 * s.rd 0x6000 0x06) < s.rd 0x6000 0x05 then 0
  else 1

/-- REPLACED_PAIR_TEST: a pair out of service becomes the idle spare, with 0x6005, or is retired with 0x6006. -/
def Chip.replacedPairTest (s : Chip) (p : PairId) (pass : Bool) : Chip :=
  let why := s.retireCause p pass
  let say (s : Chip) : Chip :=
    if why == 0 then s.post 0x6005 (placeOfPair p) (le 4 (s.mismatchesIn p (86400 * s.rd 0x6000 0x06)))
    else s.post 0x6006 (placeOfPair p) (le 1 why)
  match p with
  | .tine (.lane b l) =>
    if s.rd (0x2A20 + b) (l + 1) != 0 || (s.logicalOf b l).isSome then s
    else if why == 0 then say ((s.setTine (laneTine b l) {}).setLane b l (if (s.idleSpare b).isSome then 0 else 1))
    else say (s.setLane b l 2)
  | .supervisor true =>
    if s.rd 0x2A00 0x03 != 1 then s
    else say (s.wr 0x2A00 0x03 (if why == 0 then 0 else 2))
  | _ => s

def execReplacedPairTest (p : PairId) (pass : Bool) : State → Host.Outcome State Fault Refusal := lift (·.replacedPairTest p pass)

/-- Counts of the two supervisor pairs change places with them. -/
def Lockstep.swapSup (x : Lockstep) : Lockstep :=
  let t := Map.write [] (Map.write [] x.times 101 (Map.read [] x.times 102)) 102 (Map.read [] x.times 101)
  { x with times := t, checker := x.checker.map (fun n => if n == 101 then 102 else if n == 102 then 101 else n), supFault := false }

/-- SUPERVISOR_TAKEOVER (R489, R554): at the next tick edge, the spare resumes from supervisor memory; without one, the
compute die restarts. Leases with a tick or less left are extended by a tick. -/
def State.supervisorTakeover (s : State) : State :=
  let c := s.chip
  if !c.lock.supFault || !c.up then s
  else if c.rd 0x2A00 0x03 == 0 then
    let c := ({ c with lock := c.lock.swapSup }.tripDeassert 41).takeSupervisor 2
    { s with chip := { c with claims := c.claims.map (fun x => if x.left ≤ c.clk.p then { x with left := x.left + c.clk.p } else x) } }
  else s.controlledReset 0x6066 0 (le 1 0)

def execSupervisorTakeover (s : State) : Host.Outcome State Fault Refusal := .next s.supervisorTakeover

/-! ## Unlocking the debug port (R491–R498) -/

/-- A session is open: 6050:01 reads 2–5. -/
def Chip.debugOpen (s : Chip) : Bool := decide (2 ≤ s.rd 0x6050 0x01) && decide (s.rd 0x6050 0x01 ≤ 5)

/-- The Tine at a place of the PLACE format. -/
def tineAt (w : Nat) : Option TineId :=
  ((List.range 80).map (fun n => laneTine (n / 5) (n % 5)) ++ (List.range 16).map (fun r => TineId.ringCtl (Fin.ofNat 16 r)) ++
    (List.range 4).map (fun p => TineId.can (Fin.ofNat 4 p)) ++ [TineId.recorder]).find? (fun t => placeOf t == w)

/-- Blocks that a target names at a scope code: a block or region by its lane or ring-controller class (log entry 55). -/
def scopeBlocks (scope w : Nat) : Option (List Nat) :=
  let b := bits w 11 8 * 4 + bits w 7 4
  let cls := bits w 15 12 == 1 || bits w 15 12 == 2
  if scope == 2 then (if cls && bits w 11 8 < 4 && bits w 7 4 < 4 && bits w 3 0 == 0 then some [b] else none)
  else if scope == 3 then (if cls && bits w 11 8 < 4 && bits w 7 0 == 0 then some (regionBlocks (bits w 11 8)) else none)
  else if scope == 4 then (if w == 0 then some (List.range 16) else none)
  else none

/-- Is the target one that the scope reaches (R491)? A ring-controller Tine and the supervisor pair in service are reached
only at block scope or wider. -/
def Chip.targetOk (s : Chip) (scope w : Nat) : Bool :=
  if scope == 1 then
    (match tineAt w with
     | some (.ringCtl _) => false
     | some _ => true
     | none => w == 0 && s.rd 0x2A00 0x03 == 0)
  else (scopeBlocks scope w).isSome

/-- `n` random bytes. -/
def Chip.drawBytes : Nat → Chip → List Byte × Chip
  | 0, s => ([], s)
  | n + 1, s =>
    let (v, s) := s.draw
    let (bs, s) := Chip.drawBytes n s
    (BitVec.ofNat 8 v :: bs, s)

/-- DEBUG_UNLOCK_REQUEST (R496, R498). -/
def Chip.unlockRequest (s : Chip) (m : Master) (w : Nat) : Chip :=
  s.process m (fun s =>
    let scope := bits w 31 24
    let word := bits w 15 0
    if s.rd 0x6050 0x01 == 6 then s.commanded m 0x6050 0x02 4 w .ok
    else if s.debugOpen then (s.answer .busy).commanded m 0x6050 0x02 4 w .busy
    else if bits w 23 16 != 0 || !s.targetOk scope word then (s.answer .range).commanded m 0x6050 0x02 4 w .range
    else
      let (nonce, s) := Chip.drawBytes 32 s
      let chal := nonce ++ le 8 (s.rd 0x1020 0x00) ++ le 4 w ++ le 4 (s.rd 0x6050 0x06 + 1)
      let s := ((s.wr 0x6050 0x02 w).wrDom 0x6050 0x03 chal).wr 0x6050 0x01 1
      { s with lock := { s.lock with nonce := nonce, request := w, issued := s.ms, used := false } }.post 0x6008 (masterCode m)
        (le 1 scope ++ le 2 word ++ le 4 0))

def execDebugUnlockRequest (m : Master) (word : Word) : State → Host.Outcome State Fault Refusal := lift (·.unlockRequest m word.toNat)

/-- The lane that a single-pair request names. -/
def targetLane (w : Nat) : Option (Nat × Nat) :=
  match tineAt w with
  | some (.lane b l) => some (b.val, l.val)
  | _ => none

/-- Why a response is refused (0x6009): 0 where it is accepted. -/
def Chip.unlockRefusal (s : Chip) (r : List Byte) : Nat :=
  let cert := r.take 120
  let w := s.lock.request
  let byRoot := beAt cert 41 4 == s.rd 0x6050 0x09 && certSigned (Config.rootKey (s.rd 0x6050 0x09)) cert
  if s.lock.nonce.isEmpty || s.lock.used then 4
  else if s.lock.issued + 60000 < s.ms then 3
  else if !(byRoot || certSigned (s.rdDom 0x2900 0x20) cert) || !s.certCurrent cert then 2
  else if !Config.ecdsaVerify ((cert.drop 8).take 33) (Config.sha256 (s.rdDom 0x6050 0x03)) (r.drop 120) then 1
  else match (if bits w 31 24 == 1 then targetLane (bits w 15 0) else none) with
    | some (b, l) => if (s.logicalOf b l).isSome && (s.idleSpare b).isNone then 5 else 0
    | none => 0

/-- A refused response (R498): three in a row lock the port out. -/
def Chip.refuseUnlock (s : Chip) (m : Master) (why : Nat) : Chip :=
  let s := ((s.post 0x6009 (masterCode m) (le 1 why)).wr 0x6050 0x08 (min 255 (s.rd 0x6050 0x08 + 1))).answer .refused why
  let s := { s with lock := { s.lock with used := true } }
  if s.debugOpen then s
  else s.wr 0x6050 0x01 (if 3 ≤ s.rd 0x6050 0x08 then 6 else 0)

/-- DEBUG_SCOPE_BREAK (R494): comparison ends in the blocks of the scope, and the device enters SAFE-HOLD with DBGSCOPE. -/
def Chip.scopeBreak (s : Chip) (scope w : Nat) : Chip :=
  let s := ((scopeBlocks scope w).getD []).foldl (fun s b => s.wr (0x6040 + b) 0x03 0x3F) s
  let s := { s with lock := { s.lock with chipOff := s.lock.chipOff || scope == 4 } }
  ((s.wrBit 0x6000 0x01 0 true).post 0x600B 0 (le 1 scope ++ le 2 w)).enterSafeHold 1

/-- A session opens (R492, R497). A lane that holds a range is handed over at the tick edge first. -/
def Chip.openSession (s : Chip) (m : Master) (issuer : Nat) : Chip :=
  let w := s.lock.request
  let scope := bits w 31 24
  let word := bits w 15 0
  let s := ((s.inc 32 0x6050 0x06).wr 0x6050 0x08 0).wr 0x6050 0x01 (scope + 1)
  let s := { s with lock := { s.lock with used := true, since := s.ms, target := word, waiting := false } }.post 0x6008 (masterCode m)
    (le 1 scope ++ le 2 word ++ le 4 issuer)
  if scope != 1 then s.scopeBreak scope word
  else match targetLane word with
    | some (b, l) =>
      if (s.logicalOf b l).isSome then { s with lock := { s.lock with waiting := true } }
      else if s.rd (0x2A20 + b) (l + 1) == 2 then s
      else s.setLane b l 3
    | none => s

/-- DEBUG_RESPONSE (R497, R498). While the port is locked out a response is ignored. -/
def Chip.debugResponse (s : Chip) (m : Master) (r : List Byte) : Chip :=
  s.process m (fun s =>
    if r.length != 184 then s.answer .type
    else if s.rd 0x6050 0x01 == 6 then s
    else
      let why := s.unlockRefusal r
      if why != 0 then s.refuseUnlock m why else s.openSession m (beAt r 41 4))

def execDebugResponse (m : Master) (response : List Byte) : State → Host.Outcome State Fault Refusal :=
  lift (·.debugResponse m response)

/-- SINGLE_PAIR_HANDOVER (R492): at the tick edge the spare takes the range, and the debugger gains control; without a spare it waits. -/
def Chip.singlePairHandover (s : Chip) : Chip :=
  if !s.lock.waiting then s
  else
    let on : Chip := { s with lock := { s.lock with waiting := false } }
    match targetLane s.lock.target with
    | none => on
    | some (b, l) =>
      match s.logicalOf b l, s.idleSpare b with
      | some i, some k =>
        let s : Chip := { on with sched := { on.sched with phys := Map.write i on.sched.phys (b * 4 + i) k } }
        let s := (s.setLane b k 0).setTine (laneTine b k) {}
        ((s.setTine (laneTine b l) { s.tine (laneTine b l) with run := false, wait := none, ctxs := [] }).setLane b l 3).bumpLane b i
      | some _, none => s
      | none, _ => if s.rd (0x2A20 + b) (l + 1) == 2 then on else on.setLane b l 3

/-- The profile copies and kernel data go to the spare with the range (R486). -/
def execSinglePairHandover (s : State) : Host.Outcome State Fault Refusal :=
  let c := s.chip
  let mem := match (if c.lock.waiting then targetLane c.lock.target else none) with
    | some (b, l) => (match c.logicalOf b l, c.idleSpare b with
      | some _, some k => s.mem.copyLane (laneTine b l) (laneTine b k)
      | _, _ => s.mem)
    | none => s.mem
  .next { s with chip := c.singlePairHandover, mem := mem }

/-! ## The end of a session (R492, R493, R499) -/

/-- The debugger lets go of every core. -/
def Chip.letGo (s : Chip) : Chip :=
  { s with tines := s.tines.each {} (fun x => { x with halted := false, once := false }) }

/-- The session ends: 0x600A, the port is locked; a lane under debug goes to its test (R487); deferred swaps may go on.
Comparison that the session broke stays broken (R495). -/
def Chip.endSession (s : Chip) (cause : Nat) : Chip :=
  let d := (s.ms - s.lock.since) / 1000
  let s := ((s.wr 0x6050 0x01 0).post 0x600A 0 (le 1 cause ++ le 4 d)).wrBit 0x2A00 0x01 2 false
  let s := { s with lock := { s.lock with waiting := false, deferred := [] } }.letGo
  match targetLane s.lock.target with
  | some (b, l) => if s.rd (0x2A20 + b) (l + 1) == 3 then s.setLane b l 0 else s
  | none => s

/-- DEBUG_LOCK (R499): 6050:05 reads 0. -/
def Chip.debugLock (s : Chip) (m : Master) (v : Nat) : Chip :=
  s.process m (fun s =>
    if v ≠ 1 then (s.answer .range).commanded m 0x6050 0x05 1 v .range
    else if s.debugOpen then s.endSession 1
    else s.commanded m 0x6050 0x05 1 v .ok)

def execDebugLock (m : Master) (v : Byte) : State → Host.Outcome State Fault Refusal := lift (·.debugLock m v.toNat)

def execJtagTestReset : State → Host.Outcome State Fault Refusal := lift (fun s => if s.debugOpen then s.endSession 2 else s)

/-- DEBUG_INACTIVITY (R499): the time of 6050:07 has passed without a debug access. -/
def execDebugInactivity : State → Host.Outcome State Fault Refusal := lift (fun s => if s.debugOpen then s.endSession 4 else s)

/-- DEBUG_LOCKOUT_END (R498): 600 s after the third refusal. -/
def execDebugLockoutEnd : State → Host.Outcome State Fault Refusal :=
  lift (fun s => if s.rd 0x6050 0x01 == 6 then (s.wr 0x6050 0x01 0).wr 0x6050 0x08 0 else s)

/-! ## A debugger's actions (R493) -/

/-- Does the open session reach this Tine? -/
def Chip.reaches (s : Chip) (t : TineId) : Bool :=
  let scope := s.rd 0x6050 0x01 - 1
  s.debugOpen &&
  (if scope == 1 then s.lock.target == placeOf t && !s.lock.waiting
   else if scope == 4 then true
   else match t with
    | .lane b _ => ((scopeBlocks scope s.lock.target).getD []).contains b.val
    | .ringCtl r => ((scopeBlocks scope s.lock.target).getD []).contains r.val
    | _ => false)

/-- What an action does to the main core, and through the delay line to the checker. STAT takes its flags, TIMER its value
in a ring controller; the other special registers are read-only. -/
def Tine.debug (x : Tine) (t : TineId) : DebugAct → Tine
  | .halt => { x with halted := true, once := false }
  | .breakpoint => { x with halted := true, once := false }
  | .resume => { x with halted := false, once := false }
  | .singleStep => { x with once := x.halted }
  | .writeG i v => { x with job := x.job.setG i.val v }
  | .writeV i lo hi => { x with job := (x.job.setV false i.val lo).setV true i.val hi }
  | .writeS n v =>
    if n = 0x06 then { x with job := { x.job with stat := bits v.toNat 4 0 + (if bit v.toNat 8 then 256 else 0) } }
    else if n = 0x0B && t.isRing then { x with timer := v.toNat }
    else x

def execDebuggerAction (t : TineId) (act : DebugAct) : State → Host.Outcome State Fault Refusal :=
  lift (fun s => if s.reaches t then s.setTine t ((s.tine t).debug t act) else s)

end Sys2Proof.Machine
end

