-- ==== Sys2Proof/Machine/RingPop.lean ====
section
/-!
DEFINITION. Sys2Proof/Machine/RingPop.lean: discovery, population scans, lost slices, ring faults and restoration
(04_ring_population R137–R170).
-/

namespace Sys2Proof.Machine

/-- REDISCOVER (R137, R554): an action of SWEEP; 1 starts discovery of a configured ring. -/
def Chip.rediscover (s : Chip) (m : Master) (r v : Nat) : Chip :=
  s.action m 2 (fun s => if v ≠ 1 then s.answer .range else if s.configured r then s.startDiscovery r else s)

def execRediscover (m : Master) (r : RingNo) (v : Byte) : State → Host.Outcome State Fault Refusal := lift (·.rediscover m r v.toNat)

/-! ## Discovery's end (R140–R147) -/

/-- Positions of the KH2s in a list of slices. -/
def kh2At (xs : List EnumRec) : List Nat := (xs.zipIdx).filterMap (fun x => if x.1.kind == 2 then some x.2 else none)

/-- Where the two ports have found KH2s, on a ring of `n` positions counted from the port of `la`; `lb` are the slices that only the
other port reached, in its order. -/
def kh2Places (n : Nat) (la lb : List EnumRec) : List Nat := kh2At la ++ (kh2At lb).map (fun c => n - 1 - c)

/-- The KH2 placement of R16: no KH2 at a position other than 0 or 32, and at least one unless a position was not reached. -/
def placementOk (n : Nat) (la lb : List EnumRec) : Bool :=
  (kh2Places n la lb).all (fun p => p == 0 || p == 32) && (!(kh2Places n la lb).isEmpty || decide (la.length + lb.length < n))

/-- The number of positions that the persistent herd table holds. -/
def Chip.tableN (s : Chip) (r : Nat) : Nat := ((List.range 64).filter (fun p => (s.hrd (r * 64 + p)).state != 0)).length

/-- Does the persistent table hold these serial numbers from position `p0` on? -/
def Chip.tableMatches (s : Chip) (r p0 : Nat) (xs : List EnumRec) : Bool :=
  (xs.zipIdx).all (fun x => (s.hrd (r * 64 + p0 + x.2)).state != 0 && (s.hrd (r * 64 + p0 + x.2)).serial == x.1.serial)

/-- The same for both sides of a ring. -/
def Chip.bothMatch (s : Chip) (r n : Nat) (la lb : List EnumRec) : Bool :=
  n != 0 && decide (la.length + lb.length ≤ n) && s.tableMatches r 0 la && s.tableMatches r (n - lb.length) lb.reverse

/-- Is logical A physical KnB (R142)? Each direction is tried with all that was found; on an intact ring either port finds every
slice, on a folded one the two together find those of the persistent table. -/
def Chip.pickPortx (s : Chip) (r : Nat) (fromA fromB : List EnumRec) : Bool :=
  let folded := (fromA ++ fromB).any (fun e => bit e.flags 1)
  let far (xs : List EnumRec) : List EnumRec := if folded then xs else []
  let n := if folded then max (s.tableN r) (fromA.length + fromB.length) else fromA.length
  let pa := placementOk n fromA (far fromB)
  let pb := placementOk n fromB (far fromA)
  if pa != pb then pb
  else s.tableN r != 0 && s.bothMatch r n fromB (far fromA) && !s.bothMatch r n fromA (far fromB)

/-- A slice in the role and configuration that discovery's steps 4 and 5 give it. -/
def Slice.discovered (x : Slice) (f : Found) (epoch p flags cumA cumB hop str : Nat) (cfg : List (Nat × List Nat)) : Slice :=
  let e := f.enum
  let x := { x with kh2 := e.kind == 2, serial := BitVec.ofNat 64 e.serial,
                    ver := BitVec.ofNat 24 (e.hwRev * 65536 + e.fwVer), epoch := epoch, posn := p, flags := flags, cumA := cumA,
                    cumB := cumB, str := str, selftest := false, selfTicks := 16, alarms := putBit f.alarms 0 (bit x.alarms 0) }
  cfg.foldl (fun x w => x.writeRegs w.1 w.2) { x with regs := Map.write 0 x.regs 6 (hop % 65536), eff := Map.write 0 x.eff 6 (hop % 65536) }

/-- Enter the slice found at position `p` (R145–R148): ADMITTED and KNOWN where serial number, type and position match the
persistent table, else a fawn; the slice has gone through ASSIGN, configuration and self-test. A direction that was not measured
keeps the delay of the persistent table. `fromB`: reached from logical B only. -/
def Chip.enterFound (s : Chip) (r p : Nat) (f : Found) (fromB folded : Bool) : Chip :=
  let e := f.enum
  let h := s.hrd (r * 64 + p)
  let known := h.state != 0 && h.serial == e.serial && h.type == e.kind
  let st := if known then 2 else 1
  let orient := if fromB then e.connector == 0 else e.connector == 1
  let other := folded && (fromB != decide (32 ≤ p))
  let flags := roleFlags (s.isHead r p) p other orient
  let str := (s.stringOf r p).getD 0xFF
  let s := (s.setHT r 0 p e.serial).setHT r 1 p (st * 4096 + e.kind % 16 * 256 + flags * 16 + (if bit e.flags 1 then 8 else 0) + (if known then 1 else 0))
  let s := ((s.setHT r 3 p h.cumA).setHT r 4 p h.cumB).measureDelays r p f
  let s := (s.setHT r 6 p str).bumpEpoch r p
  let s := s.onSlice r p (fun x => x.discovered f (s.hT r 2 p) p (flags * 16 + (if known then 8 else 0)) (s.hT r 3 p) (s.hT r 4 p)
    (s.hT r 5 p) str (s.configWords r p (e.kind == 2)))
  let s := if !known && h.state == 2 then s.holdFigures r p h.type else s
  if known then (s.persist r p 2).noteAdmission r p
  else if h.state != 0 && h.type != 0 && h.type != e.kind then s.rejectFawn r p 1
  else if e.kind == 1 && s.isHead r p then s.rejectFawn r p 2
  else (s.addFawn r p).post 0x1014 r (le 1 p ++ le 8 e.serial ++ le 1 e.kind)

/-- Positions above N are EMPTY, in the persistent copy as well (R134, R135). DESIGN CHOICE: the figures of a slice admitted there
before are released at once, without the hold of R83 (log entry 157). -/
def Chip.clearAbove (s : Chip) (r n : Nat) : Chip :=
  (List.range 64).foldl (fun s p => if p < n then s else
    (((s.setHT r 0 p 0).setHT r 1 p 0).dropSlot r p).setHrd (r * 64 + p) { epoch := (s.hrd (r * 64 + p)).epoch }) s

/-- The ring is not admitted (R141, R143, R147). -/
def Chip.notAdmitted (s : Chip) (r : Nat) : Chip :=
  let s := (List.range 64).foldl (fun s p => if s.herdState r p == 0 then s else s.setHerdState r p 1) s
  (s.setRing r { s.ring r with disc := false, done := true, fawns := [], queue := [], txs := [] }).setRingState r 5

/-- A population mismatch with the expected and the found N and the head positions (R171). -/
def Chip.mismatchEvent (s : Chip) (r expected found : Nat) (heads : List Nat) : Chip :=
  s.post 0x101E r (le 1 expected ++ le 1 found ++ leList 1 heads)

/-- UNREACHABLE positions of a ring discovered with a fold, as the persistent table has them (R144). -/
def Chip.enterUnreachable (s : Chip) (r p : Nat) : Chip :=
  let h := s.hrd (r * 64 + p)
  let s := (((s.setHT r 0 p h.serial).setHT r 1 p (4 * 4096 + h.type * 256 + h.flags * 16)).setHT r 2 p h.epoch).setHT r 6 p h.str
  (s.setHT r 3 p h.cumA).setHT r 4 p h.cumB

/-- What discovery found at position `p` of `n`, and whether logical B alone reached it. -/
def foundAt (n : Nat) (la lb : List Found) (folded : Bool) (p : Nat) : Option (Found × Bool) :=
  match la[p]? with
  | some f => some (f, false)
  | none => if folded then (lb[n - 1 - p]?).map (fun f => (f, true)) else none

/-- Discovery's entry step, with N slices of which A reaches `la` and B reaches `lb` (from logical B on). -/
def Chip.enterAll (s : Chip) (r n : Nat) (la lb : List Found) (folded : Bool) (ms : Nat) : Chip :=
  let s := (s.wr (0x3107 + 16 * r) 0x02 n).setRing r { s.ring r with fawns := [], fawnCause := [], exch := [], missing := [], mismatch := none,
                                                                     brk := none, stopB := false, noExtraA := false, noExtraB := false }
  let s := (List.range n).foldl (fun s p =>
    match foundAt n la lb folded p with
    | some (f, fromB) => s.enterFound r p f fromB folded
    | none => s.enterUnreachable r p) s
  let gap := (List.range n).filter (fun p => (foundAt n la lb folded p).isNone)
  let s := s.clearAbove r n
  let s := s.setRingState r (if !folded then 2 else if gap.isEmpty then 3 else 4)
  let s := if folded then
      ((s.setRing r { s.ring r with brk := some (la.length, lb.length) }).showBreak r la.length lb.length).fitSides r
    else s.showBreak r 0 0
  let s := if gap.isEmpty then s else s.post 0x1019 r (le 8 (maskOf 64 (fun p => gap.contains p)))
  let s := s.setRing r { s.ring r with disc := false, done := true }
  (s.wr (0x3107 + 16 * r) 0x0F ms).post 0x1010 r (le 1 n ++ le 2 ms)

/-- Logical A and logical B change places: the lock bits of 300n:01 and what the slices idle go with the ports (R132, R135). -/
def Chip.swapPorts (s : Chip) (r : Nat) : Chip :=
  let o := 0x3000 + r
  let (la, lb, pa, pb) := (s.rdBit o 0x01 0, s.rdBit o 0x01 1, (s.ring r).peerA, (s.ring r).peerB)
  let s := ((s.wrBit o 0x01 0 lb).wrBit o 0x01 1 la).wrBit o 0x01 2 (pa && la)
  s.setRing r { s.ring r with peerA := pb, peerB := pa, crossA := (s.ring r).crossB, crossB := (s.ring r).crossA }

/-- DISCOVERY_COMPLETE (R147): the port map, the count from each side, and the entry of every slice. -/
def Chip.discoveryComplete (s : Chip) (r : Nat) (fromA fromB : List Found) (portMap latA latB ms : Nat) : Chip :=
  if !(s.ring r).disc then s
  else if (s.ring r).unfit then s.notAdmitted r
  else
    let portx := s.pickPortx r (fromA.map (·.enum)) (fromB.map (·.enum))
    let old := (s.ring r).portx
    let s := if portx != old then s.swapPorts r else s
    let s := s.setRing r { s.ring r with portx := portx, latA := if portx then latB else latA, latB := if portx then latA else latB }
    let s := s.wr (0x3107 + 16 * r) 0x06 (portMap % 16 * 2 + (if portx then 1 else 0))
    let s := if portMap % 16 != 0 then s.post 0x1013 r (le 1 (s.rd (0x3107 + 16 * r) 0x06)) else s
    let s := if portx != old then s.post 0x1012 r (le 1 (if old then 1 else 0) ++ le 1 (if portx then 1 else 0)) else s
    let flip (f : Found) : Found := { f with tripsA := f.tripsB, tripsB := f.tripsA }
    let (la, lb) := if portx then (fromB.map flip, fromA.map flip) else (fromA, fromB)
    let (xa, xb) := (la.map (·.enum), lb.map (·.enum))
    let folded := (xa ++ xb).any (fun e => bit e.flags 1)
    let want := s.rd (0x3107 + 16 * r) 0x03
    if !folded then
      let n := xa.length
      if xa.map (·.serial) != (xb.map (·.serial)).reverse || !(kh2At xa).all (fun p => p == 0 || p == 32) ||
          (want != 0 && want != n) then
        (s.mismatchEvent r want n (kh2At xa)).notAdmitted r
      else s.enterAll r n la lb false ms
    else
      let n := s.tableN r
      if !s.bothMatch r n xa xb then s.notAdmitted r
      else if (want != 0 && want != n) || !(kh2Places n xa xb).all (fun p => p == 0 || p == 32) then
        (s.mismatchEvent r want n (kh2Places n xa xb)).notAdmitted r
      else s.enterAll r n la lb true ms

def execDiscoveryComplete (r : RingNo) (fromA fromB : List Found) (portMap : BitVec 4) (latA latB : Nat) (ms : BitVec 16) :
    State → Host.Outcome State Fault Refusal :=
  lift (·.discoveryComplete r fromA fromB portMap.toNat latA latB ms.toNat)

/-- DISCOVERY_TIMEOUT (R147): not admitted, with the step reached. -/
def Chip.discoveryTimeout (s : Chip) (r step : Nat) : Chip :=
  if (s.ring r).disc then (s.notAdmitted r).post 0x1011 r (le 4 step) else s

def execDiscoveryTimeout (r : RingNo) (step : Fin 8) : State → Host.Outcome State Fault Refusal :=
  lift (·.discoveryTimeout r step)

/-! ## Population scan (R152, R153) -/

/-- One record of a scan against the herd table. A REJECTED position leaves that state only by a rediscovery (R154); its slice is
assigned again as any other (R150). -/
def Chip.scanRecord (s : Chip) (r p : Nat) (x : Found) (fromB : Bool) : Chip :=
  let st := s.herdState r p
  let again := bit (s.ring r).reenum p
  let s := if again then s.setRing r { s.ring r with reenum := (s.ring r).reenum - 2 ^ p } else s
  let same := s.hT r 0 p == x.enum.serial
  let live := st == 1 || st == 2 || st == 5
  if !same && st == 5 then s
  else if !same || st == 3 then s.enterFawn r p x fromB
  else
    let s := s.setHT r 1 p (putBit (s.hT r 1 p) 3 (bit x.enum.flags 1))
    if x.enum.epochZero && live then s.reassign r p x
    else if again && live then s.assignSlice r p
    else s

/-- More slices than N were found: the scan changes nothing, and logical B is given up (R152). -/
def Chip.scanMismatch (s : Chip) (r found : Nat) (fromA : List EnumRec) : Chip :=
  let n := s.nOf r
  let s := if (s.ring r).mismatch == some found then s
    else (s.setRing r { s.ring r with mismatch := some found }).mismatchEvent r n found (kh2At fromA)
  (s.setRing r { s.ring r with stopB := true }).setBreak r n 0

/-- POPULATION_SCAN (R152): the ENUM records of both ports, with what ECHO and the self-test have shown of slices that are new or
have restarted. -/
def Chip.populationScan (s : Chip) (r : Nat) (fromA fromB : List Found) : Chip :=
  let n := s.nOf r
  if !s.sweeps r then s
  else if fromA.length > n || fromB.length > n then s.scanMismatch r (max fromA.length fromB.length) (fromA.map (·.enum))
  else
    let s := (fromA.zipIdx).foldl (fun s x => s.scanRecord r x.2 x.1 false) s
    (fromB.zipIdx).foldl (fun s x => let p := n - 1 - x.2; if p < fromA.length then s else s.scanRecord r p x.1 true) s

def execPopulationScan (r : RingNo) (fromA fromB : List Found) : State → Host.Outcome State Fault Refusal :=
  lift (·.populationScan r fromA fromB)

/-! ## Lost slices and ring faults (R155, R166) -/

/-- SLICE_LOST (R155): missing in 31n7:0D ticks in a row while its position has a path. -/
def Chip.sliceLost (s : Chip) (r p : Nat) : Chip :=
  if s.herdState r p == 2 && s.hasPath r p && decide (s.rd (0x3107 + 16 * r) 0x0D ≤ Map.read 0 (s.ring r).missing p) then
    let s := s.holdFigures r p (s.herdType r p)
    ((s.setHerdState r p 3).persist r p 3).post 0x101D r (le 1 p ++ le 8 (s.hT r 0 p))
  else s

def execSliceLost (r : RingNo) (p : Pos) : State → Host.Outcome State Fault Refusal := lift (·.sliceLost r p)

/-- Positions of N without a path. -/
def Chip.cutOff (s : Chip) (r : Nat) : List Nat := (List.range (s.nOf r)).filter (fun p => !s.hasPath r p)

/-- RING_FAULT (R166): positions without a path in two consecutive ticks are shown as UNREACHABLE, with 0x1019 whenever there are new
ones; a REJECTED one stays that (R154). -/
def Chip.ringFault (s : Chip) (r : Nat) : Chip :=
  let ps := (s.cutOff r).filter (bit (s.ring r).cut2 ·)
  let new := ps.filter (fun p => let st := s.herdState r p; st == 1 || st == 2 || st == 3)
  if ps.isEmpty || (s.ringState r == 4 && new.isEmpty) then s
  else
    let s := new.foldl (fun s p => s.setHerdState r p 4) s
    (s.setRingState r 4).post 0x1019 r (le 8 (maskOf 64 (fun p => ps.contains p)))

def execRingFault (r : RingNo) : State → Host.Outcome State Fault Refusal := lift (·.ringFault r)

/-! ## Restoration (R169, R170) -/

/-- UNFOLD_PROBE (R169): an UNFOLD to the folding slice at position a. -/
def Chip.unfoldProbe (s : Chip) (r : Nat) : Chip :=
  match (s.ring r).brk with
  | some (a, _) =>
    let s := s.setRing r { s.ring r with unfoldOk := false }
    if a = 0 || (s.ring r).stopB then s else s.ctrl r (a - 1) 4 0
  | none => s

def execUnfoldProbe (r : RingNo) : State → Host.Outcome State Fault Refusal := lift (·.unfoldProbe r)

/-- What an UNREACHABLE position returns to: a fawn to its turn, the slice last admitted there to ADMITTED; any other slice is a new
fawn, as one whose position had become VACANT (R128, R169). The slice is written its protection words, which a commit of PROT could
not write without a path (DESIGN CHOICE, log entry 131). -/
def Chip.backInReach (s : Chip) (r p : Nat) (f : Found) : Chip :=
  if s.herdState r p != 4 then s
  else if (s.ring r).fawns.contains p then (s.setHerdState r p 1).protSlice r p
  else if (s.hrd (r * 64 + p)).state == 2 then (s.setHerdState r p 2).protSlice r p
  else s.enterFawn r p f false

/-- A position of a restored ring: delays measured again, the intact role of R146, an ASSIGN where HALF, TSRC or any delay changes. -/
def Chip.restorePos (s : Chip) (r p : Nat) (f : Found) : Chip :=
  let s := s.backInReach r p f
  let role (s : Chip) : List Nat := [bits (s.hT r 1 p) 6 5, s.hT r 3 p, s.hT r 4 p, s.hT r 5 p]
  let old := role s
  let s := s.measureDelays r p f
  let s := s.setHT r 1 p (putBit (setBits (s.hT r 1 p) 6 5 (if 32 ≤ p then 3 else 0)) 3 (bit f.enum.flags 1))
  let s := if old != role s then s.assignSlice r p else s
  if s.herdState r p == 2 then s.persist r p 2 else s

/-- The break is gone. -/
def Chip.intact (s : Chip) (r : Nat) : Chip :=
  let ticks := (s.ring r).brkTicks
  let s := s.setRing r { s.ring r with brk := none, brkTicks := 0, brkNew := false, brkSeen := false, noExtraA := false,
                                       noExtraB := false, stopB := false, recA := [], recB := [], cut := 0, cut2 := 0,
                                       unfoldOk := false, restored := true }
  let s := (List.range 64).foldl (fun s p => s.setHT r 1 p (putBit (s.hT r 1 p) 2 false)) s
  let s := ((s.wr (0x3107 + 16 * r) 0x0A 0).wr (0x3107 + 16 * r) 0x08 0).showBreak r 0 0
  (s.setRingState r 2).post 0x101A r (le 4 ticks)

/-- RING_RESTORED (R169, R170): the UNFOLD at a was answered OK, and this is the ENUM from A. Another number of slices leaves the B
side folding, with 0x101E, and so does a serial number of the B side that is not the table's; a new serial number in the gap makes
a fawn. -/
def Chip.ringRestored (s : Chip) (r : Nat) (fromA : List Found) : Chip :=
  match (s.ring r).brk with
  | none => s
  | some (a, b) =>
    let n := s.nOf r
    if a != 0 && !(s.ring r).unfoldOk then s
    else if fromA.length ≠ n then s.mismatchEvent r n fromA.length (kh2At (fromA.map (·.enum)))
    else if (fromA.zipIdx).any (fun x => decide (n ≤ x.2 + b) && s.hT r 0 x.2 != x.1.enum.serial) then s
    else
      let s := if b = 0 then s
        else s.setRing r { s.ring r with queue := (s.ring r).queue ++ [{ s.mkReq r (n - b) 6 (ctrlPayload 4 0) with viaB := true }] }
      let s := (fromA.zipIdx).foldl (fun s x =>
        if s.hT r 0 x.2 == x.1.enum.serial then s.restorePos r x.2 x.1
        else if a ≤ x.2 then s.enterFawn r x.2 x.1 false else s) s
      s.intact r

def execRingRestored (r : RingNo) (fromA : List Found) : State → Host.Outcome State Fault Refusal :=
  lift (·.ringRestored r fromA)

end Sys2Proof.Machine
end

