-- ==== Sys2Proof/Machine/Access.lean ====
section
/-!
DEFINITION. Sys2Proof/Machine/Access.lean: reads and writes of dictionary objects by their clients: Sweram messages, the CAN
client, staged settings (R530–R542, R547, R570–R578).
-/

namespace Sys2Proof.Machine

/-! ## Staged settings (R547, R548, R578) -/

/-- Stage a value in the claim that holds group `g`; a write accepted in full renews the lease. -/
def Chip.stageIn (s : Chip) (g : Nat) (f : Claim → Claim) : Chip :=
  ({ s with claims := s.claims.map (fun (c : Claim) => if bit c.groups g then f c else c) }.renew g).answer .ok

/-- Is it an item of the shadow matrix (R232)? -/
def matrixSetting (k : Nat) : Bool :=
  [okey 0x2300 0x03, okey 0x2300 0x08, okey 0x2300 0x09, okey 0x2300 0x0A].contains k || k / 256 == 0x2301 || k / 256 == 0x2304

/-- A write of an item goes to the shadow matrix over the die link: while the link is lost the shadow keeps what it holds (R233;
DESIGN CHOICE, log entry 63). -/
def Chip.toShadow (s : Chip) (idx sub : Nat) : Chip :=
  let k := okey idx sub
  if !matrixSetting k then s
  else if s.link.lostDown || s.link.lostUp then { s with trip := { s.trip with unseen := Map.insert k (s.shadow idx sub) s.trip.unseen } }
  else { s with trip := { s.trip with unseen := Map.erase k s.trip.unseen } }

def Chip.stage (s : Chip) (e : Entry) (idx sub : Nat) (val : List Byte) : Chip :=
  let s := s.toShadow idx sub
  match e.ty with
  | .dom _ _ => s.stageIn e.grp (fun c => { c with stagedDom := Map.insert (okey idx sub) val c.stagedDom })
  | _ => s.stageIn e.grp (fun c => { c with staged := Map.insert (okey idx sub) (ofLE val) c.staged })

/-- Is it an activation or erasure of a resident slot, which is refused (R422)? -/
def residentSlot (idx sub : Nat) : Bool := 0x2E10 ≤ idx && idx < 0x2E18 && (sub == 0x09 || sub == 0x0A)

/-- Write a setting whose checks of R570 have passed; a change of the tick period is accepted only in DISCOVER and READY
(R46). -/
def Chip.writeSetting (s : Chip) (e : Entry) (idx sub : Nat) (val : List Byte) : Chip :=
  if idx == 0x2100 && sub == 0x01 && ofLE val != s.rd idx sub && s.mode != .discover && s.mode != .ready then s.answer .state
  else s.stage e idx sub val

/-- Settings of group `g` that hold a value, with their defaults: those of a fixed size, and domains (R578). -/
def defaultsOf (g : Nat) : List (Entry × Nat × Nat) :=
  (catalogue.filter (fun e => e.grp == g && e.acc == .rws)).flatMap (fun e =>
    (List.range e.count).flatMap (fun i => (List.range e.n).filterMap (fun j =>
      let idx := e.base + e.stride * i
      let sub := e.sub + j
      if isAction idx sub || requestKey (okey idx sub) || (idx == 0x2E00 && sub == 0x03) then none else some (e, idx, sub))))

def Claim.stageDefaults (c : Claim) (g : Nat) : Claim :=
  (defaultsOf g).foldl (fun c (x : Entry × Nat × Nat) =>
    let k := okey x.2.1 x.2.2
    match x.1.ty with
    | .dom _ _ => { c with stagedDom := Map.insert k (domDefault k) c.stagedDom }
    | _ => { c with staged := Map.insert k (dflt k) c.staged }) c

/-- A write of 2000:08 (R578): every named group must be held in EDIT by the writer. -/
def Chip.stageDefaultsOf (s : Chip) (m : Master) (mask : Nat) : Chip :=
  if !mayWrite m then s.answer .role
  else if (bitsSet 16 mask).any (fun g => g < 9 && s.ownerStatus m g false != .ok) then s.answer .notOwner
  else if bits mask 15 9 != 0 then s.answer .range
  else (bitsSet 9 mask).foldl (fun s g =>
    ((defaultsOf g).foldl (fun s (x : Entry × Nat × Nat) => s.toShadow x.2.1 x.2.2) s).stageIn g (fun c => c.stageDefaults g)) (s.answer .ok)

/-- DEFAULT_STAGING. -/
def execDefaultStaging (m : Master) (mask : BitVec 16) : State → Host.Outcome State Fault Refusal :=
  lift (·.serves (·.stageDefaultsOf m mask.toNat))

/-! ## One write (R555, R556, R570, R574) -/

/-- The process objects of R555. -/
def isProcess (idx sub : Nat) : Bool :=
  (idx == 0x2300 && sub == 0x07) || (0x2410 ≤ idx && idx ≤ 0x241F && sub == 0x01) || (0x3200 ≤ idx && idx ≤ 0x321F && sub == 0x04) ||
  (idx == 0x6050 && (sub == 0x02 || sub == 0x05))

/-- The effect of an accepted write to an object that acts. -/
def Chip.act (s : Chip) (m : Master) (e : Entry) (idx sub : Nat) (val : List Byte) : Chip :=
  let v := ofLE val
  if e.acc == .w1c then s.w1cClear m idx sub v 0
  else if idx == 0x2001 then s.semWord m v
  else if idx == 0x2000 && sub == 0x02 then s.modeRequest m v
  else if idx == 0x2000 && sub == 0x07 then s.commandedRestart m v
  else if idx == 0x2200 then s.reAnchor m v
  else if idx == 0x2300 && sub == 0x06 then s.clearLatches m v
  else if idx == 0x2300 then s.emergencyTrip m v
  else if 0x2410 ≤ idx && idx ≤ 0x241F then
    (if v == 0 then s.channelOff m (idx - 0x2410) else if v == 1 then s.channelOn m (idx - 0x2410) else s.clearChannel m (idx - 0x2410))
  else if idx == 0x2800 then s.reserveRelease m v
  else if 0x2920 ≤ idx && idx ≤ 0x293F then s.cancelRest m (idx - 0x2920) v
  else if 0x2D30 ≤ idx && idx ≤ 0x2D33 then
    (if sub == 0x21 then s.mailboxCancel m (idx - 0x2D30) v else s.mailboxWrite m (idx - 0x2D30) (sub - 0x0B) val)
  else if 0x3100 ≤ idx && idx ≤ 0x31FF then s.rediscover m ((idx - 0x3100) / 16) v
  else if 0x3200 ≤ idx && idx ≤ 0x321F then
    (if v == 1 then s.stringClose m (idx - 0x3200) else if v == 2 then s.stringOpen m (idx - 0x3200) else s.stringEmergency m (idx - 0x3200))
  else if idx == 0x6050 then
    (if sub == 0x02 then s.unlockRequest m v else if sub == 0x04 then s.debugResponse m val else s.debugLock m v)
  else if 0x6064 ≤ idx && idx ≤ 0x6067 then s.restartRegion m (idx - 0x6064) v
  else s.answer .ok

/-- Write an object by the rules of R570: a setting is staged, every other object acts. A process command refused before its
own rule is recorded too (R556). -/
def State.writeObj (s : State) (m : Master) (idx sub : Nat) (val : List Byte) : State :=
  let c := s.chip
  if mayWrite m && residentSlot idx sub then { s with chip := c.answer .access }
  else if idx == 0x2000 && sub == 0x08 && val.length == 2 then { s with chip := c.stageDefaultsOf m (ofLE val) }
  else match c.writeStatus m idx sub val with
    | .ok =>
      (match entryOf idx sub with
       | none => s
       | some e =>
         if idx == 0x5000 && sub == 0x06 then s.logRelease m (ofLE val)
         else { s with chip := if e.acc == .rws && !isAction idx sub then c.writeSetting e idx sub val
                               else c.act m e idx sub val })
    | st =>
      let c := c.answer st
      { s with chip := if mayWrite m && isProcess idx sub then c.commanded m idx sub val.length (ofLE val) st else c }

/-- Recovery mode serves only 1000–1031 (R631). -/
def Chip.hidden (s : Chip) (idx : Nat) : Bool := s.power.recovery && !(0x1000 ≤ idx && idx ≤ 0x1031)

/-- A write as a client makes it. -/
def State.write (s : State) (m : Master) (idx sub : Nat) (val : List Byte) : State :=
  if !s.chip.up then s
  else if s.chip.hidden idx then { s with chip := s.chip.answer .noObj }
  else s.writeObj m idx sub val

/-- SETTING_WRITE (R547). -/
def execSettingWrite (m : Master) (o : ObjRef) (val : List Byte) (s : State) : Host.Outcome State Fault Refusal :=
  .next (s.write m o.idx.toNat o.sub.toNat val)

/-- AUTO_ACTIVATE (R660): 2000:04 is a setting of SWITCH; written to 1 it starts the transition when it takes effect, at the
commit (log entry 68). -/
def execAutoActivate (m : Master) (s : State) : Host.Outcome State Fault Refusal := .next (s.write m 0x2000 0x04 (le 1 1))

/-- IMAGE_ACTIVATE (R417) and IMAGE_ERASE (R422): requests of TINE, staged. -/
def execImageActivate (m : Master) (slot : Fin 32) (v : Byte) (s : State) : Host.Outcome State Fault Refusal :=
  .next (s.write m (0x2E10 + slot.val) 0x09 [v])

def execImageErase (m : Master) (slot : Fin 32) (v : Byte) (s : State) : Host.Outcome State Fault Refusal :=
  .next (s.write m (0x2E10 + slot.val) 0x0A [v])

/-! ## One read (R535, R567, R572, R620) -/

/-- The staged value that `m` holds in EDIT. -/
def Chip.stagedBytes (s : Chip) (m : Master) (idx sub : Nat) : Option (List Byte) :=
  match s.claims.find? (fun c => c.owner == m && c.edit && (c.run == .edit || c.run == .check) && c.next == .stay &&
      (c.staged.any (fun x => x.1 == okey idx sub) || c.stagedDom.any (fun x => x.1 == okey idx sub))) with
  | none => none
  | some c =>
    match c.bytes idx sub with
    | some b => some b
    | none => (c.val idx sub).map (fun v => le (match entryOf idx sub with | some e => e.ty.size | none => 0) v)

/-- Is it a slot of a log sector with nothing in it, whose read is refused (R620)? -/
def State.freeSector (s : State) (idx : Nat) : Bool :=
  0x5100 ≤ idx && idx ≤ 0x58FF && (List.range 64).all (fun j => (s.logSlot (idx - 0x5100) j).isEmpty)

/-- What a read takes with it: entries of a host queue (R590), a capture (R522), an uncorrectable slow record (R301). -/
def Chip.readEffect (s : Chip) (m : Master) (idx sub : Nat) : Chip :=
  if 0x2D20 ≤ idx && idx ≤ 0x2D23 && 1 ≤ sub && sub ≤ 9 then s.hostQueueRead m (idx - 0x2D20) (sub - 1)
  else if 0x2231 ≤ idx && idx ≤ 0x2235 && sub == 0x06 then s.captureRead (idx - 0x2231)
  else if 0x4800 ≤ idx && idx ≤ 0x4BFF && 1 ≤ sub && sub ≤ 0x10 then
    (let g := 16 * (idx - 0x4800) + sub - 1
     if !s.hasRecord g || s.cached g || slowCrcOk (s.slowMram g) then s
     else { s.crcRestored g with pager := { s.pager with slow := Map.insert g (newSlow (s.qnomOf g) 1024) s.pager.slow } })
  else s

/-- Read an object: the state after it, status, detail and value. -/
def State.readObj (s : State) (m : Master) (staged : Bool) (idx sub : Nat) : State × Status × Nat × List Byte :=
  if s.chip.hidden idx then (s, .noObj, 0, [])
  else match readStatus idx sub with
    | .ok =>
      if s.freeSector idx then (s, .refused, 1, [])
      else match (if staged then s.chip.stagedBytes m idx sub else none) with
        | some b => (s, .ok, 0, b)
        | none =>
          let t : State := { s with chip := s.chip.readEffect m idx sub }
          (t, .ok, 0, if 0x4800 ≤ idx && idx ≤ 0x4BFF then t.bytesOf idx sub else s.bytesOf idx sub)
    | st => (s, st, 0, [])

/-! ## Messages (R533–R538) -/

/-- Payload bytes of a message of 1,200 bytes. -/
def payloadMax : Nat := 1188

/-- A response item of READ. -/
def readItem (idx sub : Nat) (st : Status) (detail : Nat) (b : List Byte) : List Byte :=
  le 2 idx ++ le 1 sub ++ le 1 st.code ++ le 1 detail ++ le 1 0 ++ le 2 b.length ++ b

/-- READ items in request order while they fit: a value of more than 1,024 bytes, and everything from the first item on that
does not fit with the headers of those after it, answers TOOBIG (R572; log entry 69). -/
def State.readItems (s : State) (m : Master) (staged : Bool) (room : Nat) : List (Nat × Nat) → State × List Byte
  | [] => (s, [])
  | (i, j) :: rest =>
    if room < 8 then (s, [])
    else
      let (t, st, d, b) := s.readObj m staged i j
      if b.length > 1024 then
        let (u, out) := s.readItems m staged (room - 8) rest
        (u, readItem i j .tooBig 0 [] ++ out)
      else if 8 + b.length + 8 * rest.length ≤ room then
        let (u, out) := t.readItems m staged (room - 8 - b.length) rest
        (u, readItem i j st d b ++ out)
      else (s, (((i, j) :: rest).take (room / 8)).flatMap (fun x => readItem x.1 x.2 .tooBig 0 []))

def refs (items : List ObjRef) : List (Nat × Nat) := items.map (fun o => (o.idx.toNat, o.sub.toNat))

/-- READ: each item is answered separately. -/
def State.readMessage (s : State) (m : Master) (staged : Bool) (items : List ObjRef) : State :=
  let (t, out) := s.readItems m staged payloadMax (refs items)
  { t with chip := t.chip.answer .ok 0 out }

/-- Write items until one is refused: it is given with the state it left. -/
def State.writeItems (s : State) (m : Master) : List WItem → State × Option WItem
  | [] => ({ s with chip := s.chip.answer .ok }, none)
  | w :: ws =>
    let t := s.write m w.obj.idx.toNat w.obj.sub.toNat w.val
    if t.chip.ans.status == .ok then t.writeItems m ws else (t, some w)

/-- The first item refused when they are written in turn, with the state that it meets. -/
def State.firstRefused (s : State) (m : Master) : List WItem → Option (State × WItem)
  | [] => none
  | w :: ws =>
    let t := s.write m w.obj.idx.toNat w.obj.sub.toNat w.val
    if t.chip.ans.status == .ok then t.firstRefused m ws else some (s, w)

/-- A latch clear treats each named source on its own: refused for one, it stands for the others (R227). -/
def clearsLatches (w : WItem) : Bool := w.obj.idx == 0x2300#16 && w.obj.sub == 0x06#8

/-- WRITE: all items or none; of a refused item only its events stand (R535, R556), and what a latch clear has done. -/
def State.writeMessage (s : State) (m : Master) (items : List WItem) : State :=
  match s.firstRefused m items with
  | none => (s.writeItems m items).1
  | some (on, w) =>
    let i := w.obj.idx.toNat
    let j := w.obj.sub.toNat
    let t := on.write m i j w.val
    let a := t.chip.ans
    let s : State := if clearsLatches w then s.write m i j w.val
      else { s with chip := { s.chip with port := s.chip.port ++ t.chip.port.drop on.chip.port.length } }
    { s with chip := s.chip.answer a.status a.detail (readItem i j a.status a.detail []) }

/-- SEGREAD (R537): up to 1,024 bytes from an offset; beyond the length none. -/
def State.segRead (s : State) (m : Master) (idx sub off count : Nat) : State :=
  let (t, st, d, b) := s.readObj m false idx sub
  let b := (b.drop off).take (min count 1024)
  { t with chip := t.chip.answer st d (le 2 idx ++ le 1 sub ++ le 1 0 ++ le 4 off ++ le 2 b.length ++ b) }

/-- SEGWRITE of a segment (R537): a domain setting is staged; the write-only domain 6050:04 acts whole. -/
def State.segWrite (s : State) (m : Master) (idx sub off : Nat) (b : List Byte) : State :=
  let c := s.chip
  let say (st : Status) : State := { s with chip := c.answer st }
  if !mayWrite m then say .role
  else if c.hidden idx || !idxExists idx then say .noObj
  else match entryOf idx sub with
    | none => say (if sub == 0 then .access else .noSub)
    | some e =>
      match e.acc, e.ty with
      | .ro, _ => say .access
      | .w1c, _ => say .type
      | .rws, .dom _ hi =>
        (match c.ownerStatus m e.grp false with
         | .ok =>
           let old := if off == 0 then [] else ((c.claimOf e.grp).bind (fun x => x.bytes idx sub)).getD []
           if b.length > 1024 || old.length + b.length > hi then say .tooBig
           else if off != old.length then say .segment
           else { s with chip := c.stage e idx sub (old ++ b) }
         | st => say st)
      | _, .dom _ _ => if off == 0 then s.writeObj m idx sub b else say .segment
      | _, _ => say .type

/-- A request on an open session (R538): counted; a repeated SEQ is answered from the store, a SEQ below the oldest stored one
is STALE, and any other is performed once. The port's frames are counted (R581). A stopped supervisor pair answers none, and the master
repeats it (R489). -/
def State.serve (s : State) (k : Nat) (seq : Nat) (f : Master → State → State) : State :=
  let x := s.chip.sess k
  if !s.chip.netUp || s.chip.lock.supFault || x.role == 0 then s
  else
    let i := 0x2C10 + k
    let c := ((s.chip.inc 32 i 0x04).inc 32 (0x2C20 + x.port) 0x08).inc 32 (0x2C20 + x.port) 0x09
    match x.store.find? (fun a => a.1 == seq) with
    | some a => { s with chip := { c.inc 32 i 0x05 with ans := a.2 } }
    | none =>
      if (match x.store with | a :: _ => decide (seq < a.1) | [] => false) then { s with chip := c.answer .stale }
      else
        let t := f x.master { s with chip := c }
        let x := t.chip.sess k
        if x.role == 0 then t
        else
          let store := x.store ++ [(seq, t.chip.ans)]
          { t with chip := { t.chip with sessions := Map.write {} t.chip.sessions k { x with store := store.drop (store.length - 16) } } }

/-- SWERAM_READ. -/
def execSweramRead (k : Fin 8) (seq : Word) (staged : Bool) (items : List ObjRef) (s : State) : Host.Outcome State Fault Refusal :=
  .next (s.serve k seq.toNat (fun m s => s.readMessage m staged items))

/-- SWERAM_WRITE. -/
def execSweramWrite (k : Fin 8) (seq : Word) (items : List WItem) (s : State) : Host.Outcome State Fault Refusal :=
  .next (s.serve k seq.toNat (fun m s => s.writeMessage m items))

/-- SEGREAD. -/
def execSegread (k : Fin 8) (seq : Word) (o : ObjRef) (offset : Word) (count : BitVec 16) (s : State) :
    Host.Outcome State Fault Refusal :=
  .next (s.serve k seq.toNat (fun m s => s.segRead m o.idx.toNat o.sub.toNat offset.toNat count.toNat))

/-- SEGWRITE. -/
def execSegwrite (k : Fin 8) (seq : Word) (o : ObjRef) (offset : Word) (bytes : List Byte) (s : State) :
    Host.Outcome State Fault Refusal :=
  .next (s.serve k seq.toNat (fun m s => s.segWrite m o.idx.toNat o.sub.toNat offset.toNat bytes))

/-! ## Subscriptions (R540) -/

/-- Greatest size of a STREAM item. -/
def itemSize (idx sub : Nat) : Nat :=
  match readStatus idx sub, entryOf idx sub with
  | .ok, some e => 8 + e.ty.size
  | .ok, none => 9
  | _, _ => 8

/-- SUBSCRIBE: no item cancels; one subscription a session. -/
def Chip.subscribe (s : Chip) (k period : Nat) (items : List (Nat × Nat)) : Chip :=
  let put (p : Nat) (xs : List (Nat × Nat)) : Chip :=
    { s with sessions := Map.write {} s.sessions k { s.sess k with period := p, items := xs } }.answer .ok
  if items.isEmpty then put 0 []
  else if items.length > 64 || (items.map (fun x => itemSize x.1 x.2)).foldl (· + ·) 0 + 8 > payloadMax then s.answer .tooBig
  else if period == 0 then s.answer .range
  else put period items

def execSubscribe (k : Fin 8) (seq : Word) (period : BitVec 16) (items : List ObjRef) (s : State) :
    Host.Outcome State Fault Refusal :=
  .next (s.serve k seq.toNat (fun _ s => { s with chip := s.chip.subscribe k period.toNat (refs items) }))

/-- Does an object show a stale value: measurement (R395), fast record (R275), limits (R324), figures of a string or of the section, which go
stale with their limits (R70)? -/
def Chip.showsStale (s : Chip) (idx sub : Nat) : Bool :=
  if 0x4000 ≤ idx && idx ≤ 0x43FF then bits (s.measView (idx - 0x4000) 0x16) 31 28 == 1
  else if 0x4400 ≤ idx && idx ≤ 0x47FF then
    (let e := if sub ≤ 0x10 then sub - 1 else if 0x21 ≤ sub && sub ≤ 0x50 then (sub - 0x21) % 16 else 16
     let stale (e : Nat) : Bool := bit (consOf (Map.read [] s.pub (16 * (idx - 0x4400) + e))) 15
     if e < 16 then stale e else (List.range 16).any stale)
  else if idx == 0x2600 then s.rdBit 0x2600 0x11 7
  else if 0x2620 ≤ idx && idx ≤ 0x263F then s.rdBit idx 0x0B 7
  else if 0x2840 ≤ idx && idx ≤ 0x285F && 0x07 ≤ sub && sub ≤ 0x0D then s.rdBit (0x2620 + (idx - 0x2840)) 0x0B 7
  else if 0x3200 ≤ idx && idx ≤ 0x321F && sub == 0x0E then s.rdBit (0x2620 + (idx - 0x3200)) 0x0B 7
  else if idx == 0x2800 && 0x10 ≤ sub && sub ≤ 0x13 then s.rdBit 0x2600 0x11 7
  else false

/-- STREAM: tick count and items; nothing is taken from the device's queues (log entry 70). -/
def State.streamOut (s : State) (k : Nat) : State :=
  let x := s.chip.sess k
  if !s.chip.netUp || x.role == 0 || x.period == 0 then s
  else
    let item (o : Nat × Nat) : List Byte :=
      match readStatus o.1 o.2 with
      | .ok => readItem o.1 o.2 .ok (if s.chip.showsStale o.1 o.2 then 1 else 0) (s.bytesOf o.1 o.2)
      | st => readItem o.1 o.2 st 0 []
    { s with chip := (s.chip.inc 32 (0x2C20 + x.port) 0x09).answer .ok 0 (le 8 s.chip.ticks ++ x.items.flatMap item) }

def execStream (k : Fin 8) (s : State) : Host.Outcome State Fault Refusal := .next (s.streamOut k)

/-- SWERAM_ECHO (R534). -/
def execSweramEcho (k : Fin 8) (seq : Word) (bytes : List Byte) (s : State) : Host.Outcome State Fault Refusal :=
  .next (s.serve k seq.toNat (fun _ s => { s with chip := if bytes.length > 64 then s.chip.answer .tooBig else s.chip.answer .ok 0 bytes }))

/-! ## Sessions (R530–R532) -/

/-- Role that the lists give a fingerprint; 0 none. -/
def Chip.roleOf (s : Chip) (print : List Byte) : Nat :=
  if onList (s.rdDom 0x2C00 0x11) print then 1
  else if onList (s.rdDom 0x2C00 0x12) print then 2
  else if onList (s.rdDom 0x2C00 0x13) print then 3
  else 0

/-- Open a session in slot `k`. -/
def Chip.openSweram (s : Chip) (k p role : Nat) (print : List Byte) : Chip :=
  let i := 0x2C10 + k
  let parent := Map.read [] s.parents p == print
  let shown := if parent then 4 else role
  let s := ((((s.wr i 0x01 shown).wr i 0x02 p).wr i 0x03 (ofLE (print.take 8))).wr i 0x04 0).wr i 0x05 0
  let s := s.inc 8 0x2C00 0x01
  ({ s with sessions := Map.write {} s.sessions k { role := role, parent := parent, port := p, print := print } }).post 0x8001 k
    (le 1 shown ++ le 1 p ++ print.take 8)

/-- DTLS_HANDSHAKE: `certOk` is the outcome of the handshake and of the checks of R531 on the certificate. No session is named
by a failure: its source is 0xFF. -/
def Chip.handshake (s : Chip) (p : Nat) (ok : Bool) (print : List Byte) : Chip :=
  if !s.netUp then s
  else if !ok then s.post 0x8002 0xFF (le 1 1)
  else if s.roleOf print == 0 then s.post 0x8002 0xFF (le 1 2)
  else match (List.range 8).find? (fun k => (s.sess k).role == 0) with
    | none => s.post 0x8002 0xFF (le 1 1)
    | some k => s.openSweram k p (s.roleOf print) print

def execDtlsHandshake (port : Fin 2) (certOk : Bool) (fingerprint : BitVec 256) : State → Host.Outcome State Fault Refusal :=
  lift (·.handshake port certOk (be 32 fingerprint.toNat))

/-- SESSION_IDLE: the time of 2C00:14 has passed without a datagram. -/
def execSessionIdle (k : Fin 8) : State → Host.Outcome State Fault Refusal := lift (fun s => if s.up then s.closeSession k 3 else s)

/-- ETHERNET_LINK_CHANGE (R464, R581). -/
def execEthernetLinkChange (port : Fin 4) (up : Bool) : State → Host.Outcome State Fault Refusal :=
  lift (fun s => s.wr (0x2C20 + port.val) 0x01 (if up then 1 else 0))

/-! ## The CAN client (R541, R542) -/

/-- Master of the CAN client (2C40:02). -/
def Chip.canClient (s : Chip) : Master := match s.rd 0x2C40 0x02 with | 1 => .a | 2 => .b | _ => .observer

/-- Abort code of a status. -/
def abortCode (write : Bool) : Status → Nat
  | .ok => 0
  | .noObj => 0x06020000
  | .noSub => 0x06090011
  | .access => if write then 0x06010002 else 0x06010001
  | .range => 0x06090030
  | .type => 0x06070010
  | .tooBig => 0x06070012
  | .notOwner | .notEdit => 0x08000021
  | .busy | .state => 0x08000022
  | .refused | .stale | .segment => 0x08000020
  | .role => 0x06010000
  | .hwErr => 0x06060000

/-- The answer of a USDO request: a refusal carries its abort code and ends the transfer. -/
def State.usdoAnswer (s : State) (write : Bool) : State :=
  let a := s.chip.ans
  if a.status == .ok then s
  else { s with chip := { s.chip with usdo := none, ans := { a with bytes := le 4 (abortCode write a.status) } } }

/-- The request leaves the server's queue of its port, where the filter program put it; without a port the server is off. -/
def State.usdoServe (s : State) (f : Master → State → State) : State :=
  let p := s.chip.rd 0x2C40 0x03
  if !s.chip.netUp || s.chip.lock.supFault || p ≥ 4 || s.chip.power.recovery then s
  else
    let x := s.chip.can p
    f s.chip.canClient { s with chip := s.chip.setCan p { x with usdo := x.usdo.drop 1 } }

/-- A transfer holds at most 4,096 bytes. -/
def usdoMax : Nat := 4096

/-- USDO_DOWNLOAD: expedited, or one segment of a transfer, whose last one writes the object. -/
def State.usdoDownload (s : State) (m : Master) (idx sub : Nat) (b : List Byte) (segmented last : Bool) : State :=
  let buf := if segmented then
      (match s.chip.usdo with
       | some x => if !x.up && x.idx == idx && x.sub == sub then x.buf ++ b else b
       | none => b)
    else b
  if buf.length > usdoMax then { s with chip := s.chip.answer .tooBig }.usdoAnswer true
  else if segmented && !last then
    { s with chip := { s.chip.answer .ok with usdo := some ⟨idx, sub, false, buf, buf.length⟩ } }
  else
    (({ s with chip := { s.chip with usdo := none } } : State).write m idx sub buf).usdoAnswer true

def execUsdoDownload (o : ObjRef) (bytes : List Byte) (segmented last : Bool) (s : State) : Host.Outcome State Fault Refusal :=
  .next (s.usdoServe (fun m s => s.usdoDownload m o.idx.toNat o.sub.toNat bytes segmented last))

/-- Bytes of one segment of an upload (log entry 30). -/
def usdoSegment : Nat := 56

/-- USDO_UPLOAD: expedited where the value fits one segment; else the object's next segment. -/
def State.usdoUpload (s : State) (m : Master) (idx sub : Nat) : State :=
  let go (s : State) (x : Transfer) : State :=
    let rest := x.buf.drop x.pos
    let next := if rest.length ≤ usdoSegment then none else some { x with pos := x.pos + usdoSegment }
    { s with chip := { s.chip.answer .ok 0 (rest.take usdoSegment) with usdo := next } }
  let start : State :=
    let (t, st, d, b) := s.readObj m false idx sub
    if st != .ok then { t with chip := t.chip.answer st d }.usdoAnswer false
    else if b.length > usdoMax then { s with chip := s.chip.answer .tooBig }.usdoAnswer false
    else go t ⟨idx, sub, true, b, 0⟩
  match s.chip.usdo with
  | some x => if x.up && x.idx == idx && x.sub == sub then go s x else start
  | none => start

def execUsdoUpload (o : ObjRef) (s : State) : Host.Outcome State Fault Refusal :=
  .next (s.usdoServe (fun m s => s.usdoUpload m o.idx.toNat o.sub.toNat))

/-- USDO_TIMEOUT: the transfer is aborted with 0x05040000. -/
def execUsdoTimeout : State → Host.Outcome State Fault Refusal :=
  lift (fun s => if s.usdo.isSome && s.up then { s.answer .refused 0 (le 4 0x05040000) with usdo := none } else s)

end Sys2Proof.Machine
end

