-- ==== Sys2Proof/Machine/Sched.lean ====
section
/-!
DEFINITION. Sys2Proof/Machine/Sched.lean: the guard phase and what it decides for the next tick edge (02_tick R58–R83,
12_paging R443–R448, 14_lockstep R483–R490).
-/

namespace Sys2Proof.Machine

/-! ## Slow jobs (R51, R405) -/

/-- A slow job unfinished at 0.95P goes to a free context, or is abandoned where there is none; its grant ends (R429), and its pages are
named for its next placement (R430). -/
def Chip.suspendJob (s : Chip) (t : TineId) : Chip :=
  let x := s.tine t
  if x.run && x.job.kind == 3 && !x.stopped then
    let s := (s.ungrant x.job.pages).wantPages x.job.pages
    let ctxs := match (List.range 16).find? (fun c => (Map.read {} x.ctxs c).kind != 3) with
      | some c => Map.write {} x.ctxs c { x.job with pages := [] }
      | none => x.ctxs
    s.setTine t { x with run := false, wait := none, ctxs := ctxs, job := { x.job with pages := [] } }
  else s

def Chip.suspendJobs (s : Chip) : Chip := (List.range 80).foldl (fun s n => s.suspendJob (laneTine (n / 5) (n % 5))) s

/-! ## Shedding (R64–R68) -/

/-- Burst divisor of a shed level. -/
def burstDivisor (level : Nat) : Nat := [1, 1, 1, 2, 4, 8, 16].getD level 16

/-- Put the shed level, with 0x6032, the divisor and SHED. -/
def Chip.setShed (s : Chip) (level : Nat) : Chip :=
  let old := s.rd 0x2100 0x03
  (((s.wr 0x2100 0x03 level).wr 0x2100 0x04 (burstDivisor level)).wrBit 0x2100 0x05 1 (decide (0 < level))).post 0x6032 (old * 256 + level)

/-- The guard phase of a tick that saw an overrun raises the level; an overrun at level 6 exhausts it. -/
def Chip.shed (s : Chip) : Chip :=
  if !s.sched.overrun then { s with sched := { s.sched with calm := s.sched.calm + 1 } }
  else
    let s := { s with sched := { s.sched with calm := 0, overrun := false } }
    if s.rd 0x2100 0x03 < 6 then s.setShed (s.rd 0x2100 0x03 + 1) else (s.flag 0x2100 0x05 8).post 0x6035 0

/-- SHED_LEVEL_FALL (R65): after 2100:08 consecutive ticks without an overrun. -/
def execShedLevelFall : State → Host.Outcome State Fault Refusal :=
  lift (fun s =>
    if 0 < s.rd 0x2100 0x03 && decide (s.rd 0x2100 0x08 ≤ s.sched.calm) then
      { s with sched := { s.sched with calm := 0 } }.setShed (s.rd 0x2100 0x03 - 1)
    else s)

/-! ## Boundary moves (R61, R72, R73) -/

/-- The block as it stands once the move decided for it has taken effect. -/
def Chip.afterMove (s : Chip) (b : Nat) : Chip :=
  match (List.range 3).find? (fun k => Map.read 0 s.sched.move (b * 4 + k) != 0) with
  | some k => s.movedTo b k (Map.read 0 s.sched.move (b * 4 + k) - 1)
  | none => s

/-- BOUNDARY_MOVE (R73, R446): at the tick edge, unless a lane swap shares the edge. -/
def Chip.boundaryMove (s : Chip) (b : Nat) : Chip :=
  match (List.range 3).find? (fun k => Map.read 0 s.sched.move (b * 4 + k) != 0) with
  | none => s
  | some k =>
    if Map.read 0 s.sched.takeover b != 0 then s
    else
      let x := Map.read 0 s.sched.move (b * 4 + k) - 1
      let s := { s with sched := { s.sched with move := Map.write 0 s.sched.move (b * 4 + k) 0 } }
      ((s.setRanges b ((s.firsts b).set (k + 1) x)).post 0x6038 (b * 256 + x)).showLoads b

def execBoundaryMove (block : Fin 16) : State → Host.Outcome State Fault Refusal := lift (·.boundaryMove block)

/-! ## Three healthy lanes (R77, R78) -/

/-- The highest `n` of some positions. -/
def topMask (ps : List Nat) (n : Nat) : Nat := maskOf 64 (fun p => (ps.drop (ps.length - n)).contains p)

/-- Of a lane: the fewest half-rate positions with which it fits in ticks of both parities, and the fewest positions without
estimation where it does not fit with all others at half rate; the highest ones in each case (log entry 53). -/
def Chip.ratesOf (s : Chip) (b i : Nat) : Nat × Nat :=
  let ps := s.lanePos b i
  let cs := ps.filter (fun p => s.posEst b p != 0)
  let ns := List.range (cs.length + 1)
  match ns.find? (fun n => (s.withRates b (topMask cs n) 0).fits b i ps) with
  | some n => (topMask cs n, 0)
  | none =>
    let rates (n : Nat) : Nat × Nat := (topMask (cs.take (cs.length - n)) (cs.length - n), topMask cs n)
    rates ((ns.find? (fun n => (s.withRates b (rates n).1 (rates n).2).fits b i ps)).getD cs.length)

/-- Decide how a block with a lost lane spreads its positions, with 0x6039 and HALFRATE. -/
def Chip.planSpread (s : Chip) (b : Nat) : Chip :=
  let lost := s.laneLost b
  if !(List.range 4).any lost || Map.read 0 s.sched.takeover b != 0 then s
  else if (List.range 4).all (fun i => !lost i || (s.lanePos b i).isEmpty) && s.allFit b then s
  else
    let fs := s.bestSpread b
    let h := (s.setRanges b fs).withRates b 0 0
    let rates := ((List.range 4).filter (fun i => !lost i)).map (h.ratesOf b)
    let half := (rates.map (·.1)).foldl (· ||| ·) 0
    let non := (rates.map (·.2)).foldl (· ||| ·) 0
    if fs == s.firsts b && half == s.halfRate b && non == Map.read 0 s.sched.noEst b then s
    else { s with sched := { s.sched with spread := Map.write [] s.sched.spread b (fs ++ [half, non]) } }

/-- At a tick edge one boundary of a block goes towards its spread, unless another move or a takeover shares the edge (R73, R446); with
all of them there the rates are in force, with 0x6039. -/
def Chip.applySpread (s : Chip) (b : Nat) : Chip :=
  let x := Map.read [] s.sched.spread b
  if x.isEmpty || s.hasMove b || Map.read 0 s.sched.takeover b != 0 then s
  else
    let fs := s.firsts b ++ [64]
    let s := match (List.range 3).find? (fun k =>
        let y := x.getD (k + 1) 64
        y != fs.getD (k + 1) 64 && fs.getD k 0 ≤ y && y ≤ fs.getD (k + 2) 64) with
      | some k => (s.setRanges b ((s.firsts b).set (k + 1) (x.getD (k + 1) 64))).post 0x6038 (b * 256 + x.getD (k + 1) 64)
      | none => s
    if s.firsts b != x.take 4 then s.showLoads b
    else
      let s := { s with sched := { s.sched with spread := Map.write [] s.sched.spread b [] } }
      let s := (s.withRates b (x.getD 4 0) (x.getD 5 0)).showHalfRate
      (if x.getD 4 0 == 0 && x.getD 5 0 == 0 then s else s.post 0x6039 b).showLoads b

/-! ## Admission of fawns (R80–R83, R156) -/

/-- Identified and authenticated: no method is selected for the ring, a KH2, or a good IDSTATE. -/
def Chip.fawnReady (s : Chip) (r p : Nat) : Bool :=
  let st := s.rd (0x2960 + r) (0x41 + p) % 128
  s.herdState r p == 1 && (s.rd (0x2960 + r) 0x01 == 0 || s.herdType r p != 1 || (1 ≤ st && st ≤ 4))

/-- The block with fawns decided as if admitted. -/
def Chip.withAdmits (s : Chip) (r : Nat) (ps : List Nat) : Chip := ps.foldl (fun s p => s.setHerdState r p 2) s

/-- What keeps a fawn from being admitted, 0 nothing, and the move its admission needs: 1 shed level, 2 lane load,
3 credits, 4 admissions per tick. DEDUCED: a block without its four lanes has no lane load to admit a fawn with. -/
def Chip.admitCause (s : Chip) (r p : Nat) : Nat × Option (Nat × Nat) :=
  let mine := (s.sched.admits.filter (fun k => k / 64 == r)).map (· % 64)
  let now := s.afterMove r
  let h := now.withAdmits r (mine ++ [p])
  if 0 < s.rd 0x2100 0x03 then (1, none)
  else
    let mv := if h.allFit r || s.hasMove r || s.spreading r then none else h.bestMove r
    let h' := match mv with | some (k, x) => h.movedTo r k x | none => h
    if !h'.allFit r || !now.allFit r || (List.range 4).any (s.laneLost r) then (2, none)
    else if s.ringState r != 2 || (s.ring r).restored || decide (halfLimit s.clk.p < h'.credits r (s.isUp r p)) then (3, none)
    else if s.rd 0x2100 0x07 ≤ mine.length then (4, none)
    else (0, mv)

/-- Decide on one fawn; 0x6037 once for each change of the cause, which its source carries in [15:12] (log entry 9). -/
def Chip.decideFawn (s : Chip) (r p : Nat) : Chip :=
  if !s.fawnReady r p then s
  else
    let (why, mv) := s.admitCause r p
    let was := Map.read 0 (s.ring r).fawnCause p
    let s := s.setRing r { s.ring r with fawnCause := Map.write 0 (s.ring r).fawnCause p why }
    if why == 0 then
      let move := match mv with
        | some (k, x) => Map.write 0 s.sched.move (r * 4 + k) (x + 1)
        | none => s.sched.move
      { s with sched := { s.sched with admits := s.sched.admits ++ [r * 64 + p], move := move } }
    else if why == was then s
    else s.post 0x6037 (why * 4096 + r * 256 + p)

def Chip.decideFawns (s : Chip) : Chip :=
  let s := (List.range 16).foldl (fun s r => (s.ring r).fawns.foldl (fun s p => s.decideFawn r p) s) s
  s.wrBit 0x2100 0x05 2 ((List.range 16).any (fun r => (s.ring r).fawns.any (fun p =>
    s.fawnReady r p && !s.sched.admits.contains (r * 64 + p))))

/-- FAWN_ADMITTED (R81): the herd table shows the slice as admitted, in its persistent copy too; its vacancy hold ends. -/
def Chip.fawnAdmitted (s : Chip) (r p : Nat) : Chip :=
  if !s.sched.admits.contains (r * 64 + p) || s.herdState r p != 1 then s
  else
    let s := { s with sched := { s.sched with admits := s.sched.admits.filter (· != r * 64 + p) } }
    let s := ((s.setHerdState r p 2).dropFawn r p).assignSlice r p
    let s := s.setRing r { s.ring r with hold := Map.erase p (s.ring r).hold, missing := Map.write 0 (s.ring r).missing p 0 }
    (((s.persist r p 2).noteAdmission r p).post 0x6036 (r * 256 + p)).showLoads r

def execFawnAdmitted (r : RingNo) (p : Pos) : State → Host.Outcome State Fault Refusal := lift (·.fawnAdmitted r p)

/-- VACANCY_HOLD_EXPIRY (R83): the held figures and credits are released; 0 in 2100:0B holds them on. DESIGN CHOICE (log entry 127): R83
lets the host release a position held under 0 and names no command for it; the hold then stands until an admission there, or until
2100:0B is set to a time. -/
def execVacancyHoldExpiry (r : RingNo) (p : Pos) : State → Host.Outcome State Fault Refusal :=
  lift (fun s =>
    if s.rd 0x2100 0x0B == 0 then s
    else (s.setRing r { s.ring r with hold := Map.erase p.val (s.ring r).hold }).showLoads r)

/-! ## Spares (R443, R446, R448, R486–R488) -/

/-- A swap of a unit under an open debug session waits for its end; 0xB009 once. -/
def Chip.deferSwap (s : Chip) (b : Nat) : Chip :=
  if s.lock.deferred.contains b then s
  else { (s.wrBit 0x2A00 0x01 2 true).post 0xB009 1 (le 4 b ++ le 1 3) with lock := { s.lock with deferred := s.lock.deferred ++ [b] } }

/-- Does an open session cover the lane that is to be replaced? -/
def Chip.laneUnderDebug (s : Chip) (b l : Nat) : Bool := l < 5 && s.reaches (laneTine b l)

/-- A lane of a block to be replaced: physical lane, or 5, and the cause 1 wear, 2 mismatch, 3 self-test failure. -/
def Chip.laneToReplace (s : Chip) (b : Nat) : Option (Nat × Nat) :=
  let phys := (List.range 4).map (s.physOf b)
  match phys.find? (fun l => l < 5 && (s.tine (laneTine b l)).stopped) with
  | some l => some (l, 2)
  | none =>
    match (if phys.contains 5 then some 5 else phys.find? (fun l => s.rd (0x2A20 + b) (l + 1) == 2)) with
    | some l => some (l, if l == 5 then 2 else 3)
    | none => (phys.find? (fun l => l < 5 && decide (s.rd 0x2A00 0x10 ≤ s.rd (0x2A20 + b) (0x06 + l)))).map (fun l => (l, 1))

/-- Takeover decision of a block. Without an idle spare, a stopped lane leaves service (R488), and a worn one stays
(R448). -/
def Chip.decideTakeover (s : Chip) (b : Nat) : Chip :=
  match s.laneToReplace b with
  | none => s
  | some (l, cause) =>
    match s.idleSpare b with
    | none =>
      if cause == 2 && l < 5 then
        (match s.logicalOf b l with
         | some i => { s with sched := { s.sched with phys := Map.write i s.sched.phys (b * 4 + i) 5 } }
         | none => s)
      else if cause == 1 then s.worn 1 (b * 8 + l)
      else s
    | some _ =>
      if s.laneUnderDebug b l then s.deferSwap b
      else { s with sched := { s.sched with takeover := Map.write 0 s.sched.takeover b (8 * cause + l) } }

/-- FET segments past their threshold (R443): a swap to the spare, or WORN where the spare is in use. -/
def Chip.checkSegments (s : Chip) : Chip :=
  (List.range 16).foldl (fun s k =>
    let c := s.ch k
    if c.fetRun < 1000 then s
    else if c.spare then s.worn 4 k
    else s.setCh k { c with swapWait := true }) s

/-- SPARE_LANE_TAKEOVER (R76, R446, R486): the decision taken in the guard phase takes effect. -/
def State.spareLaneTakeover (s : State) (b : Nat) : State :=
  let c := s.chip
  let x := Map.read 0 c.sched.takeover b
  if x == 0 then s
  else
    let (l, cause) := (x % 8, x / 8)
    let c := { c with sched := { c.sched with takeover := Map.write 0 c.sched.takeover b 0 } }
    match c.logicalOf b l, c.idleSpare b with
    | some i, some k =>
      let t := ({ s with chip := c } : State).laneCopy b l k (cause == 2)
      let c := t.chip.takeLane b i l k cause
      let c := if cause == 1 then c.setLane b l 2 else c
      { t with chip := c.showLoads b }
    | _, _ => { s with chip := c }

def execSpareLaneTakeover (block : Fin 16) (s : State) : Host.Outcome State Fault Refusal := .next (s.spareLaneTakeover block)

/-! ## Background injections (R483, R490) -/

/-- An injection that a pair missed: 0x6004, INJFAIL and a checker fault. -/
def Chip.injectionMissed (s : Chip) (p : PairId) : Chip :=
  let (g, b) := injection s.lock.inj
  let s := (s.wrBit 0x6000 0x01 1 true).post 0x6004 (placeOfPair p) (le 4 g ++ le 4 b)
  s.pairFault p true (le 1 (if g == 6 then 2 else 1) ++ le 4 (if g == 6 then b else if g == 7 then b / 2 + 1 else g))

/-- The same in the guard phase; a Tine without a spare that stands stopped has failed its start-up injection. -/
def Chip.missedInjection (s : Chip) (p : PairId) : Chip :=
  match p with
  | .tine t =>
    if s.unchecked p then s
    else if !(s.tine t).stopped then s.injectionMissed p
    else if t.isLane then s
    else s.resumeNonspare t false
  | .supervisor _ => if s.unchecked p then s else s.injectionMissed p

/-- The rotation goes on: 604b:04 counts completed ones. -/
def Chip.nextInjection (s : Chip) : Chip :=
  let n := (s.lock.inj + 1) % 335
  let s := { s with lock := { s.lock with inj := n } }
  if n == 0 then (List.range 16).foldl (fun s b => s.inc 32 (0x6040 + b) 0x04) s else s

/-- Tines without a spare that stand stopped, and have passed their injection, start again (R490). -/
def Chip.resumeAll (s : Chip) : Chip :=
  ((List.range 16).map (fun r => TineId.ringCtl (Fin.ofNat 16 r)) ++ (List.range 4).map (fun p => TineId.can (Fin.ofNat 4 p)) ++
    [TineId.recorder]).foldl (fun s t => s.resumeNonspare t true) s

/-! ## GUARD_PHASE (R47) -/

/-- The impedance jobs of the next tick are placed: the bursts of this tick's instant arrive then (R110), and the pages of their elements are
named to the pager (R430). Other slow jobs name theirs when their command places them (log entry 146). -/
def Chip.namePages (s : Chip) : Chip :=
  if 1 ≤ s.rd 0x2100 0x03 then s
  else (List.range 16).foldl (fun s r =>
    s.wantPages (((s.burstsAt r s.ticks).filter (fun x => s.herdState r x.1 == 2 && !s.isHead r x.1)).map
      (fun x => pageOf ((r * 64 + x.1) * 16 + x.2)))) s

/-- GUARD_PHASE: `missed` are the pairs whose injection of the guard phase was not detected. -/
def Chip.guardPhase (s : Chip) (missed : List PairId) : Chip :=
  if !s.up then s
  else
    let s := (s.atPhase 95).suspendJobs.shed
    let s := { s with pager := { s.pager with before := [] } }
    let s := { s with sched := { s.sched with admits := [], move := [], takeover := [] } }
    let s := ((missed.foldl Chip.missedInjection s).resumeAll).nextInjection
    let s := (List.range 16).foldl Chip.showRetries ((s.pager.errs.map (·.1)).foldl Chip.showErrors s)
    let s := (List.range 16).foldl Chip.decideTakeover s.checkSegments.decideRows.checkPool
    let s := (List.range 16).foldl (fun s b => (s.rebalance b).planSpread b) s
    ((List.range 16).foldl (fun s b => if s.configured b then s.showLoads b else s) s.decideFawns.namePages).serveReads

def execGuardPhase (missed : List PairId) : State → Host.Outcome State Fault Refusal := lift (·.guardPhase missed)

/-! ## PUBLISH_DEADLINE (R64, R274, R489) -/

/-- The published objects and the published copy of the tick before stand, with the stale mark. -/
def Chip.restorePublished (s : Chip) : Chip :=
  let od := mergeInto (s.od.filter (fun x => !publishedKey x.1)) s.limOld
  let s := { s with od := od, flagsOld := s.flagsOld.map (fun (x : Nat × Nat) => (x.1, x.2 % 131072 + 131072))
                    pub := List.map (fun (x : Nat × List Byte) => (x.1, splice x.2 18 (le 2 (putBit (consOf x.2) 15 true)))) s.pubOld
                    slotPub := s.slotOld.map (fun (x : Nat × SlotRec) => (x.1, { x.2 with age := min 255 (x.2.age + 1) })) }
  (List.range 32).foldl (fun s n => s.wrBit (0x2620 + n) 0x0B 7 true) (s.wrBit 0x2600 0x11 7 true)

/-- PUBLISH_DEADLINE: a publish overrun where the supervisor has not placed everything; one that a failed supervisor pair
causes is not recorded. -/
def Chip.publishDeadline (s : Chip) (placed : Bool) : Chip :=
  let s := s.atPhase 70
  if !s.up || s.sched.published then s
  else
    let s := { s with sched := { s.sched with published := true } }
    if s.lock.supFault then s.restorePublished
    else if placed then s
    else
      let s := (s.restorePublished.flag 0x2100 0x05 5).post 0x6031 0
      { s with sched := { s.sched with overrun := true } }

end Sys2Proof.Machine
end

