-- ==== Sys2Proof/Machine/Tree.lean ====
section
/-!
DEFINITION. Sys2Proof/Machine/Tree.lean: the device tree: discovery of children, their subtree summaries and the device's own
(R557–R563).
-/

namespace Sys2Proof.Machine

/-! ## Child slots (R557, R558, R563) -/

def Chip.child (s : Chip) (k : Nat) : Child := Map.read {} s.children k
def Chip.setChild (s : Chip) (k : Nat) (c : Child) : Chip := { s with children := Map.write {} s.children k c }

/-- State of a child slot (2C9k:02): 0 empty, 1 found, 2 connected, 3 fresh, 4 stale, 5 lost, 6 refused. -/
def Chip.childState (s : Chip) (k : Nat) : Nat := s.rd (0x2C90 + k) 0x02

/-- A connected child: its session is open, whatever the age of its contribution. -/
def Chip.childUp (s : Chip) (k : Nat) : Bool := 2 ≤ s.childState k && s.childState k ≤ 4

/-- Put a child's state; 2C80:02 counts the connected ones. -/
def Chip.setChildState (s : Chip) (k v : Nat) : Chip :=
  let s := s.wr (0x2C90 + k) 0x02 v
  s.wr 0x2C80 0x02 ((List.range 32).filter s.childUp).length

/-- Are children served on D port `d`, 0 or 1 (2C80:01)? -/
def Chip.treePort (s : Chip) (d : Nat) : Bool := s.rdBit 0x2C80 0x01 d

/-- A frame sent, or received, on an Ethernet port (R581). -/
def Chip.sentFrame (s : Chip) (p : Nat) : Chip := s.inc 32 (0x2C20 + p) 0x09
def Chip.gotFrame (s : Chip) (p : Nat) : Chip := s.inc 32 (0x2C20 + p) 0x08

/-- DISCOVER_BROADCAST (R557): one frame on each D port with children. -/
def execDiscoverBroadcast : State → Host.Outcome State Fault Refusal :=
  lift (fun s => if s.netUp then (bitsSet 2 (s.rd 0x2C80 0x01)).foldl (fun s d => s.sentFrame (2 + d)) s else s)

/-- DISCOVER_MESSAGE (R557): HELLO answers on ETA or ETB, and the sender is the parent of that port. -/
def execDiscoverMessage (port : Fin 2) (_serial : BitVec 64) (fingerprint : BitVec 256) :
    State → Host.Outcome State Fault Refusal :=
  lift (fun s =>
    if s.netUp then
      { (s.gotFrame port).sentFrame port with parents := Map.write [] s.parents port (be 32 fingerprint.toNat) }
    else s)

/-- Is a session opened to a child: any child, or a listed serial number (R558)? -/
def Chip.accepts (s : Chip) (serial : Nat) : Bool :=
  s.rd 0x2C80 0x04 == 1 || (serial != 0 && (List.range 32).any (fun k => s.rd (0x2C90 + k) 0x01 == serial))

/-- The slot that a child keeps, by its serial number, or the first free one. -/
def Chip.childSlot (s : Chip) (serial : Nat) : Option Nat :=
  match (List.range 32).find? (fun k => s.childState k != 0 && (s.child k).serial == serial) with
  | some k => some k
  | none => (List.range 32).find? (fun k => s.childState k == 0)

/-- A child is refused: 0x8024 on entry, cause 1 not accepted, 2 handshake failed. -/
def Chip.refuseChild (s : Chip) (k p serial cause : Nat) : Chip :=
  if s.childState k == 6 then s
  else (s.setChildState k 6).post 0x8024 p (le 8 serial ++ le 1 cause)

/-- HELLO: `hsOk` is the outcome of the session's handshake, `role` the role that the child grants. -/
def Chip.hello (s : Chip) (d serial : Nat) (hsOk : Bool) (role : Nat) : Chip :=
  let p := 2 + d
  if !s.netUp || !s.treePort d then s
  else
    let s := s.gotFrame p
    match s.childSlot serial with
    | none => s
    | some k =>
      let fresh := s.childState k == 0
      let s := s.wr (0x2C90 + k) 0x03 p
      let s := if fresh then ((s.setChild k { serial := serial }).setChildState k 1).post 0x8020 p (le 8 serial) else s
      if s.childUp k then s
      else if !s.accepts serial then s.refuseChild k p serial 1
      else if !hsOk then s.refuseChild k p serial 2
      else ((s.setChild k { serial := serial }).setChildState k 2).post 0x8021 k (le 8 serial ++ le 1 role)

def execHello (dPort : Fin 2) (serial : BitVec 64) (handshakeOk : Bool) (role : Fin 4) :
    State → Host.Outcome State Fault Refusal := lift (·.hello dPort serial.toNat handshakeOk role)

/-- CHILD_LOST (R563): the slot keeps its serial number. -/
def Chip.childLost (s : Chip) (k : Nat) : Chip :=
  if s.up && s.childUp k then (s.setChildState k 5).post 0x8022 k (le 8 (s.child k).serial) else s

def execChildLost (k : Fin 32) : State → Host.Outcome State Fault Refusal := lift (·.childLost k)

/-- LINK_DELAY_ECHO (R560): half the median of ten round trips, ns. -/
def Chip.linkDelay (s : Chip) (k : Nat) (trips : List Nat) : Chip :=
  if s.netUp && s.childUp k && trips.length == 10 then
    let xs := sortBy (fun a b => decide (a ≤ b)) trips
    s.wr (0x2C90 + k) 0x04 (min 0xFFFFFFFF ((xs.getD 4 0 + xs.getD 5 0) / 4))
  else s

def execLinkDelayEcho (k : Fin 32) (roundTrips : List Nat) : State → Host.Outcome State Fault Refusal :=
  lift (·.linkDelay k roundTrips)

/-! ## Summaries (R559–R561) -/

/-- CHILD_SUMMARY: kept with its age on receipt and the link delay; a payload of another length is none. -/
def Chip.childSummary (s : Chip) (k : Nat) (b : List Byte) : Chip :=
  if s.netUp && s.childUp k && b.length == 80 then
    let s := (s.gotFrame (s.rd (0x2C90 + k) 0x03)).wrDom (0x2C90 + k) 0x06 b
    s.setChild k { s.child k with age := leAt b 16 4 + s.rd (0x2C90 + k) 0x04, at_ := s.mono, heard := true }
  else s

def execChildSummary (k : Fin 32) (bytes : List Byte) : State → Host.Outcome State Fault Refusal := lift (·.childSummary k bytes)

/-- Contribution age of a child at the end of the publish phase, ns. -/
def Chip.childAge (s : Chip) (k : Nat) : Nat := (s.child k).age + (s.mono - (s.child k).at_)

/-- Freshness of one child at the end of publish (R561); 0x8023 once at each entry into the stale state. -/
def Chip.ageChild (s : Chip) (k : Nat) : Chip :=
  if !s.childUp k || !(s.child k).heard then s
  else
    let age := min 0xFFFFFFFF (s.childAge k)
    let s := s.wr (0x2C90 + k) 0x05 age
    if s.childAge k ≤ 1000 * s.rd 0x2C80 0x03 then s.setChildState k 3
    else if s.childState k == 4 then s
    else (s.setChildState k 4).post 0x8023 k (le 4 age)

/-- The flags of the device's own contribution: SAFE-HOLD, a latch, time not LOCKED, limits 0, and a child's contribution that
is not fresh. -/
def Chip.ownFlags (s : Chip) : Nat :=
  let stale := (List.range 32).any (fun k => s.childState k == 2 || s.childState k == 4 || s.childState k == 5)
  let zero := (List.range 4).all (fun k => s.limP false k == 0 && s.limP true k == 0)
  (if stale then 1 else 0) + (if s.mode == .safeHold then 2 else 0) + (if s.trip.latched == 0 then 0 else 4) +
    (if s.rd 0x2200 0x03 == 1 then 0 else 8) + (if zero then 16 else 0)

/-- The subtree summary over the device's own values and those of its fresh children (R559, R560). Sums that leave their field
saturate (log entry 71). -/
def Chip.summaryBytes (s : Chip) : List Byte :=
  let bs := ((List.range 32).filter (fun k => s.childState k == 3)).map (fun k => s.rdDom (0x2C90 + k) 0x06)
  let ages := ((List.range 32).filter (fun k => s.childState k == 3)).map s.childAge
  let sum (own off n : Nat) : List Byte := le n (min (2 ^ (8 * n) - 1) (bs.foldl (fun x b => x + leAt b off n) own))
  let top (own off n : Nat) : Nat := bs.foldl (fun x b => max x (leAt b off n)) own
  le 8 (s.rd 0x1020 0x00) ++ le 8 s.ticks ++ le 4 (min 0xFFFFFFFF (ages.foldl max (s.periodNs / 10 * 7))) ++ le 1 s.mode.code ++
  le 1 (min 255 (1 + top 0 21 1)) ++ sum 1 22 1 ++ le 1 (bs.foldl (fun x b => x ||| leAt b 23 1) s.ownFlags) ++
  (List.range 4).flatMap (fun k => sum (s.limP false k) (24 + 4 * k) 4) ++
  (List.range 4).flatMap (fun k => sum (s.limP true k) (40 + 4 * k) 4) ++
  sum (s.rd 0x2800 0x12) 56 8 ++ sum (s.rd 0x2800 0x13) 64 8 ++
  le 2 (bs.foldl (fun x b => min x (leAt b 72 2)) (s.rd 0x2800 0x10)) ++ le 2 (top (s.rd 0x2800 0x11) 74 2) ++ zeros 4

/-- Form the device's summary at the end of publish; a session of a parent streams it (R559). -/
def Chip.formSummary (s : Chip) : Chip :=
  if !s.up then s
  else
    let s := (List.range 32).foldl Chip.ageChild s
    let s := s.wrDom 0x2C80 0x10 s.summaryBytes
    (s.sessions.filter (fun x => x.2.parent)).foldl (fun s x => s.sentFrame x.2.port) s

/-- PUBLISH_DEADLINE (R64, R560). -/
def execPublishDeadline (placed : Bool) : State → Host.Outcome State Fault Refusal :=
  lift (fun s => (s.publishDeadline placed).formSummary)

end Sys2Proof.Machine
end

