-- ==== Sys2Proof/Machine/Tick.lean ====
section
/-!
DEFINITION. Sys2Proof/Machine/Tick.lean: the tick edge, the change of the tick period and the broadcast of kernels (R42–R46,
R206, R246, R288, R344, R419).
-/

namespace Sys2Proof.Machine

/-! ## Clocks and leases -/

/-- The next tick edge comes; the tick count and the device's durations advance (R506). -/
def Chip.advance (s : Chip) : Chip :=
  let sub := s.clk.subSec + 1
  let whole := decide (1000 ≤ sub * s.clk.p)
  let s := { s with clk := { s.clk with edge := s.nextEdge, off := 0, sincePor := s.clk.sincePor + s.clk.p
                                        subSec := if whole then 0 else sub } }
  let s := s.inc 64 0x2100 0x0A
  if whole then s.inc 32 0x1040 0x01 else s

/-- What remains of the leases (R548); CHECK has none. -/
def Chip.runLeases (s : Chip) : Chip :=
  { s with claims := s.claims.map (fun (c : Claim) => if c.run == .check then c else { c with left := c.left - s.clk.p }) }

/-- Time in holdover (2200:11). -/
def Chip.runHoldover (s : Chip) : Chip :=
  if s.rd 0x2200 0x03 != 2 then s
  else
    let ms := s.time.holdMs + s.clk.p
    { s with time := { s.time with holdMs := ms } }.wr 0x2200 0x11 (ms / 1000)

/-- A loss of the die link goes on (R41). -/
def Chip.runLink (s : Chip) : Chip :=
  if s.link.lostDown || s.link.lostUp then { s with link := { s.link with lossTicks := s.link.lossTicks + 1 } } else s

/-- Region faults in the last 600 s (R462). -/
def Chip.runRegions (s : Chip) : Chip :=
  (List.range 4).foldl (fun s r =>
    let ts := (Map.read [] s.regions r).filter (fun t => decide (s.rd 0x1040 0x01 < t + 600))
    s.wr (0x6064 + r) 0x03 (min 255 ts.length)) s

/-- Token buckets refill at their RATE (R612). -/
def Recorder.refill (r : Recorder) (rate : Nat → Nat) (ms : Nat) : Recorder :=
  { r with spent := r.spent.filterMap (fun (x : Nat × Nat) => if x.2 ≤ rate x.1 * ms then none else some (x.1, x.2 - rate x.1 * ms)) }

/-! ## Rings and slots -/

/-- The ring of a new tick: requests age (R130), the slots of the tick before that did not come count as missing (R155), and
the frames of that tick are gone. A position collected in alternate ticks is not missing in the other ones (R164). -/
def Chip.ringEdge (s : Chip) (r : Nat) : Chip :=
  let g := s.ring r
  let miss (p : Nat) : Nat :=
    let n := Map.read 0 g.missing p
    let other := bit (s.rd (0x3107 + 16 * r) 0x0A) p && (s.ticks + p) % 2 == 1
    if s.herdState r p != 2 || g.got.getLsbD p || !s.hasPath r p then 0 else if other then n else n + 1
  let missing := if s.sweeps r then (List.range 64).filterMap (fun p => if miss p = 0 then none else some (p, miss p)) else []
  s.setRing r { g with txs := g.txs.map (fun (t : Tx) => { t with age := t.age + 1 }), missing := missing, got := 0
                       sentA := [], sentB := [], recA := [], recB := [], dueA := 0, dueB := 0, limited := false, restored := false
                       queue := g.queue.map (fun (q : Req) => { q with late := false })
                       brkTicks := if g.brk.isSome then g.brkTicks + 1 else 0 }

/-- Slots stand from an earlier tick until a fresh one comes (R395), and the bursts of the tick before are gone (R182). -/
def Chip.ageSlots (s : Chip) : Chip :=
  { s with slotData := s.slotData.map (fun (x : Nat × SlotRec) => (x.1, { x.2 with age := min 255 (x.2.age + 1) })), burstData := [] }

/-- The sweep program of a ring controller starts at its entry at every tick edge (R387, R401), where its region runs. -/
def Chip.startSweep (s : Chip) (r : Nat) : Chip :=
  let x := s.tine (.ringCtl (Fin.ofNat 16 r))
  if x.stopped || x.halted || s.rd (0x6064 + r / 4) 0x01 != 0 then s else s.freshTine (80 + r) 5 0

/-- What lanes have done and how they have failed is that of one tick (R49, R58, R62). -/
def Chip.freshTier (s : Chip) : Chip :=
  { s with tines := s.tines.each {} (fun x => { x with protRan := false, estRan := 0, slow := 0, due := 0 })
           sched := { s.sched with protFail := 0, estFail := 0 }
           lock := { s.lock with stale := 0 } }

/-! ## A new tick period (R46) -/

/-- The BOFS words of a position (R116, R181). -/
def Chip.bofsOf (s : Chip) (r p : Nat) : List Nat :=
  match (s.configWords r p (s.herdType r p == 2)).find? (fun w => w.1 == 0x10) with
  | some w => w.2
  | none => []

/-- The WRITEs of TICKP and BOFS to a position, in the order that keeps every offset below TICKP. -/
def Chip.periodWrites (s : Chip) (falls : Bool) (ns r p : Nat) : Chip :=
  let bofs := writePayload 0x10 (s.bofsOf r p)
  let tickp := writePayload 0x07 [ns]
  if falls then (s.request r p 5 bofs).request r p 5 tickp else (s.request r p 5 tickp).request r p 5 bofs

/-- In the tick that ends at the edge of the change, the ring controllers write to every admitted slice. -/
def Chip.tellPeriod (s : Chip) : Chip :=
  match s.clk.newP with
  | none => s
  | some p =>
    if s.clk.told || s.nextEdge % 4000000 != 0 then s
    else
      let ring (s : Chip) (r : Nat) : Chip := (List.range (s.nOf r)).foldl (fun s q =>
        if s.herdState r q == 2 then s.periodWrites (decide (p < s.clk.p)) (p * 1000000) r q else s) s
      let s := (List.range 16).foldl ring s
      { s with clk := { s.clk with told := true } }

/-! ## What was decided for this edge -/

/-- A reserve release written before the edge (R266). -/
def Chip.edgeRelease (s : Chip) : Chip :=
  match s.release with
  | some (v, m) => { s with release := none }.applyRelease v m
  | none => s

/-- Learned capacities go into the fast records (R284). -/
def Chip.edgeCapacity (s : Chip) : Chip :=
  { s.newQ.foldl (fun s (x : Nat × F32) => s.putQcap x.1 x.2) s with newQ := [] }

/-- Herd table copies that an uncorrectable error has spoilt (R460). -/
def Chip.edgeReload (s : Chip) : Chip := { s.reload.foldl Chip.reloadHerd s with reload := [] }

/-- The days without rest are counted (R290), a request's window follows the present mean SoC (R287; log entry 138), and a cause of a
cancelled rest request that still holds is raised again (R288). -/
def Chip.edgeRest (s : Chip) (n : Nat) : Chip :=
  let s := if (s.es n).sinceRest.isSome then s.showRestAge n else s
  let s := if s.rd (0x2920 + n) 0x06 == 0 then s else s.restWindow n
  if !(s.es n).cancelled then s
  else
    let s := (s.setEs n { s.es n with cancelled := false }).sigmaRest n
    let s := if s.rdBit (0x2840 + n) 0x0E 3 then s.raiseRest n 2 else s
    let s := if s.rdBit (0x2920 + n) 0x0C 0 then s.raiseRest n 3 else s
    if (s.es n).sinceRest.isSome && decide (s.rd 0x2900 0x0A * dayS ≤ s.restAge n) then s.raiseRest n 0 else s

/-- HELD strings are tested again in every tick of ACTIVE while no switching step runs (R344). -/
def Chip.heldRetest (s : Chip) : Chip :=
  let held := (List.range 32).filter (fun n => (s.st n).sw == .held)
  if s.mode != .active || s.trans != .none || s.swi.step.isSome || s.swi.ramp || held.isEmpty then s
  else (held.foldl (fun s n => s.setSt n { s.st n with wait := true }) s).goAhead

/-- TICK_EDGE on the chip: the commands that name an effect at an edge (admissions, moves, takeovers, steps) follow it. -/
def Chip.tickEdge (s : Chip) : Chip :=
  let s := (List.range 16).foldl Chip.ringEdge s
  let s := ((s.advance.runLeases).runHoldover).runLink
  let s := ((s.settleClaims.tellPeriod).takeActive).runRegions
  let s := (((s.edgeRelease).edgeCapacity).edgeReload).edgeRows
  let s := (List.range 16).foldl Chip.applySpread s
  let s := (List.range 16).foldl (fun s r => if (s.ring r).brk.isSome then s.fitSides r else s) s
  let s := ((s.ageSlots.injectEdge).freshTier).fetchWanted
  let s := (List.range 16).foldl (fun s r => (s.startSweep r).backgroundInjection r) s
  ((List.range 32).foldl Chip.edgeRest s).heldRetest

/-- TICK_EDGE (R42): a near-full threshold that a commit has changed gives the log its state (R617); a commanded restart that was ordered
takes place at the edge (R579). -/
def State.tickEdge (s : State) : State :=
  if !s.chip.up || s.chip.mode == .shutdown then s
  else
    let c := s.chip.tickEdge
    let t : State := { s with chip := c, rcd := s.rcd.refill (fun i => c.rowWord i % 256) c.clk.p }
    let t := if c.rd 0x2B00 0x05 == s.chip.rd 0x2B00 0x05 then t else t.logState
    match c.power.restart with
    | some m => { t with chip := { c with power := { c.power with restart := none } } }.controlledReset 0xA014 m
        (le 2 (c.rd 0x2000 0x03))
    | none => t

def execTickEdge (s : State) : Host.Outcome State Fault Refusal := .next s.tickEdge

/-! ## TICK_PERIOD_CHANGE (R46) -/

/-- TICK_PERIOD_CHANGE: at the first section-time multiple of 4 ms after the return to RUN, once TICKP and BOFS have been written. -/
def Chip.tickPeriodChange (s : Chip) : Chip :=
  match s.clk.newP with
  | none => s
  | some p =>
    if !s.up || !s.clk.told || s.clk.edge % 4000000 != 0 then s
    else
      let old := s.clk.p
      let s := { s with clk := { s.clk with p := p, newP := none, told := false } }.post 0x603A (old * 256 + p)
      (List.range 16).foldl Chip.rebalance s

def execTickPeriodChange : State → Host.Outcome State Fault Refusal := lift Chip.tickPeriodChange

/-! ## KERNEL_BROADCAST (R419, R420) -/

/-- Slow jobs of a kernel that is replaced are abandoned, suspended or placed (R420). -/
def Chip.abandonJobs (s : Chip) (t : TineId) (drop : Nat → Bool) : Chip :=
  let x := s.tine t
  let x := { x with ctxs := x.ctxs.filter (fun (c : Nat × Job) => !drop c.2.image) }
  if x.run && x.job.kind == 3 && drop x.job.image then
    (s.ungrant x.job.pages).setTine t { x with run := false, wait := none, job := { x.job with pages := [] } }
  else s.setTine t x

/-- One kernel in every lane, active and spare, of a block. Where it was not there before, the jobs of kernels that the block's strings do not
use any more, and those of the image it overwrites, are abandoned (R420), and the counts measured for the lanes' estimators are forgotten
(R60). -/
def State.castKernel (s : State) (k b : Nat) : State :=
  let c := s.chip
  let key := b * 256 + imgKcode (c.image k)
  let there := Map.read 0 c.sched.loaded key == k + 1
  let mem := (List.range 5).foldl (fun m l =>
    Memory.loadKernel m (laneTine b l) (c.kernelBase b k) (c.kernelData b k) (c.image k)) s.mem
  let drop (i : Nat) : Bool := i == k || !(c.ringKernels b).contains i
  let c := if there then c else (List.range 5).foldl (fun c l => c.abandonJobs (laneTine b l) drop) c
  let lane (n : Nat) : Bool := n / 16 == b && n < 256 && n % 4 == 2
  let raised := if there then c.sched.raised else c.sched.raised.filter (fun (x : Nat × Nat) => !lane x.1)
  { s with chip := { c with sched := { c.sched with loaded := Map.write 0 c.sched.loaded key (k + 1), raised := raised } }, mem := mem }

/-- KERNEL_BROADCAST: every kernel that waits, in the blocks whose strings use it. -/
def State.kernelBroadcast (s : State) : State :=
  if !s.chip.up then s
  else
    let s := s.chip.kernels.foldl (fun s k =>
      ((List.range 16).filter (fun b => (s.chip.ringKernels b).contains k)).foldl (fun s b => s.castKernel k b) s) s
    { s with chip := { s.chip with kernels := [] } }

def execKernelBroadcast (s : State) : Host.Outcome State Fault Refusal := .next s.kernelBroadcast

end Sys2Proof.Machine
end

