-- ==== Sys2Proof/Machine/TineInt.lean ====
section
/-!
DEFINITION. Sys2Proof/Machine/TineInt.lean: the integer and branch instructions of a Tine (R393).
-/

namespace Sys2Proof.Machine

/-! ## Register and register -/

/-- d = a op b in one cycle. -/
def Chip.rr (s : Chip) (t : TineId) (d a b : Nat) (f : Word → Word → Word) : Chip :=
  s.alu t d [a, b] 1 1 (fun j => f (j.gr a) (j.gr b))

def execAdd (t : TineId) (d a b : Fin 32) : State → Host.Outcome State Fault Refusal := lift (·.rr t d a b (· + ·))
def execSub (t : TineId) (d a b : Fin 32) : State → Host.Outcome State Fault Refusal := lift (·.rr t d a b (· - ·))
def execAnd (t : TineId) (d a b : Fin 32) : State → Host.Outcome State Fault Refusal := lift (·.rr t d a b (· &&& ·))
def execOr (t : TineId) (d a b : Fin 32) : State → Host.Outcome State Fault Refusal := lift (·.rr t d a b (· ||| ·))
def execXor (t : TineId) (d a b : Fin 32) : State → Host.Outcome State Fault Refusal := lift (·.rr t d a b (· ^^^ ·))

/-- The shift amount of a register: its low five bits. -/
def shamt (b : Word) : Nat := b.toNat % 32

def execShl (t : TineId) (d a b : Fin 32) : State → Host.Outcome State Fault Refusal :=
  lift (·.rr t d a b (fun x y => x <<< shamt y))
def execShr (t : TineId) (d a b : Fin 32) : State → Host.Outcome State Fault Refusal :=
  lift (·.rr t d a b (fun x y => x >>> shamt y))
def execSar (t : TineId) (d a b : Fin 32) : State → Host.Outcome State Fault Refusal :=
  lift (·.rr t d a b (fun x y => x.sshiftRight (shamt y)))

/-- 1 where a comparison holds. -/
def oneIf (c : Bool) : Word := if c then 1 else 0

def execSlt (t : TineId) (d a b : Fin 32) : State → Host.Outcome State Fault Refusal :=
  lift (·.rr t d a b (fun x y => oneIf (x.slt y)))
def execSltu (t : TineId) (d a b : Fin 32) : State → Host.Outcome State Fault Refusal :=
  lift (·.rr t d a b (fun x y => oneIf (x.ult y)))

/-- MUL, MULH and MULHU: 1 cycle, then 3. -/
def Chip.mulOp (s : Chip) (t : TineId) (d a b : Nat) (f : Word → Word → Word) : Chip :=
  s.alu t d [a, b] 1 3 (fun j => f (j.gr a) (j.gr b))

def execMul (t : TineId) (d a b : Fin 32) : State → Host.Outcome State Fault Refusal := lift (·.mulOp t d a b (· * ·))
def execMulh (t : TineId) (d a b : Fin 32) : State → Host.Outcome State Fault Refusal :=
  lift (·.mulOp t d a b (fun x y => BitVec.ofInt 32 (x.toInt * y.toInt / 2 ^ 32)))
def execMulhu (t : TineId) (d a b : Fin 32) : State → Host.Outcome State Fault Refusal :=
  lift (·.mulOp t d a b (fun x y => BitVec.ofNat 32 (x.toNat * y.toNat / 2 ^ 32)))

/-- Signed quotient, rounded towards zero (log entry 33); 0xFFFFFFFF for a divisor of 0; the quotient of −2³¹ by −1 has
no 32-bit value and is open. -/
def divS (x y : Word) : Word :=
  if y = 0 then 0xFFFFFFFF
  else if x = 0x80000000 && y = 0xFFFFFFFF then Config.divOverflow
  else BitVec.ofInt 32 (x.toInt.tdiv y.toInt)

/-- The remainder of that division; a for a divisor of 0. -/
def remS (x y : Word) : Word := if y = 0 then x else BitVec.ofInt 32 (x.toInt.tmod y.toInt)

def divU (x y : Word) : Word := if y = 0 then 0xFFFFFFFF else BitVec.ofNat 32 (x.toNat / y.toNat)

def Chip.divOp (s : Chip) (t : TineId) (d a b : Nat) (f : Word → Word → Word) : Chip :=
  s.alu t d [a, b] 18 18 (fun j => f (j.gr a) (j.gr b))

def execDiv (t : TineId) (d a b : Fin 32) : State → Host.Outcome State Fault Refusal := lift (·.divOp t d a b divS)
def execDivu (t : TineId) (d a b : Fin 32) : State → Host.Outcome State Fault Refusal := lift (·.divOp t d a b divU)
def execRem (t : TineId) (d a b : Fin 32) : State → Host.Outcome State Fault Refusal := lift (·.divOp t d a b remS)

/-- ADDC: a + b + C, and the carry. -/
def Job.addc (j : Job) (d a b : Nat) : Job :=
  let n := (j.gr a).toNat + (j.gr b).toNat + (if j.carry then 1 else 0)
  (((j.issue [a, b] 1).setG d (BitVec.ofNat 32 n)).usable d 1 1).setCarry (decide (2 ^ 32 ≤ n))

/-- SUBC: a − b − C, and the borrow. -/
def Job.subc (j : Job) (d a b : Nat) : Job :=
  let m := (j.gr b).toNat + (if j.carry then 1 else 0)
  (((j.issue [a, b] 1).setG d (j.gr a - BitVec.ofNat 32 m)).usable d 1 1).setCarry (decide ((j.gr a).toNat < m))

def execAddc (t : TineId) (d a b : Fin 32) : State → Host.Outcome State Fault Refusal := lift (·.regOp t (·.addc d a b))
def execSubc (t : TineId) (d a b : Fin 32) : State → Host.Outcome State Fault Refusal := lift (·.regOp t (·.subc d a b))

def execMin (t : TineId) (d a b : Fin 32) : State → Host.Outcome State Fault Refusal :=
  lift (·.rr t d a b (fun x y => if x.slt y then x else y))
def execMax (t : TineId) (d a b : Fin 32) : State → Host.Outcome State Fault Refusal :=
  lift (·.rr t d a b (fun x y => if x.slt y then y else x))

/-- Leading zeros; 32 for 0. -/
def clzW (x : Word) : Word := if x = 0 then 32 else BitVec.ofNat 32 (31 - Nat.log2 x.toNat)

def execClz (t : TineId) (d a : Fin 32) : State → Host.Outcome State Fault Refusal :=
  lift (·.alu t d [a.val] 1 1 (fun j => clzW (j.gr a)))

/-! ## Register and immediate -/

def sext (i : BitVec 16) : Word := i.signExtend 32
def zext (i : BitVec 16) : Word := i.setWidth 32

def Chip.ri (s : Chip) (t : TineId) (d a : Nat) (f : Word → Word) : Chip := s.alu t d [a] 1 1 (fun j => f (j.gr a))

def execAddi (t : TineId) (d a : Fin 32) (imm : BitVec 16) : State → Host.Outcome State Fault Refusal :=
  lift (·.ri t d a (· + sext imm))
def execAndi (t : TineId) (d a : Fin 32) (imm : BitVec 16) : State → Host.Outcome State Fault Refusal :=
  lift (·.ri t d a (· &&& zext imm))
def execOri (t : TineId) (d a : Fin 32) (imm : BitVec 16) : State → Host.Outcome State Fault Refusal :=
  lift (·.ri t d a (· ||| zext imm))
def execXori (t : TineId) (d a : Fin 32) (imm : BitVec 16) : State → Host.Outcome State Fault Refusal :=
  lift (·.ri t d a (· ^^^ zext imm))
def execSlti (t : TineId) (d a : Fin 32) (imm : BitVec 16) : State → Host.Outcome State Fault Refusal :=
  lift (·.ri t d a (fun x => oneIf (x.slt (sext imm))))
def execLui (t : TineId) (d : Fin 32) (imm : BitVec 16) : State → Host.Outcome State Fault Refusal :=
  lift (·.alu t d [] 1 1 (fun _ => zext imm <<< 16))
def execShli (t : TineId) (d a : Fin 32) (imm : Fin 32) : State → Host.Outcome State Fault Refusal :=
  lift (·.ri t d a (· <<< imm.val))
def execShri (t : TineId) (d a : Fin 32) (imm : Fin 32) : State → Host.Outcome State Fault Refusal :=
  lift (·.ri t d a (· >>> imm.val))
def execSari (t : TineId) (d a : Fin 32) (imm : Fin 32) : State → Host.Outcome State Fault Refusal :=
  lift (·.ri t d a (·.sshiftRight imm.val))

/-! ## Branches and jumps -/

/-- The target of an offset in words from the next instruction. -/
def wordOff (pc : Nat) (off : Int) : Nat := (((pc : Int) + 4 + 4 * off) % 2 ^ 32).toNat

/-- A branch: 1 cycle, or 2 taken. -/
def Job.branch (j : Job) (srcs : List Nat) (taken : Bool) (off : BitVec 16) : Job :=
  if taken then { j.issue srcs 2 with pc := wordOff j.pc off.toInt } else j.issue srcs 1

def Chip.br (s : Chip) (t : TineId) (a b : Nat) (off : BitVec 16) (c : Word → Word → Bool) : Chip :=
  s.regOp t (fun j => j.branch [a, b] (c (j.gr a) (j.gr b)) off)

def execBeq (t : TineId) (a b : Fin 32) (off : BitVec 16) : State → Host.Outcome State Fault Refusal :=
  lift (·.br t a b off (fun x y => x == y))
def execBne (t : TineId) (a b : Fin 32) (off : BitVec 16) : State → Host.Outcome State Fault Refusal :=
  lift (·.br t a b off (fun x y => x != y))
def execBlt (t : TineId) (a b : Fin 32) (off : BitVec 16) : State → Host.Outcome State Fault Refusal :=
  lift (·.br t a b off (fun x y => x.slt y))
def execBge (t : TineId) (a b : Fin 32) (off : BitVec 16) : State → Host.Outcome State Fault Refusal :=
  lift (·.br t a b off (fun x y => !x.slt y))
def execBltu (t : TineId) (a b : Fin 32) (off : BitVec 16) : State → Host.Outcome State Fault Refusal :=
  lift (·.br t a b off (fun x y => x.ult y))
def execBgeu (t : TineId) (a b : Fin 32) (off : BitVec 16) : State → Host.Outcome State Fault Refusal :=
  lift (·.br t a b off (fun x y => !x.ult y))

/-- The return address: the next word. -/
def Job.ret (j : Job) : Word := BitVec.ofNat 32 (j.pc + 4)

def execJal (t : TineId) (off : BitVec 26) : State → Host.Outcome State Fault Refusal :=
  lift (·.regOp t (fun j => { ((j.issue [] 2).setG 31 j.ret).usable 31 2 2 with pc := wordOff j.pc off.toInt }))
def execJalr (t : TineId) (d a : Fin 32) (imm : BitVec 16) : State → Host.Outcome State Fault Refusal :=
  lift (·.regOp t (fun j => { ((j.issue [a.val] 2).setG d j.ret).usable d 2 2 with pc := (j.gr a + sext imm).toNat }))

/-- BRB (R393, R399): branch where CYCLIM − CYC, held at 0, is below Ga. -/
def execBrb (t : TineId) (a : Fin 32) (off : BitVec 16) : State → Host.Outcome State Fault Refusal :=
  lift (·.regOp t (fun j => j.branch [a.val] (decide (j.lim - j.cycNow [a.val] < (j.gr a).toNat)) off))

end Sys2Proof.Machine
end

