-- ==== Sys2Proof/Machine/TineVec.lean ====
section
/-!
DEFINITION. Sys2Proof/Machine/TineVec.lean: the vector floating-point instructions of a Tine (R390, R393).
-/

namespace Sys2Proof.Machine

/-- Write one half of vd where the mask names it, with the sticky flags of the operation. -/
def Job.half (j : Job) (named high : Bool) (vd : Nat) (r : FRes) : Job :=
  if named then (j.setV high vd r.val).raise r.flags else j

/-- Scoreboard keys of the halves that a mask names of some V registers. -/
def halfKeys (lo hi : Bool) (vs : List Nat) : List Nat :=
  (if lo then vs.map (vkey false) else []) ++ (if hi then vs.map (vkey true) else [])

/-- An instruction on halves: each half named by the mask takes `f` of the operands' halves; an unwritten half keeps its
value (R392), and what is still to come of it. -/
def Job.vec (j : Job) (vd : Nat) (srcs : List Nat) (lo hi : Bool) (cost n : Nat) (f : Bool → FRes) : Job :=
  (((j.issue srcs cost).half lo false vd (f false)).half hi true vd (f true)).usableAll (halfKeys lo hi [vd]) cost n

def Chip.vec (s : Chip) (t : TineId) (vd : Nat) (vs : List Nat) (lo hi : Bool) (cost n : Nat) (f : Job → Bool → FRes) : Chip :=
  s.regOp t (fun j => j.vec vd (halfKeys lo hi vs) lo hi cost n (f j))

/-- va op vb: 1 cycle, then 4. -/
def Chip.vv (s : Chip) (t : TineId) (vd va vb : Nat) (lo hi : Bool) (f : F32 → F32 → FRes) : Chip :=
  s.vec t vd [va, vb] lo hi 1 4 (fun j h => f (j.vr h va) (j.vr h vb))

def execVadd (t : TineId) (vd va vb : Fin 16) (lo hi : Bool) : State → Host.Outcome State Fault Refusal :=
  lift (·.vv t vd va vb lo hi f32Add)
def execVsub (t : TineId) (vd va vb : Fin 16) (lo hi : Bool) : State → Host.Outcome State Fault Refusal :=
  lift (·.vv t vd va vb lo hi f32Sub)
def execVmul (t : TineId) (vd va vb : Fin 16) (lo hi : Bool) : State → Host.Outcome State Fault Refusal :=
  lift (·.vv t vd va vb lo hi f32Mul)

/-- Fused forms, one rounding. -/
def Chip.vvv (s : Chip) (t : TineId) (vd va vb vc : Nat) (lo hi : Bool) (f : F32 → F32 → F32 → FRes) : Chip :=
  s.vec t vd [va, vb, vc] lo hi 1 4 (fun j h => f (j.vr h va) (j.vr h vb) (j.vr h vc))

def execVfma (t : TineId) (vd va vb vc : Fin 16) (lo hi : Bool) : State → Host.Outcome State Fault Refusal :=
  lift (·.vvv t vd va vb vc lo hi f32Fma)
def execVfms (t : TineId) (vd va vb vc : Fin 16) (lo hi : Bool) : State → Host.Outcome State Fault Refusal :=
  lift (·.vvv t vd va vb vc lo hi (fun a b c => f32Fma a b (f32Neg c)))
def execVfnma (t : TineId) (vd va vb vc : Fin 16) (lo hi : Bool) : State → Host.Outcome State Fault Refusal :=
  lift (·.vvv t vd va vb vc lo hi (fun a b c => f32Fma (f32Neg a) b c))

def execVmin (t : TineId) (vd va vb : Fin 16) (lo hi : Bool) : State → Host.Outcome State Fault Refusal :=
  lift (·.vv t vd va vb lo hi (fun a b => ⟨f32Flush (f32Min a b), 0⟩))
def execVmax (t : TineId) (vd va vb : Fin 16) (lo hi : Bool) : State → Host.Outcome State Fault Refusal :=
  lift (·.vv t vd va vb lo hi (fun a b => ⟨f32Flush (f32Max a b), 0⟩))

/-- An operation on va alone. -/
def Chip.v1 (s : Chip) (t : TineId) (vd va : Nat) (lo hi : Bool) (cost n : Nat) (f : F32 → FRes) : Chip :=
  s.vec t vd [va] lo hi cost n (fun j h => f (j.vr h va))

def execVabs (t : TineId) (vd va : Fin 16) (lo hi : Bool) : State → Host.Outcome State Fault Refusal :=
  lift (·.v1 t vd va lo hi 1 4 (fun a => ⟨f32Abs a, 0⟩))
def execVneg (t : TineId) (vd va : Fin 16) (lo hi : Bool) : State → Host.Outcome State Fault Refusal :=
  lift (·.v1 t vd va lo hi 1 4 (fun a => ⟨f32Neg a, 0⟩))

/-- VSWP: the halves change places; the mask is ignored. -/
def execVswp (t : TineId) (vd va : Fin 16) : State → Host.Outcome State Fault Refusal :=
  lift (·.vec t vd [va.val] true true 1 1 (fun j h => ⟨j.vr (!h) va, 0⟩))

def execVdiv (t : TineId) (vd va vb : Fin 16) (lo hi : Bool) : State → Host.Outcome State Fault Refusal :=
  lift (·.vec t vd [va.val, vb.val] lo hi 14 14 (fun j h => f32Div (j.vr h va) (j.vr h vb)))
def execVsqrt (t : TineId) (vd va : Fin 16) (lo hi : Bool) : State → Host.Outcome State Fault Refusal :=
  lift (·.v1 t vd va lo hi 14 14 f32Sqrt)
def execVexp (t : TineId) (vd va : Fin 16) (lo hi : Bool) : State → Host.Outcome State Fault Refusal :=
  lift (·.v1 t vd va lo hi 12 12 f32Exp)

/-! ## Between G and V registers -/

/-- VMVG: the bits of ga into a half of vd. -/
def execVmvg (t : TineId) (vd : Fin 16) (ga : Fin 32) (high : Bool) : State → Host.Outcome State Fault Refusal :=
  lift (·.regOp t (fun j => ((j.issue [ga.val] 1).setV high vd (j.gr ga)).usable (vkey high vd) 1 1))

/-- GMVV: the bits of a half of va into ga. -/
def execGmvv (t : TineId) (ga : Fin 32) (va : Fin 16) (high : Bool) : State → Host.Outcome State Fault Refusal :=
  lift (·.alu t ga [vkey high va] 1 1 (fun j => j.vr high va))

/-- VCVTI: a signed word converted. -/
def execVcvti (t : TineId) (vd : Fin 16) (ga : Fin 32) (high : Bool) : State → Host.Outcome State Fault Refusal :=
  lift (·.regOp t (fun j => ((j.issue [ga.val] 1).half true high vd (f32OfInt (j.gr ga).toInt)).usable (vkey high vd) 1 4))

/-- VCVTF: rounded to the nearest word, saturating; NaN gives 0. -/
def execVcvtf (t : TineId) (ga : Fin 32) (va : Fin 16) (high : Bool) : State → Host.Outcome State Fault Refusal :=
  lift (·.regOp t (fun j =>
    let r := f32ToInt32 (j.vr high va)
    (((j.issue [vkey high va] 1).setG ga r.val).raise r.flags).usable ga 1 4))

/-- VCMP: less-than flags of the low and the high half, then the equal flags. -/
def vcmpWord (j : Job) (vd va : Nat) : Word :=
  BitVec.ofNat 32 ((if f32Lt (j.vr false va) (j.vr false vd) then 1 else 0) + (if f32Lt (j.vr true va) (j.vr true vd) then 2 else 0) +
    (if f32Eq (j.vr false va) (j.vr false vd) then 4 else 0) + (if f32Eq (j.vr true va) (j.vr true vd) then 8 else 0))

def execVcmp (t : TineId) (ga : Fin 32) (vd va : Fin 16) : State → Host.Outcome State Fault Refusal :=
  lift (·.alu t ga (vkeys vd ++ vkeys va) 1 1 (fun j => vcmpWord j vd va))

/-- VCLASS: the class of the low half in [3:0], of the high half in [7:4]. -/
def execVclass (t : TineId) (ga : Fin 32) (va : Fin 16) : State → Host.Outcome State Fault Refusal :=
  lift (·.alu t ga (vkeys va) 1 1 (fun j => BitVec.ofNat 32 (f32Class (j.vr false va) + 16 * f32Class (j.vr true va))))

end Sys2Proof.Machine
end

