-- ==== Sys2Proof/Machine/TineWord.lean ====
section
/-!
DEFINITION. Sys2Proof/Machine/TineWord.lean: the instruction words of a Tine (R392, R393): an encoder and a decoder
between words and the commands that execute them, and UNDEFINED_OPCODE.
-/

namespace Sys2Proof.Machine

/-! ## Formats (R392) -/

def wRR (op d a b func : Nat) : Nat := op * 2 ^ 26 + d * 2 ^ 21 + a * 2 ^ 16 + b * 2 ^ 11 + func
def wRI (op d a imm : Nat) : Nat := op * 2 ^ 26 + d * 2 ^ 21 + a * 2 ^ 16 + imm
def wVV (op vd va vb vc mask func : Nat) : Nat :=
  op * 2 ^ 26 + vd * 2 ^ 22 + va * 2 ^ 18 + vb * 2 ^ 14 + vc * 2 ^ 10 + mask * 2 ^ 8 + func
def wVX (op vd va ga gb func : Nat) : Nat := op * 2 ^ 26 + vd * 2 ^ 22 + va * 2 ^ 18 + ga * 2 ^ 13 + gb * 2 ^ 8 + func

/-- The mask of the halves: [8] low, [9] high. -/
def maskBits (lo hi : Bool) : Nat := (if lo then 1 else 0) + (if hi then 2 else 0)

def b1 (h : Bool) : Nat := if h then 1 else 0

/-! ## Encoding (R393) -/

/-- The word of a Tine instruction, but for the register number 9 of MTS, which is MTS_EMERG; none of another command. -/
def tineEncode (i : Instr) : Option Nat :=
  match i with
  | .add _ d a b => some (wRR 0x00 d a b 0x000)
  | .sub _ d a b => some (wRR 0x00 d a b 0x001)
  | .and _ d a b => some (wRR 0x00 d a b 0x002)
  | .or _ d a b => some (wRR 0x00 d a b 0x003)
  | .xor _ d a b => some (wRR 0x00 d a b 0x004)
  | .shl _ d a b => some (wRR 0x00 d a b 0x005)
  | .shr _ d a b => some (wRR 0x00 d a b 0x006)
  | .sar _ d a b => some (wRR 0x00 d a b 0x007)
  | .slt _ d a b => some (wRR 0x00 d a b 0x008)
  | .sltu _ d a b => some (wRR 0x00 d a b 0x009)
  | .mul _ d a b => some (wRR 0x00 d a b 0x00A)
  | .mulh _ d a b => some (wRR 0x00 d a b 0x00B)
  | .mulhu _ d a b => some (wRR 0x00 d a b 0x00C)
  | .div _ d a b => some (wRR 0x00 d a b 0x00D)
  | .divu _ d a b => some (wRR 0x00 d a b 0x00E)
  | .rem _ d a b => some (wRR 0x00 d a b 0x00F)
  | .addc _ d a b => some (wRR 0x00 d a b 0x010)
  | .subc _ d a b => some (wRR 0x00 d a b 0x011)
  | .min _ d a b => some (wRR 0x00 d a b 0x012)
  | .max _ d a b => some (wRR 0x00 d a b 0x013)
  | .clz _ d a => some (wRR 0x00 d a 0 0x014)
  | .addi _ d a imm => some (wRI 0x01 d a imm.toNat)
  | .andi _ d a imm => some (wRI 0x02 d a imm.toNat)
  | .ori _ d a imm => some (wRI 0x03 d a imm.toNat)
  | .xori _ d a imm => some (wRI 0x04 d a imm.toNat)
  | .slti _ d a imm => some (wRI 0x05 d a imm.toNat)
  | .lui _ d imm => some (wRI 0x06 d 0 imm.toNat)
  | .shli _ d a imm => some (wRI 0x07 d a (0 * 32 + imm.val))
  | .shri _ d a imm => some (wRI 0x07 d a (1 * 32 + imm.val))
  | .sari _ d a imm => some (wRI 0x07 d a (2 * 32 + imm.val))
  | .ldb _ d a imm _ => some (wRI 0x08 d a imm.toNat)
  | .ldbu _ d a imm _ => some (wRI 0x09 d a imm.toNat)
  | .ldh _ d a imm _ => some (wRI 0x0A d a imm.toNat)
  | .ldhu _ d a imm _ => some (wRI 0x0B d a imm.toNat)
  | .ldw _ d a imm _ => some (wRI 0x0C d a imm.toNat)
  | .ldd _ d a imm _ => some (wRI 0x0D d a imm.toNat)
  | .ldv _ d a imm _ => some (wRI 0x0E d a imm.toNat)
  | .fence _ => some (wRI 0x0F 0 0 0)
  | .stb _ d a imm => some (wRI 0x10 d a imm.toNat)
  | .sth _ d a imm => some (wRI 0x11 d a imm.toNat)
  | .stw _ d a imm => some (wRI 0x12 d a imm.toNat)
  | .std _ d a imm => some (wRI 0x13 d a imm.toNat)
  | .stv _ d a imm => some (wRI 0x14 d a imm.toNat)
  | .beq _ a b off => some (wRI 0x18 a b off.toNat)
  | .bne _ a b off => some (wRI 0x19 a b off.toNat)
  | .blt _ a b off => some (wRI 0x1A a b off.toNat)
  | .bge _ a b off => some (wRI 0x1B a b off.toNat)
  | .bltu _ a b off => some (wRI 0x1C a b off.toNat)
  | .bgeu _ a b off => some (wRI 0x1D a b off.toNat)
  | .jal _ off => some (0x1E * 2 ^ 26 + off.toNat)
  | .jalr _ d a imm => some (wRI 0x1F d a imm.toNat)
  | .vadd _ vd va vb lo hi => some (wVV 0x20 vd va vb 0 (maskBits lo hi) 0x00)
  | .vsub _ vd va vb lo hi => some (wVV 0x20 vd va vb 0 (maskBits lo hi) 0x01)
  | .vmul _ vd va vb lo hi => some (wVV 0x20 vd va vb 0 (maskBits lo hi) 0x02)
  | .vfma _ vd va vb vc lo hi => some (wVV 0x20 vd va vb vc (maskBits lo hi) 0x03)
  | .vfms _ vd va vb vc lo hi => some (wVV 0x20 vd va vb vc (maskBits lo hi) 0x04)
  | .vfnma _ vd va vb vc lo hi => some (wVV 0x20 vd va vb vc (maskBits lo hi) 0x05)
  | .vmin _ vd va vb lo hi => some (wVV 0x20 vd va vb 0 (maskBits lo hi) 0x06)
  | .vmax _ vd va vb lo hi => some (wVV 0x20 vd va vb 0 (maskBits lo hi) 0x07)
  | .vabs _ vd va lo hi => some (wVV 0x20 vd va 0 0 (maskBits lo hi) 0x08)
  | .vneg _ vd va lo hi => some (wVV 0x20 vd va 0 0 (maskBits lo hi) 0x09)
  | .vswp _ vd va => some (wVV 0x20 vd va 0 0 0 0x0A)
  | .vdiv _ vd va vb lo hi => some (wVV 0x20 vd va vb 0 (maskBits lo hi) 0x0B)
  | .vsqrt _ vd va lo hi => some (wVV 0x20 vd va 0 0 (maskBits lo hi) 0x0C)
  | .vexp _ vd va lo hi => some (wVV 0x20 vd va 0 0 (maskBits lo hi) 0x0D)
  | .vmvg _ vd ga high => some (wVX 0x21 vd 0 ga 0 (0x00 + b1 high))
  | .gmvv _ ga va high => some (wVX 0x21 0 va ga 0 (0x02 + b1 high))
  | .vcvti _ vd ga high => some (wVX 0x21 vd 0 ga 0 (0x04 + b1 high))
  | .vcvtf _ ga va high => some (wVX 0x21 0 va ga 0 (0x06 + b1 high))
  | .vcmp _ ga vd va => some (wVX 0x21 vd va ga 0 0x08)
  | .vclass _ ga va => some (wVX 0x21 0 va ga 0 0x09)
  | .ocvi _ vd va ga energy => some (wVX 0x30 vd va ga 0 (b1 energy))
  | .tbli _ vd va ga k => some (wVX 0x31 vd va ga 0 k)
  | .sld _ d a imm => some (wRI 0x32 d a imm.toNat)
  | .sst _ d a imm => some (wRI 0x33 d a imm.toNat)
  | .fq _ a b => some (wRR 0x34 0 a b 0)
  | .rcommit _ a b slow => some (wRR 0x35 0 a b (b1 slow))
  | .wft _ => some (0x36 * 2 ^ 26)
  | .wfe _ mask => some (wRI 0x37 0 0 mask.toNat)
  | .mfs _ d n => some (wRI 0x38 d 0 n)
  | .mts _ n a => some (wRI 0x39 0 a n)
  | .mtsEmerg _ a => some (wRI 0x39 0 a 9)
  | .brb _ a off => some (wRI 0x3A a 0 off.toNat)
  | .cld _ d imm => some (wRI 0x3B d 0 imm.toNat)
  | .cdisp _ a => some (wRI 0x3C 0 a 0)
  | .eld _ d imm => some (wRI 0x3D d 0 imm.toNat)
  | .etrg _ a => some (wRI 0x3E 0 a 0)
  | .fault _ code => some (wRI 0x3F 0 0 code.toNat)
  | _ => none

/-! ## Decoding -/

def f5 (w i : Nat) : Fin 32 := ⟨w / 2 ^ i % 32, Nat.mod_lt _ (by decide)⟩
def f4 (w i : Nat) : Fin 16 := ⟨w / 2 ^ i % 16, Nat.mod_lt _ (by decide)⟩
def fImm (w : Nat) : BitVec 16 := BitVec.ofNat 16 w

/-- Opcode 0x00. -/
def decodeRR (t : TineId) (w : Nat) : Option Instr :=
  let d := f5 w 21
  let a := f5 w 16
  let b := f5 w 11
  match w % 2048 with
  | 0x000 => some (.add t d a b)
  | 0x001 => some (.sub t d a b)
  | 0x002 => some (.and t d a b)
  | 0x003 => some (.or t d a b)
  | 0x004 => some (.xor t d a b)
  | 0x005 => some (.shl t d a b)
  | 0x006 => some (.shr t d a b)
  | 0x007 => some (.sar t d a b)
  | 0x008 => some (.slt t d a b)
  | 0x009 => some (.sltu t d a b)
  | 0x00A => some (.mul t d a b)
  | 0x00B => some (.mulh t d a b)
  | 0x00C => some (.mulhu t d a b)
  | 0x00D => some (.div t d a b)
  | 0x00E => some (.divu t d a b)
  | 0x00F => some (.rem t d a b)
  | 0x010 => some (.addc t d a b)
  | 0x011 => some (.subc t d a b)
  | 0x012 => some (.min t d a b)
  | 0x013 => some (.max t d a b)
  | 0x014 => some (.clz t d a)
  | _ => none

/-- Opcode 0x20. -/
def decodeVV (t : TineId) (w : Nat) : Option Instr :=
  let vd := f4 w 22
  let va := f4 w 18
  let vb := f4 w 14
  let vc := f4 w 10
  let lo := w / 2 ^ 8 % 2 == 1
  let hi := w / 2 ^ 9 % 2 == 1
  match w % 256 with
  | 0x00 => some (.vadd t vd va vb lo hi)
  | 0x01 => some (.vsub t vd va vb lo hi)
  | 0x02 => some (.vmul t vd va vb lo hi)
  | 0x03 => some (.vfma t vd va vb vc lo hi)
  | 0x04 => some (.vfms t vd va vb vc lo hi)
  | 0x05 => some (.vfnma t vd va vb vc lo hi)
  | 0x06 => some (.vmin t vd va vb lo hi)
  | 0x07 => some (.vmax t vd va vb lo hi)
  | 0x08 => some (.vabs t vd va lo hi)
  | 0x09 => some (.vneg t vd va lo hi)
  | 0x0A => some (.vswp t vd va)
  | 0x0B => some (.vdiv t vd va vb lo hi)
  | 0x0C => some (.vsqrt t vd va lo hi)
  | 0x0D => some (.vexp t vd va lo hi)
  | _ => none

/-- Opcode 0x21. -/
def decodeVX (t : TineId) (w : Nat) : Option Instr :=
  let vd := f4 w 22
  let va := f4 w 18
  let ga := f5 w 13
  match w % 256 with
  | 0x00 => some (.vmvg t vd ga false)
  | 0x01 => some (.vmvg t vd ga true)
  | 0x02 => some (.gmvv t ga va false)
  | 0x03 => some (.gmvv t ga va true)
  | 0x04 => some (.vcvti t vd ga false)
  | 0x05 => some (.vcvti t vd ga true)
  | 0x06 => some (.vcvtf t ga va false)
  | 0x07 => some (.vcvtf t ga va true)
  | 0x08 => some (.vcmp t ga vd va)
  | 0x09 => some (.vclass t ga va)
  | _ => none

/-- The command that a word spells on a Tine; none where its opcode or func is undefined. Fields that a format does not
name for an instruction are not looked at. `ecc` is what the check of a load finds (R388), no part of the word. -/
def tineDecode (t : TineId) (w : Nat) (ecc : EccResult := .clean) : Option Instr :=
  let d := f5 w 21
  let a := f5 w 16
  let b := f5 w 11
  let imm := fImm w
  match w / 2 ^ 26 % 64 with
  | 0x00 => decodeRR t w
  | 0x01 => some (.addi t d a imm)
  | 0x02 => some (.andi t d a imm)
  | 0x03 => some (.ori t d a imm)
  | 0x04 => some (.xori t d a imm)
  | 0x05 => some (.slti t d a imm)
  | 0x06 => some (.lui t d imm)
  | 0x07 =>
    (match w / 32 % 4 with
     | 0 => some (.shli t d a (f5 w 0))
     | 1 => some (.shri t d a (f5 w 0))
     | 2 => some (.sari t d a (f5 w 0))
     | _ => none)
  | 0x08 => some (.ldb t d a imm ecc)
  | 0x09 => some (.ldbu t d a imm ecc)
  | 0x0A => some (.ldh t d a imm ecc)
  | 0x0B => some (.ldhu t d a imm ecc)
  | 0x0C => some (.ldw t d a imm ecc)
  | 0x0D => some (.ldd t d a imm ecc)
  | 0x0E => some (.ldv t d a imm ecc)
  | 0x0F => some (.fence t)
  | 0x10 => some (.stb t d a imm)
  | 0x11 => some (.sth t d a imm)
  | 0x12 => some (.stw t d a imm)
  | 0x13 => some (.std t d a imm)
  | 0x14 => some (.stv t d a imm)
  | 0x18 => some (.beq t d a imm)
  | 0x19 => some (.bne t d a imm)
  | 0x1A => some (.blt t d a imm)
  | 0x1B => some (.bge t d a imm)
  | 0x1C => some (.bltu t d a imm)
  | 0x1D => some (.bgeu t d a imm)
  | 0x1E => some (.jal t (BitVec.ofNat 26 w))
  | 0x1F => some (.jalr t d a imm)
  | 0x20 => decodeVV t w
  | 0x21 => decodeVX t w
  | 0x30 => some (.ocvi t (f4 w 22) (f4 w 18) (f5 w 13) (w % 2 == 1))
  | 0x31 => some (.tbli t (f4 w 22) (f4 w 18) (f5 w 13) ⟨w % 8, Nat.mod_lt _ (by decide)⟩)
  | 0x32 => some (.sld t d a imm)
  | 0x33 => some (.sst t d a imm)
  | 0x34 => some (.fq t a b)
  | 0x35 => some (.rcommit t a b (w % 2 == 1))
  | 0x36 => some (.wft t)
  | 0x37 => some (.wfe t imm)
  | 0x38 => some (.mfs t d (f5 w 0))
  | 0x39 => some (if w % 32 == 9 then .mtsEmerg t a else .mts t (f5 w 0) a)
  | 0x3A => some (.brb t d imm)
  | 0x3B => some (.cld t d imm)
  | 0x3C => some (.cdisp t a)
  | 0x3D => some (.eld t d imm)
  | 0x3E => some (.etrg t a)
  | 0x3F => some (.fault t (BitVec.ofNat 8 w))
  | _ => none

/-- Places of the instructions that not every place provides, and the operands that make a defined word no instruction
(R393, R394). -/
def provided (t : TineId) (i : Instr) : Bool :=
  match i with
  | .ocvi _ _ _ _ _ | .rcommit _ _ _ _ => t.isLane
  | .tbli _ _ _ _ k => t.isLane && decide (k.val ≤ 4)
  | .sld _ _ _ _ | .sst _ _ _ _ => t.isLane || t.isRing
  | .fq _ _ _ => t.isRing
  | .wfe _ _ => !t.isLane
  | .cld _ _ _ | .cdisp _ _ => t.isCan
  | .eld _ _ _ | .etrg _ _ => t.isRecorder
  | .ldd _ d _ _ _ | .std _ d _ _ => d.val % 2 == 0
  | _ => true

/-- UNDEFINED_OPCODE (R393): the job ends with fault cause ILLEGAL. -/
def execUndefinedOpcode (t : TineId) (word : Word) : State → Host.Outcome State Fault Refusal :=
  lift (·.onTine t (match tineDecode t word.toNat with
    | some i => provided t i
    | none => false) (fun s _ => s))

end Sys2Proof.Machine
end

