-- ==== Sys2Proof/Machine/Dispatch.lean ====
section
/-!
DEFINITION. Sys2Proof/Machine/Dispatch.lean: one arm per command.
-/

namespace Sys2Proof.Machine

def exec (i : Instr) (s : State) : Host.Outcome State Fault Refusal :=
  match i with
  | .dieLinkFrame lane crcOk => Sys2Proof.Machine.execDieLinkFrame lane crcOk s
  | .dieLinkLaneOut lane => Sys2Proof.Machine.execDieLinkLaneOut lane s
  | .linkLoss up => Sys2Proof.Machine.execLinkLoss up s
  | .linkRecovery => Sys2Proof.Machine.execLinkRecovery s
  | .adoptBlockRead => Sys2Proof.Machine.execAdoptBlockRead s
  | .adoptWrite => Sys2Proof.Machine.execAdoptWrite s
  | .modeRequest m code => Sys2Proof.Machine.execModeRequest m code s
  | .autoActivate m => Sys2Proof.Machine.execAutoActivate m s
  | .bootComplete => Sys2Proof.Machine.execBootComplete s
  | .discoverComplete => Sys2Proof.Machine.execDiscoverComplete s
  | .commandedRestart m v => Sys2Proof.Machine.execCommandedRestart m v s
  | .defaultStaging m mask => Sys2Proof.Machine.execDefaultStaging m mask s
  | .tickEdge => Sys2Proof.Machine.execTickEdge s
  | .timeStep => Sys2Proof.Machine.execTimeStep s
  | .tickPeriodChange => Sys2Proof.Machine.execTickPeriodChange s
  | .fastTierStart => Sys2Proof.Machine.execFastTierStart s
  | .fastTierStop protDone estDone => Sys2Proof.Machine.execFastTierStop protDone estDone s
  | .publishDeadline placed => Sys2Proof.Machine.execPublishDeadline placed s
  | .guardPhase missed => Sys2Proof.Machine.execGuardPhase missed s
  | .shedLevelFall => Sys2Proof.Machine.execShedLevelFall s
  | .boundaryMove block => Sys2Proof.Machine.execBoundaryMove block s
  | .fawnAdmitted r p => Sys2Proof.Machine.execFawnAdmitted r p s
  | .vacancyHoldExpiry r p => Sys2Proof.Machine.execVacancyHoldExpiry r p s
  | .spareLaneTakeover block => Sys2Proof.Machine.execSpareLaneTakeover block s
  | .sweep r p f => Sys2Proof.Machine.execSweep r p f s
  | .sample r p f elapsed near => Sys2Proof.Machine.execSample r p f elapsed near s
  | .duty r p f => Sys2Proof.Machine.execDuty r p f s
  | .ringRead r p f => Sys2Proof.Machine.execRingRead r p f s
  | .ringWrite r p f => Sys2Proof.Machine.execRingWrite r p f s
  | .ctrlOpen r p f => Sys2Proof.Machine.execCtrlOpen r p f s
  | .ctrlClose r p f => Sys2Proof.Machine.execCtrlClose r p f s
  | .kh2CoilEnergise r p => Sys2Proof.Machine.execKh2CoilEnergise r p s
  | .clearOpened r p f => Sys2Proof.Machine.execClearOpened r p f s
  | .unfold r p f => Sys2Proof.Machine.execUnfold r p f s
  | .inject r p f => Sys2Proof.Machine.execInject r p f s
  | .selftest r p f => Sys2Proof.Machine.execSelftest r p f s
  | .selftestComplete r p result => Sys2Proof.Machine.execSelftestComplete r p result s
  | .ctrlReset r p f => Sys2Proof.Machine.execCtrlReset r p f s
  | .balstop r p f => Sys2Proof.Machine.execBalstop r p f s
  | .enum r p f connector => Sys2Proof.Machine.execEnum r p f connector s
  | .ringEcho r p f => Sys2Proof.Machine.execRingEcho r p f s
  | .assign r p f => Sys2Proof.Machine.execAssign r p f s
  | .unsupportedFrame r p f => Sys2Proof.Machine.execUnsupportedFrame r p f s
  | .openAllBurst r p up => Sys2Proof.Machine.execOpenAllBurst r p up s
  | .sliceSample r p x => Sys2Proof.Machine.execSliceSample r p x s
  | .sliceBurst r p e samples => Sys2Proof.Machine.execSliceBurst r p e samples s
  | .dutyTimeout r p => Sys2Proof.Machine.execDutyTimeout r p s
  | .sliceLockLoss r p side => Sys2Proof.Machine.execSliceLockLoss r p side s
  | .sliceLockRegain site => Sys2Proof.Machine.execSliceLockRegain site s
  | .pairExchange site => Sys2Proof.Machine.execPairExchange site s
  | .sliceRestart r p kh2 => Sys2Proof.Machine.execSliceRestart r p kh2 s
  | .sweepSend r => Sys2Proof.Machine.execSweepSend r s
  | .frameReturn r port f complete => Sys2Proof.Machine.execFrameReturn r port f complete s
  | .masterPortLockLoss r side => Sys2Proof.Machine.execMasterPortLockLoss r side s
  | .transactionTimeout r tag => Sys2Proof.Machine.execTransactionTimeout r tag s
  | .openAllRepeat r => Sys2Proof.Machine.execOpenAllRepeat r s
  | .oafail r => Sys2Proof.Machine.execOafail r s
  | .rediscover m r v => Sys2Proof.Machine.execRediscover m r v s
  | .discoveryComplete r fromA fromB portMap latA latB ms => Sys2Proof.Machine.execDiscoveryComplete r fromA fromB portMap latA latB ms s
  | .discoveryTimeout r step => Sys2Proof.Machine.execDiscoveryTimeout r step s
  | .populationScan r fromA fromB => Sys2Proof.Machine.execPopulationScan r fromA fromB s
  | .sliceLost r p => Sys2Proof.Machine.execSliceLost r p s
  | .ringFault r => Sys2Proof.Machine.execRingFault r s
  | .unfoldProbe r => Sys2Proof.Machine.execUnfoldProbe r s
  | .ringRestored r fromA => Sys2Proof.Machine.execRingRestored r fromA s
  | .sampleInstant x => Sys2Proof.Machine.execSampleInstant x s
  | .filterSettled r upper => Sys2Proof.Machine.execFilterSettled r upper s
  | .sourceDisagreement => Sys2Proof.Machine.execSourceDisagreement s
  | .hvDividerTest shifts => Sys2Proof.Machine.execHvDividerTest shifts s
  | .insulationResult busB result => Sys2Proof.Machine.execInsulationResult busB result s
  | .sliceSuspect r p => Sys2Proof.Machine.execSliceSuspect r p s
  | .tapClassification r p => Sys2Proof.Machine.execTapClassification r p s
  | .classificationClear r p item => Sys2Proof.Machine.execClassificationClear r p item s
  | .loopShort r => Sys2Proof.Machine.execLoopShort r s
  | .heartbeatLost r => Sys2Proof.Machine.execHeartbeatLost r s
  | .loopDeassert r => Sys2Proof.Machine.execLoopDeassert r s
  | .comparatorTrip r p e high => Sys2Proof.Machine.execComparatorTrip r p e high s
  | .comparatorRelease r p e => Sys2Proof.Machine.execComparatorRelease r p e s
  | .loopRelease r p => Sys2Proof.Machine.execLoopRelease r p s
  | .kh2LocalOpen r p => Sys2Proof.Machine.execKh2LocalOpen r p s
  | .ocTrip k => Sys2Proof.Machine.execOcTrip k s
  | .hwTrip k => Sys2Proof.Machine.execHwTrip k s
  | .supervisorWatchdog => Sys2Proof.Machine.execSupervisorWatchdog s
  | .emergencyTrip m v => Sys2Proof.Machine.execEmergencyTrip m v s
  | .etripExpiry => Sys2Proof.Machine.execEtripExpiry s
  | .clearLatches m mask => Sys2Proof.Machine.execClearLatches m mask s
  | .overlapEnd => Sys2Proof.Machine.execOverlapEnd s
  | .matrixParityError item => Sys2Proof.Machine.execMatrixParityError item s
  | .initExpiry e => Sys2Proof.Machine.execInitExpiry e s
  | .divergencePersists e => Sys2Proof.Machine.execDivergencePersists e s
  | .disagreeClear e => Sys2Proof.Machine.execDisagreeClear e s
  | .reserveRelease m v => Sys2Proof.Machine.execReserveRelease m v s
  | .releaseExpiry => Sys2Proof.Machine.execReleaseExpiry s
  | .profileApply profile => Sys2Proof.Machine.execProfileApply profile s
  | .restChecking n => Sys2Proof.Machine.execRestChecking n s
  | .restCheck n => Sys2Proof.Machine.execRestCheck n s
  | .capacityLearning e => Sys2Proof.Machine.execCapacityLearning e s
  | .hourlyJob page => Sys2Proof.Machine.execHourlyJob page s
  | .dailyResistance e => Sys2Proof.Machine.execDailyResistance e s
  | .resistanceHistoryAppend e => Sys2Proof.Machine.execResistanceHistoryAppend e s
  | .restRequestInterval n => Sys2Proof.Machine.execRestRequestInterval n s
  | .cancelRestRequest m n v => Sys2Proof.Machine.execCancelRestRequest m n v s
  | .learningSuspended n => Sys2Proof.Machine.execLearningSuspended n s
  | .unrefreshed n => Sys2Proof.Machine.execUnrefreshed n s
  | .impedanceJob e => Sys2Proof.Machine.execImpedanceJob e s
  | .identityCheck r p x => Sys2Proof.Machine.execIdentityCheck r p x s
  | .ident r p => Sys2Proof.Machine.execIdent r p s
  | .cert r p part => Sys2Proof.Machine.execCert r p part s
  | .chal r p nonce => Sys2Proof.Machine.execChal r p nonce s
  | .sig r p part => Sys2Proof.Machine.execSig r p part s
  | .poll r p => Sys2Proof.Machine.execPoll r p s
  | .loadIdentityRecord r p => Sys2Proof.Machine.execLoadIdentityRecord r p s
  | .loadCertificate r p => Sys2Proof.Machine.execLoadCertificate r p s
  | .signNonce r p => Sys2Proof.Machine.execSignNonce r p s
  | .protectionCondition n cond e => Sys2Proof.Machine.execProtectionCondition n cond e s
  | .emergencyUnconfirmed n => Sys2Proof.Machine.execEmergencyUnconfirmed n s
  | .policyEvaluation => Sys2Proof.Machine.execPolicyEvaluation s
  | .rampComplete => Sys2Proof.Machine.execRampComplete s
  | .rampTimeout => Sys2Proof.Machine.execRampTimeout s
  | .stringCloseCommand m n => Sys2Proof.Machine.execStringCloseCommand m n s
  | .stringOrderlyOpen m n => Sys2Proof.Machine.execStringOrderlyOpen m n s
  | .stringEmergencyOpen m n => Sys2Proof.Machine.execStringEmergencyOpen m n s
  | .soloTestEnd => Sys2Proof.Machine.execSoloTestEnd s
  | .contactTimeEnd => Sys2Proof.Machine.execContactTimeEnd s
  | .prechargeTauPoint tauMs => Sys2Proof.Machine.execPrechargeTauPoint tauMs s
  | .prechargeComplete durationMs => Sys2Proof.Machine.execPrechargeComplete durationMs s
  | .prechargeTimeout => Sys2Proof.Machine.execPrechargeTimeout s
  | .retryPauseEnd => Sys2Proof.Machine.execRetryPauseEnd s
  | .sequenceTimeout => Sys2Proof.Machine.execSequenceTimeout s
  | .balancingUpdate => Sys2Proof.Machine.execBalancingUpdate s
  | .channelOnCommand m k => Sys2Proof.Machine.execChannelOnCommand m k s
  | .channelOffCommand m k => Sys2Proof.Machine.execChannelOffCommand m k s
  | .clearLatchCommand m k => Sys2Proof.Machine.execClearLatchCommand m k s
  | .inEdge k level cold => Sys2Proof.Machine.execInEdge k level cold s
  | .rampEnd k => Sys2Proof.Machine.execRampEnd k s
  | .channelRampTimeout k => Sys2Proof.Machine.execChannelRampTimeout k s
  | .inrushWindowEnd k => Sys2Proof.Machine.execInrushWindowEnd k s
  | .channelShort k peakMa => Sys2Proof.Machine.execChannelShort k peakMa s
  | .currentAtLimit k => Sys2Proof.Machine.execCurrentAtLimit k s
  | .limitRelease k => Sys2Proof.Machine.execLimitRelease k s
  | .limitTimeExpiry k => Sys2Proof.Machine.execLimitTimeExpiry k s
  | .pauseEnd k => Sys2Proof.Machine.execPauseEnd k s
  | .faultCountClear k => Sys2Proof.Machine.execFaultCountClear k s
  | .supplyDip g => Sys2Proof.Machine.execSupplyDip g s
  | .dipResume g minMv pauseUs recovered => Sys2Proof.Machine.execDipResume g minMv pauseUs recovered s
  | .groupUvlo g => Sys2Proof.Machine.execGroupUvlo g s
  | .groupOvertemp g over160 => Sys2Proof.Machine.execGroupOvertemp g over160 s
  | .overtempFall g => Sys2Proof.Machine.execOvertempFall g s
  | .vauxShortDetect k => Sys2Proof.Machine.execVauxShortDetect k s
  | .openLoadDetect k => Sys2Proof.Machine.execOpenLoadDetect k s
  | .segmentSwap k => Sys2Proof.Machine.execSegmentSwap k s
  | .segmentHandoverEnd k => Sys2Proof.Machine.execSegmentHandoverEnd k s
  | .jobStart block lane kind entry param pages resume due epoch => Sys2Proof.Machine.execJobStart block lane kind entry param pages resume due epoch s
  | .add t d a b => Sys2Proof.Machine.execAdd t d a b s
  | .sub t d a b => Sys2Proof.Machine.execSub t d a b s
  | .and t d a b => Sys2Proof.Machine.execAnd t d a b s
  | .or t d a b => Sys2Proof.Machine.execOr t d a b s
  | .xor t d a b => Sys2Proof.Machine.execXor t d a b s
  | .shl t d a b => Sys2Proof.Machine.execShl t d a b s
  | .shr t d a b => Sys2Proof.Machine.execShr t d a b s
  | .sar t d a b => Sys2Proof.Machine.execSar t d a b s
  | .slt t d a b => Sys2Proof.Machine.execSlt t d a b s
  | .sltu t d a b => Sys2Proof.Machine.execSltu t d a b s
  | .mul t d a b => Sys2Proof.Machine.execMul t d a b s
  | .mulh t d a b => Sys2Proof.Machine.execMulh t d a b s
  | .mulhu t d a b => Sys2Proof.Machine.execMulhu t d a b s
  | .div t d a b => Sys2Proof.Machine.execDiv t d a b s
  | .divu t d a b => Sys2Proof.Machine.execDivu t d a b s
  | .rem t d a b => Sys2Proof.Machine.execRem t d a b s
  | .addc t d a b => Sys2Proof.Machine.execAddc t d a b s
  | .subc t d a b => Sys2Proof.Machine.execSubc t d a b s
  | .min t d a b => Sys2Proof.Machine.execMin t d a b s
  | .max t d a b => Sys2Proof.Machine.execMax t d a b s
  | .clz t d a => Sys2Proof.Machine.execClz t d a s
  | .addi t d a imm => Sys2Proof.Machine.execAddi t d a imm s
  | .andi t d a imm => Sys2Proof.Machine.execAndi t d a imm s
  | .ori t d a imm => Sys2Proof.Machine.execOri t d a imm s
  | .xori t d a imm => Sys2Proof.Machine.execXori t d a imm s
  | .slti t d a imm => Sys2Proof.Machine.execSlti t d a imm s
  | .lui t d imm => Sys2Proof.Machine.execLui t d imm s
  | .shli t d a imm => Sys2Proof.Machine.execShli t d a imm s
  | .shri t d a imm => Sys2Proof.Machine.execShri t d a imm s
  | .sari t d a imm => Sys2Proof.Machine.execSari t d a imm s
  | .ldb t d a imm ecc => Sys2Proof.Machine.execLdb t d a imm ecc s
  | .ldbu t d a imm ecc => Sys2Proof.Machine.execLdbu t d a imm ecc s
  | .ldh t d a imm ecc => Sys2Proof.Machine.execLdh t d a imm ecc s
  | .ldhu t d a imm ecc => Sys2Proof.Machine.execLdhu t d a imm ecc s
  | .ldw t d a imm ecc => Sys2Proof.Machine.execLdw t d a imm ecc s
  | .ldd t d a imm ecc => Sys2Proof.Machine.execLdd t d a imm ecc s
  | .ldv t d a imm ecc => Sys2Proof.Machine.execLdv t d a imm ecc s
  | .fence t => Sys2Proof.Machine.execFence t s
  | .stb t d a imm => Sys2Proof.Machine.execStb t d a imm s
  | .sth t d a imm => Sys2Proof.Machine.execSth t d a imm s
  | .stw t d a imm => Sys2Proof.Machine.execStw t d a imm s
  | .std t d a imm => Sys2Proof.Machine.execStd t d a imm s
  | .stv t d a imm => Sys2Proof.Machine.execStv t d a imm s
  | .beq t a b off => Sys2Proof.Machine.execBeq t a b off s
  | .bne t a b off => Sys2Proof.Machine.execBne t a b off s
  | .blt t a b off => Sys2Proof.Machine.execBlt t a b off s
  | .bge t a b off => Sys2Proof.Machine.execBge t a b off s
  | .bltu t a b off => Sys2Proof.Machine.execBltu t a b off s
  | .bgeu t a b off => Sys2Proof.Machine.execBgeu t a b off s
  | .jal t off => Sys2Proof.Machine.execJal t off s
  | .jalr t d a imm => Sys2Proof.Machine.execJalr t d a imm s
  | .vadd t vd va vb lo hi => Sys2Proof.Machine.execVadd t vd va vb lo hi s
  | .vsub t vd va vb lo hi => Sys2Proof.Machine.execVsub t vd va vb lo hi s
  | .vmul t vd va vb lo hi => Sys2Proof.Machine.execVmul t vd va vb lo hi s
  | .vfma t vd va vb vc lo hi => Sys2Proof.Machine.execVfma t vd va vb vc lo hi s
  | .vfms t vd va vb vc lo hi => Sys2Proof.Machine.execVfms t vd va vb vc lo hi s
  | .vfnma t vd va vb vc lo hi => Sys2Proof.Machine.execVfnma t vd va vb vc lo hi s
  | .vmin t vd va vb lo hi => Sys2Proof.Machine.execVmin t vd va vb lo hi s
  | .vmax t vd va vb lo hi => Sys2Proof.Machine.execVmax t vd va vb lo hi s
  | .vabs t vd va lo hi => Sys2Proof.Machine.execVabs t vd va lo hi s
  | .vneg t vd va lo hi => Sys2Proof.Machine.execVneg t vd va lo hi s
  | .vswp t vd va => Sys2Proof.Machine.execVswp t vd va s
  | .vdiv t vd va vb lo hi => Sys2Proof.Machine.execVdiv t vd va vb lo hi s
  | .vsqrt t vd va lo hi => Sys2Proof.Machine.execVsqrt t vd va lo hi s
  | .vexp t vd va lo hi => Sys2Proof.Machine.execVexp t vd va lo hi s
  | .vmvg t vd ga high => Sys2Proof.Machine.execVmvg t vd ga high s
  | .gmvv t ga va high => Sys2Proof.Machine.execGmvv t ga va high s
  | .vcvti t vd ga high => Sys2Proof.Machine.execVcvti t vd ga high s
  | .vcvtf t ga va high => Sys2Proof.Machine.execVcvtf t ga va high s
  | .vcmp t ga vd va => Sys2Proof.Machine.execVcmp t ga vd va s
  | .vclass t ga va => Sys2Proof.Machine.execVclass t ga va s
  | .ocvi t vd va ga energy => Sys2Proof.Machine.execOcvi t vd va ga energy s
  | .tbli t vd va ga k => Sys2Proof.Machine.execTbli t vd va ga k s
  | .sld t d a imm => Sys2Proof.Machine.execSld t d a imm s
  | .sst t d a imm => Sys2Proof.Machine.execSst t d a imm s
  | .fq t a b => Sys2Proof.Machine.execFq t a b s
  | .rcommit t a b slow => Sys2Proof.Machine.execRcommit t a b slow s
  | .wft t => Sys2Proof.Machine.execWft t s
  | .wfe t mask => Sys2Proof.Machine.execWfe t mask s
  | .wfeWake t events => Sys2Proof.Machine.execWfeWake t events s
  | .mfs t d n => Sys2Proof.Machine.execMfs t d n s
  | .mts t n a => Sys2Proof.Machine.execMts t n a s
  | .mtsEmerg t a => Sys2Proof.Machine.execMtsEmerg t a s
  | .brb t a off => Sys2Proof.Machine.execBrb t a off s
  | .cld t d imm => Sys2Proof.Machine.execCld t d imm s
  | .cdisp t a => Sys2Proof.Machine.execCdisp t a s
  | .eld t d imm => Sys2Proof.Machine.execEld t d imm s
  | .etrg t a => Sys2Proof.Machine.execEtrg t a s
  | .fault t code => Sys2Proof.Machine.execFault t code s
  | .slowJobRunaway block lane => Sys2Proof.Machine.execSlowJobRunaway block lane s
  | .sweepProgramWatch r => Sys2Proof.Machine.execSweepProgramWatch r s
  | .imageActivate m slot v => Sys2Proof.Machine.execImageActivate m slot v s
  | .imageErase m slot v => Sys2Proof.Machine.execImageErase m slot v s
  | .kernelBroadcast => Sys2Proof.Machine.execKernelBroadcast s
  | .pageFetchComplete page lost => Sys2Proof.Machine.execPageFetchComplete page lost s
  | .writeBackDue page => Sys2Proof.Machine.execWriteBackDue page s
  | .forcedWriteBack bank => Sys2Proof.Machine.execForcedWriteBack bank s
  | .writeBackComplete page rows => Sys2Proof.Machine.execWriteBackComplete page rows s
  | .slowRecordRead e => Sys2Proof.Machine.execSlowRecordRead e s
  | .spareSelfTest u pass => Sys2Proof.Machine.execSpareSelfTest u pass s
  | .phySwap spare r swing => Sys2Proof.Machine.execPhySwap spare r swing s
  | .arbiterGrant a requests next => Sys2Proof.Machine.execArbiterGrant a requests next s
  | .bleatRaise a input origin occupant => Sys2Proof.Machine.execBleatRaise a input origin occupant s
  | .emramBleat req => Sys2Proof.Machine.execEmramBleat req s
  | .arbiterCheckFault a => Sys2Proof.Machine.execArbiterCheckFault a s
  | .uncorrectableBlockError block herd addr => Sys2Proof.Machine.execUncorrectableBlockError block herd addr s
  | .regionFault r cause addr => Sys2Proof.Machine.execRegionFault r cause addr s
  | .regionRunning r us => Sys2Proof.Machine.execRegionRunning r us s
  | .restartHeldRegion m r v => Sys2Proof.Machine.execRestartHeldRegion m r v s
  | .chipFault cause => Sys2Proof.Machine.execChipFault cause s
  | .guardStallLimit g domain addr tine => Sys2Proof.Machine.execGuardStallLimit g domain addr tine s
  | .pulseCrossing c arrived => Sys2Proof.Machine.execPulseCrossing c arrived s
  | .generationMismatch c transfers => Sys2Proof.Machine.execGenerationMismatch c transfers s
  | .crossingResync c => Sys2Proof.Machine.execCrossingResync c s
  | .w1cClear m o mask hwSet => Sys2Proof.Machine.execW1cClear m o mask hwSet s
  | .lockstepMismatch p group cycle pc main checker => Sys2Proof.Machine.execLockstepMismatch p group cycle pc main checker s
  | .checkerFault p parity item => Sys2Proof.Machine.execCheckerFault p parity item s
  | .replacedPairTest p pass => Sys2Proof.Machine.execReplacedPairTest p pass s
  | .supervisorMismatch checker group cycle pc main other => Sys2Proof.Machine.execSupervisorMismatch checker group cycle pc main other s
  | .supervisorTakeover => Sys2Proof.Machine.execSupervisorTakeover s
  | .nonspareTineMismatch t checker group cycle pc main other injectionOk => Sys2Proof.Machine.execNonspareTineMismatch t checker group cycle pc main other injectionOk s
  | .debugUnlockRequest m word => Sys2Proof.Machine.execDebugUnlockRequest m word s
  | .debugResponse m response => Sys2Proof.Machine.execDebugResponse m response s
  | .singlePairHandover => Sys2Proof.Machine.execSinglePairHandover s
  | .debugLock m v => Sys2Proof.Machine.execDebugLock m v s
  | .jtagTestReset => Sys2Proof.Machine.execJtagTestReset s
  | .debugInactivity => Sys2Proof.Machine.execDebugInactivity s
  | .debugLockoutEnd => Sys2Proof.Machine.execDebugLockoutEnd s
  | .ptpSyncSample d offset residual ratePpb pathNs ask => Sys2Proof.Machine.execPtpSyncSample d offset residual ratePpb pathNs ask s
  | .announceReceived d gm clockClass timeSource arb utcOffset utcFlags timeDiff => Sys2Proof.Machine.execAnnounceReceived d gm clockClass timeSource arb utcOffset utcFlags timeDiff s
  | .announceTimeout d => Sys2Proof.Machine.execAnnounceTimeout d s
  | .reAnchor m v => Sys2Proof.Machine.execReAnchor m v s
  | .ppsOutEdge => Sys2Proof.Machine.execPpsOutEdge s
  | .trigCapture n rising subNs => Sys2Proof.Machine.execTrigCapture n rising subNs s
  | .captureRead m n => Sys2Proof.Machine.execCaptureRead m n s
  | .trigPulse n => Sys2Proof.Machine.execTrigPulse n s
  | .foreignAnnounce dPort identity => Sys2Proof.Machine.execForeignAnnounce dPort identity s
  | .timeReferenceMessage => Sys2Proof.Machine.execTimeReferenceMessage s
  | .dtlsHandshake port certOk fingerprint => Sys2Proof.Machine.execDtlsHandshake port certOk fingerprint s
  | .sessionIdle n => Sys2Proof.Machine.execSessionIdle n s
  | .sweramRead n seq staged items => Sys2Proof.Machine.execSweramRead n seq staged items s
  | .sweramWrite n seq items => Sys2Proof.Machine.execSweramWrite n seq items s
  | .segread n seq o offset count => Sys2Proof.Machine.execSegread n seq o offset count s
  | .segwrite n seq o offset bytes => Sys2Proof.Machine.execSegwrite n seq o offset bytes s
  | .subscribe n seq period items => Sys2Proof.Machine.execSubscribe n seq period items s
  | .stream n => Sys2Proof.Machine.execStream n s
  | .sweramEcho n seq bytes => Sys2Proof.Machine.execSweramEcho n seq bytes s
  | .discoverBroadcast => Sys2Proof.Machine.execDiscoverBroadcast s
  | .discoverMessage port serial fingerprint => Sys2Proof.Machine.execDiscoverMessage port serial fingerprint s
  | .hello dPort serial handshakeOk role => Sys2Proof.Machine.execHello dPort serial handshakeOk role s
  | .childSummary k bytes => Sys2Proof.Machine.execChildSummary k bytes s
  | .childLost k => Sys2Proof.Machine.execChildLost k s
  | .linkDelayEcho k roundTrips => Sys2Proof.Machine.execLinkDelayEcho k roundTrips s
  | .usdoDownload o bytes segmented last => Sys2Proof.Machine.execUsdoDownload o bytes segmented last s
  | .usdoUpload o => Sys2Proof.Machine.execUsdoUpload o s
  | .usdoTimeout => Sys2Proof.Machine.execUsdoTimeout s
  | .claimForEdit m groups lease => Sys2Proof.Machine.execClaimForEdit m groups lease s
  | .claimForCommand m groups lease => Sys2Proof.Machine.execClaimForCommand m groups lease s
  | .releaseToCheck m claim groups => Sys2Proof.Machine.execReleaseToCheck m claim groups s
  | .semaphoreAbort m claim groups => Sys2Proof.Machine.execSemaphoreAbort m claim groups s
  | .semaphoreRenew m claim groups => Sys2Proof.Machine.execSemaphoreRenew m claim groups s
  | .holdEntry => Sys2Proof.Machine.execHoldEntry s
  | .editEntry => Sys2Proof.Machine.execEditEntry s
  | .settingWrite m o val => Sys2Proof.Machine.execSettingWrite m o val s
  | .checkComplete claim => Sys2Proof.Machine.execCheckComplete claim s
  | .leaseExpiry claim => Sys2Proof.Machine.execLeaseExpiry claim s
  | .canFrameReceived port f => Sys2Proof.Machine.execCanFrameReceived port f s
  | .hostQueueRead m port q => Sys2Proof.Machine.execHostQueueRead m port q s
  | .mailboxWrite m port box bs => Sys2Proof.Machine.execMailboxWrite m port box bs s
  | .mailboxCancel m port mask => Sys2Proof.Machine.execMailboxCancel m port mask s
  | .arbitrationWon port => Sys2Proof.Machine.execArbitrationWon port s
  | .canTxComplete port => Sys2Proof.Machine.execCanTxComplete port s
  | .canAckError port => Sys2Proof.Machine.execCanAckError port s
  | .canErrorFrame port txInc rxInc => Sys2Proof.Machine.execCanErrorFrame port txInc rxInc s
  | .busOffRecovery port => Sys2Proof.Machine.execBusOffRecovery port s
  | .processDataSet port => Sys2Proof.Machine.execProcessDataSet port s
  | .eventIngest => Sys2Proof.Machine.execEventIngest s
  | .flushPeriod => Sys2Proof.Machine.execFlushPeriod s
  | .logFlush => Sys2Proof.Machine.execLogFlush s
  | .logFlushComplete us => Sys2Proof.Machine.execLogFlushComplete us s
  | .logRelease m seq => Sys2Proof.Machine.execLogRelease m seq s
  | .logSectorRead m k j => Sys2Proof.Machine.execLogSectorRead m k j s
  | .powerOn cause failed imageOk => Sys2Proof.Machine.execPowerOn cause failed imageOk s
  | .vauxDrop vauxMv holdupMv => Sys2Proof.Machine.execVauxDrop vauxMv holdupMv s
  | .closingRecord flushUs vauxMv holdupMv => Sys2Proof.Machine.execClosingRecord flushUs vauxMv holdupMv s
  | .vauxReturn belowMs => Sys2Proof.Machine.execVauxReturn belowMs s
  | .resetN => Sys2Proof.Machine.execResetN s
  | .supplyUndervoltage rail => Sys2Proof.Machine.execSupplyUndervoltage rail s
  | .holdupLow => Sys2Proof.Machine.execHoldupLow s
  | .vauxOutOfRange => Sys2Proof.Machine.execVauxOutOfRange s
  | .powerDieOvertemp => Sys2Proof.Machine.execPowerDieOvertemp s
  | .computeDieOvertemp => Sys2Proof.Machine.execComputeDieOvertemp s
  | .faultLoopBiasSupply => Sys2Proof.Machine.execFaultLoopBiasSupply s
  | .tripConditionCleared source => Sys2Proof.Machine.execTripConditionCleared source s
  | .holdupRestored => Sys2Proof.Machine.execHoldupRestored s
  | .adoptWaitTimeout => Sys2Proof.Machine.execAdoptWaitTimeout s
  | .idleNotReceivingYou site receiving => Sys2Proof.Machine.execIdleNotReceivingYou site receiving s
  | .ethernetLinkChange port up => Sys2Proof.Machine.execEthernetLinkChange port up s
  | .undefinedOpcode t word => Sys2Proof.Machine.execUndefinedOpcode t word s
  | .filterTriggerWatch t => Sys2Proof.Machine.execFilterTriggerWatch t s
  | .arbitrationLost port => Sys2Proof.Machine.execArbitrationLost port s
  | .debuggerAction t act => Sys2Proof.Machine.execDebuggerAction t act s
  | .idctlOperationDone r p ok data => Sys2Proof.Machine.execIdctlOperationDone r p ok data s
  | .dPortSyncInterval dPort => Sys2Proof.Machine.execDPortSyncInterval dPort s
  | .delayRequest dPort identity receivedNs => Sys2Proof.Machine.execDelayRequest dPort identity receivedNs s
  | .holdoverClassPeriodExpiry => Sys2Proof.Machine.execHoldoverClassPeriodExpiry s

end Sys2Proof.Machine
end

