-- ==== Sys2Proof/Safety.lean ====
section
/-!
DEFINITION. Sys2Proof/Safety.lean: the invariants that claims speak of.
-/

namespace Sys2Proof.Machine

/-- Rising SEQs below a bound: every record's SEQ is used once and never again (R601). -/
def Recorder.seqsBelow (n : Nat) : List FifoRec → Bool
  | [] => true
  | x :: xs => decide (x.r.seq < n) && xs.all (fun y => decide (x.r.seq < y.r.seq)) && Recorder.seqsBelow n xs

/-- The records held by the FIFO ascend in SEQ and none has a SEQ still to be given. -/
def Recorder.ordered (r : Recorder) : Bool := Recorder.seqsBelow r.nextSeq r.fifo

/-- What every step keeps: memory stays in its canonical form and the FIFO's SEQs ascend. -/
def State.inv (s : State) : Bool := Memory.wf s.mem && s.rcd.ordered

/-- `c` answers a next state in which only the chip differs, and that chip satisfies `p`: the queue, the recorder and
memory are as before. -/
def yields (c : Instr) (s : State) (p : Chip → Prop) : Prop :=
  ∃ x : Chip, exec c s = .next { s with chip := x } ∧ p x

/-- `c` answers a next state with this chip and nothing else changed. -/
def becomes (c : Instr) (s : State) (x : Chip) : Prop := exec c s = .next { s with chip := x }

/-- Every dictionary value of a fixed size outside the list, (index, subindex), reads in `b` as in `a`. -/
def sameObjs (a b : Chip) (but : List (Nat × Nat)) : Prop :=
  ∀ i j, j < 256 → (i, j) ∉ but → b.rd i j = a.rd i j

/-! ## Tines -/

/-- The job of a Tine. -/
def State.job (s : State) (t : TineId) : Job := (s.chip.tine t).job

/-- The Tine executes (R389, R393): invoked, neither waiting, halted nor stopped, its program counter aligned and in its
program store. -/
def State.executing (s : State) (t : TineId) : Bool :=
  let x := s.chip.tine t
  x.live && !x.once && x.job.pc % 4 == 0 && decide (x.job.pc < storeSize t)

/-- `s` with another job in the Tine. -/
def State.withJob (s : State) (t : TineId) (j : Job) : State := { s with chip := s.chip.setJob t j }

/-- CYC when the instruction issues: no earlier than its sources are usable (R59, R393). -/
def Job.stalled (j : Job) (srcs : List Nat) : Nat := srcs.foldl (fun c k => max c (Map.read 0 j.ready k)) j.cyc

end Sys2Proof.Machine
end

