-- ==== Sys2Proof/Certificates/Slice0/Obligations.lean ====
section
/-!
DEFINITION. Sys2Proof/Certificates/Slice0/Obligations.lean: the statements for the provers. Most of them say of a family of
commands, for every state and operands that meet the hypotheses, which next state exec answers and what it leaves alone; a
statement of several parts is the conjunction of the parts named under Says.
-/

section

open Sys2Proof Sys2Proof.Machine

/-! ## Tine instructions (R389–R409) -/

/-- R389, R393: the two-register integer instructions put their value in Gd (nothing in G0), go to the next word, take their cycles
after any stall, and change nothing else. The functions are the table's: shifts by b[4:0]; a divisor of 0 gives 0xFFFFFFFF or a. -/
def Sys2Proof.Says.IntegerRegisterOps : Prop :=
  ∀ p ∈ ([(Instr.add, 1, fun a b => a + b), (Instr.sub, 1, fun a b => a - b), (Instr.and, 1, fun a b => a &&& b),
      (Instr.or, 1, fun a b => a ||| b), (Instr.xor, 1, fun a b => a ^^^ b),
      (Instr.shl, 1, fun a b => BitVec.ofNat 32 (a.toNat * 2 ^ (b.toNat % 32))),
      (Instr.shr, 1, fun a b => BitVec.ofNat 32 (a.toNat / 2 ^ (b.toNat % 32))),
      (Instr.sar, 1, fun a b => BitVec.ofInt 32 (a.toInt / 2 ^ (b.toNat % 32))),
      (Instr.slt, 1, fun a b => if a.toInt < b.toInt then 1 else 0), (Instr.sltu, 1, fun a b => if a.toNat < b.toNat then 1 else 0),
      (Instr.mul, 1, fun a b => BitVec.ofNat 32 (a.toNat * b.toNat)),
      (Instr.mulh, 1, fun a b => BitVec.ofInt 32 (a.toInt * b.toInt / 2 ^ 32)),
      (Instr.mulhu, 1, fun a b => BitVec.ofNat 32 (a.toNat * b.toNat / 2 ^ 32)),
      (Instr.divu, 18, fun a b => if b = 0 then 0xFFFFFFFF else BitVec.ofNat 32 (a.toNat / b.toNat)),
      (Instr.min, 1, fun a b => if a.toInt < b.toInt then a else b), (Instr.max, 1, fun a b => if a.toInt < b.toInt then b else a)] :
      List ((TineId → Fin 32 → Fin 32 → Fin 32 → Instr) × Nat × (Word → Word → Word))),
    ∀ (t : TineId) (d a b : Fin 32) (s : State), s.executing t = true →
      ∃ j : Job, exec (p.1 t d a b) s = .next (s.withJob t j) ∧
        (∀ i, j.gr i = if i = d.val ∧ i ≠ 0 then p.2.2 ((s.job t).gr a) ((s.job t).gr b) else (s.job t).gr i) ∧
        j.cyc = (s.job t).stalled [a.val, b.val] + p.2.1 ∧ j.pc = ((s.job t).pc + 4) % 2 ^ 32 ∧
        j = { s.job t with g := j.g, cyc := j.cyc, pc := j.pc, ready := j.ready }

/-- R393: DIV and REM of a divisor other than 0 (the quotient rounds towards zero, log entry 33) and of 0, ADDC and SUBC with the carry
or borrow, and CLZ. The quotient of −2³¹ by −1 has no 32-bit value and is left open. -/
def Sys2Proof.Says.DivisionCarryAndCount : Prop :=
  ∀ (t : TineId) (d a b : Fin 32) (s : State), s.executing t = true →
    let j0 := s.job t
    let x := j0.gr a
    let y := j0.gr b
    (∃ j, exec (.div t d a b) s = .next (s.withJob t j) ∧ j.cyc = j0.stalled [a.val, b.val] + 18 ∧ j.stat = j0.stat ∧
      (∀ i, i ≠ d.val ∨ i = 0 → j.gr i = j0.gr i) ∧
      (d.val ≠ 0 → y = 0 → j.gr d = 0xFFFFFFFF) ∧
      (d.val ≠ 0 → y ≠ 0 → ¬(x.toInt = -2 ^ 31 ∧ y.toInt = -1) → j.gr d = BitVec.ofInt 32 (x.toInt.tdiv y.toInt))) ∧
    (∃ j, exec (.rem t d a b) s = .next (s.withJob t j) ∧ j.cyc = j0.stalled [a.val, b.val] + 18 ∧ j.stat = j0.stat ∧
      (∀ i, i ≠ d.val ∨ i = 0 → j.gr i = j0.gr i) ∧
      (d.val ≠ 0 → j.gr d = if y = 0 then x else BitVec.ofInt 32 (x.toInt.tmod y.toInt))) ∧
    (∃ j, exec (.addc t d a b) s = .next (s.withJob t j) ∧
      (∀ i, i ≠ d.val ∨ i = 0 → j.gr i = j0.gr i) ∧
      (d.val ≠ 0 → j.gr d = x + y + (if j0.carry then 1 else 0)) ∧
      (j.carry = true ↔ 2 ^ 32 ≤ x.toNat + y.toNat + (if j0.carry then 1 else 0)) ∧
      (∀ k, k < 8 → bit j.stat k = bit j0.stat k)) ∧
    (∃ j, exec (.subc t d a b) s = .next (s.withJob t j) ∧
      (∀ i, i ≠ d.val ∨ i = 0 → j.gr i = j0.gr i) ∧
      (d.val ≠ 0 → j.gr d = x - y - (if j0.carry then 1 else 0)) ∧
      (j.carry = true ↔ x.toNat < y.toNat + (if j0.carry then 1 else 0)) ∧
      (∀ k, k < 8 → bit j.stat k = bit j0.stat k)) ∧
    (∃ j, exec (.clz t d a) s = .next (s.withJob t j) ∧ j.stat = j0.stat ∧
      (∀ i, i ≠ d.val ∨ i = 0 → j.gr i = j0.gr i) ∧
      (d.val ≠ 0 → (j.gr d).toNat ≤ 32 ∧ x.toNat < 2 ^ (32 - (j.gr d).toNat) ∧
        ((j.gr d).toNat < 32 → 2 ^ (31 - (j.gr d).toNat) ≤ x.toNat)))

/-- R393: the instructions with an immediate: ANDI, ORI and XORI zero-extend it, ADDI and SLTI sign-extend it, LUI shifts it up by 16,
the shifts take imm[4:0]. -/
def Sys2Proof.Says.ImmediateOps : Prop :=
  ∀ (t : TineId) (d a : Fin 32) (imm : BitVec 16) (n : Fin 32) (s : State), s.executing t = true →
    let x := (s.job t).gr a
    ∀ p ∈ ([(Instr.addi t d a imm, BitVec.ofInt 32 (x.toInt + imm.toInt)), (Instr.andi t d a imm, x &&& BitVec.ofNat 32 imm.toNat),
        (Instr.ori t d a imm, x ||| BitVec.ofNat 32 imm.toNat), (Instr.xori t d a imm, x ^^^ BitVec.ofNat 32 imm.toNat),
        (Instr.slti t d a imm, if x.toInt < imm.toInt then 1 else 0), (Instr.lui t d imm, BitVec.ofNat 32 (imm.toNat * 65536)),
        (Instr.shli t d a n, BitVec.ofNat 32 (x.toNat * 2 ^ n.val)), (Instr.shri t d a n, BitVec.ofNat 32 (x.toNat / 2 ^ n.val)),
        (Instr.sari t d a n, BitVec.ofInt 32 (x.toInt / 2 ^ n.val))] : List (Instr × Word)),
      ∃ j : Job, exec p.1 s = .next (s.withJob t j) ∧
        (∀ i, j.gr i = if i = d.val ∧ i ≠ 0 then p.2 else (s.job t).gr i) ∧ j.pc = ((s.job t).pc + 4) % 2 ^ 32 ∧
        j = { s.job t with g := j.g, cyc := j.cyc, pc := j.pc, ready := j.ready }

/-- IntegerRegisterOps, DivisionCarryAndCount and ImmediateOps, each as its own text says. -/
def Obligations.TineIntegers : Prop :=
  Says.IntegerRegisterOps ∧ Says.DivisionCarryAndCount ∧ Says.ImmediateOps

/-- R393, R399: a branch goes to its offset in words from the next instruction in 2 cycles where its comparison holds, else on in 1;
JAL and JALR write the return address and jump; BRB branches where CYCLIM − CYC, held at 0, is below Ga. -/
def Obligations.BranchesAndJumps : Prop :=
  ∀ (t : TineId) (d a b : Fin 32) (off : BitVec 16) (far : BitVec 26) (s : State), s.executing t = true →
    let j0 := s.job t
    let x := j0.gr a
    let y := j0.gr b
    let target (o : Int) : Nat := (((j0.pc : Int) + 4 + 4 * o) % 2 ^ 32).toNat
    (∀ p ∈ ([(Instr.beq t a b off, decide (x = y)), (Instr.bne t a b off, decide (x ≠ y)),
        (Instr.blt t a b off, decide (x.toInt < y.toInt)), (Instr.bge t a b off, decide (y.toInt ≤ x.toInt)),
        (Instr.bltu t a b off, decide (x.toNat < y.toNat)), (Instr.bgeu t a b off, decide (y.toNat ≤ x.toNat))] : List (Instr × Bool)),
      exec p.1 s = .next (s.withJob t { j0 with
        pc := if p.2 then target off.toInt else (j0.pc + 4) % 2 ^ 32
        cyc := j0.stalled [a.val, b.val] + (if p.2 then 2 else 1) })) ∧
    exec (.brb t a off) s = .next (s.withJob t
      (let c := j0.stalled [a.val]
       let taken := decide (j0.lim - c < x.toNat)
       { j0 with pc := if taken then target off.toInt else (j0.pc + 4) % 2 ^ 32, cyc := c + (if taken then 2 else 1) })) ∧
    (∃ j : Job, exec (.jal t far) s = .next (s.withJob t j) ∧ j.pc = target far.toInt ∧ j.cyc = j0.cyc + 2 ∧
      (∀ i, j.gr i = if i = 31 then BitVec.ofNat 32 (j0.pc + 4) else j0.gr i)) ∧
    (∃ j : Job, exec (.jalr t d a off) s = .next (s.withJob t j) ∧ j.pc = ((x.toNat + off.toInt) % 2 ^ 32).toNat ∧
      (∀ i, j.gr i = if i = d.val ∧ i ≠ 0 then BitVec.ofNat 32 (j0.pc + 4) else j0.gr i))

/-- R393, R403: a load whose address is aligned and whose place may read it puts the bytes there, least significant first, into its
register (sign- or zero-extended; LDD into two registers, LDV into the halves of a V register) and goes on, with the words clean or a
corrected error in them (R388); memory keeps every byte. -/
def Sys2Proof.Says.Loads : Prop :=
  ∀ (t : TineId) (d a : Fin 32) (imm : BitVec 16) (ecc : EccResult) (s : State) (k : Nat) (shared : Bool), s.executing t = true →
    ecc ≠ .double → ecc ≠ .storeDouble →
    let j0 := s.job t
    let addr := ((j0.gr a).toNat + (imm.signExtend 32).toNat) % 2 ^ 32
    s.chip.route t j0.kind addr false = .mem k shared →
    (∀ p ∈ ([(Instr.ldb, 1, fun v => BitVec.ofInt 32 (toInt 8 v)), (Instr.ldbu, 1, fun v => BitVec.ofNat 32 v),
        (Instr.ldh, 2, fun v => BitVec.ofInt 32 (toInt 16 v)), (Instr.ldhu, 2, fun v => BitVec.ofNat 32 v),
        (Instr.ldw, 4, fun v => BitVec.ofNat 32 v)] :
        List ((TineId → Fin 32 → Fin 32 → BitVec 16 → EccResult → Instr) × Nat × (Nat → Word))),
      addr % p.2.1 = 0 → yields (p.1 t d a imm ecc) s (fun x =>
        ∀ i, (x.tine t).job.gr i = if i = d.val ∧ i ≠ 0 then p.2.2 (ofLE (Memory.load s.mem k p.2.1)) else j0.gr i)) ∧
    (addr % 8 = 0 → d.val % 2 = 0 → yields (.ldd t d a imm ecc) s (fun x =>
        ∀ i, (x.tine t).job.gr i =
          if i = d.val ∧ i ≠ 0 then BitVec.ofNat 32 (ofLE (Memory.load s.mem k 8))
          else if i = d.val + 1 then BitVec.ofNat 32 (ofLE (Memory.load s.mem k 8) / 2 ^ 32) else j0.gr i)) ∧
    (addr % 8 = 0 → yields (.ldv t d a imm ecc) s (fun x =>
        ∀ h i, (x.tine t).job.vr h i =
          if i = d.val % 16 then BitVec.ofNat 32 (ofLE (Memory.load s.mem k 8) / (if h then 2 ^ 32 else 1)) else j0.vr h i))

/-- R388, R393: a load whose own word has a double error in the program store ends the job with cause ECC after 0x6044, and so does one
whose datum has a double error in local data memory; a corrected error sets ECCERR (2E00:01 [2]). An LDD or STD of an odd d is ILLEGAL. -/
def Sys2Proof.Says.LoadEcc : Prop :=
  ∀ (t : TineId) (d a : Fin 32) (imm : BitVec 16) (ecc : EccResult) (k : Nat) (s : State), s.executing t = true →
    let j0 := s.job t
    let addr := ((j0.gr a).toNat + (imm.signExtend 32).toNat) % 2 ^ 32
    (d.val % 2 = 1 → ∀ c ∈ ([.ldd t d a imm ecc, .std t d a imm] : List Instr),
      exec c s = .next { s with chip := (s.chip.tineFault t 1 0).stepped t }) ∧
    ∀ p ∈ ([(Instr.ldb, 1, false), (Instr.ldbu, 1, false), (Instr.ldh, 2, false), (Instr.ldhu, 2, false), (Instr.ldw, 4, false),
        (Instr.ldd, 8, true), (Instr.ldv, 8, false)] :
        List ((TineId → Fin 32 → Fin 32 → BitVec 16 → EccResult → Instr) × Nat × Bool)), (p.2.2 = true → d.val % 2 = 0) →
      exec (p.1 t d a imm .storeDouble) s = .next { s with chip := ((s.chip.eccError t .storeDouble 0 true).tineFault t 4 0).stepped t } ∧
      yields (p.1 t d a imm .storeDouble) s (fun x => (∃ es, x.port = s.chip.port ++ ⟨0x6044, placeOf t, le 4 j0.pc, false⟩ :: es) ∧
        (t.isLane = true → (x.tine t).run = false ∧ (x.tine t).cause % 256 = 4)) ∧
      yields (p.1 t d a imm .storeCorrected) s (fun x => x.rdBit 0x2E00 1 2 = true) ∧
      (addr % p.2.1 = 0 → s.chip.route t j0.kind addr false = .mem k false →
        exec (p.1 t d a imm .double) s = .next { s with chip := ((s.chip.eccError t .double k true).tineFault t 4 0).stepped t } ∧
        yields (p.1 t d a imm .corrected) s (fun x => x.rdBit 0x2E00 1 2 = true))

/-- R393, R403: a store whose address is aligned and whose place may write it changes the bytes from its address on, as many as its
form has, and no other byte of memory; it takes a cycle after any stall and changes nothing else. -/
def Sys2Proof.Says.Stores : Prop :=
  ∀ (t : TineId) (d a : Fin 32) (imm : BitVec 16) (s : State) (k : Nat) (shared : Bool), s.executing t = true →
    let j0 := s.job t
    let addr := ((j0.gr a).toNat + (imm.signExtend 32).toNat) % 2 ^ 32
    s.chip.route t j0.kind addr true = .mem k shared →
    let g (i : Nat) : Nat := (j0.gr i).toNat
    let v (h : Bool) : Nat := (j0.vr h (d.val % 16)).toNat
    ∀ p ∈ ([(Instr.stb t d a imm, 1, [d.val], g d), (Instr.sth t d a imm, 2, [d.val], g d), (Instr.stw t d a imm, 4, [d.val], g d),
        (Instr.std t d a imm, 8, [d.val, d.val + 1], g d + 2 ^ 32 * g (d + 1)),
        (Instr.stv t d a imm, 8, [32 + d.val % 16, 48 + d.val % 16], v false + 2 ^ 32 * v true)] : List (Instr × Nat × List Nat × Nat)),
      addr % p.2.1 = 0 → (p.1 = .std t d a imm → d.val % 2 = 0) →
      let j : Job := { j0 with pc := (j0.pc + 4) % 2 ^ 32, cyc := j0.stalled (a.val :: p.2.2.1) + 1 }
      ∃ m : Memory, exec p.1 s = .next { s.withJob t j with mem := m } ∧
        ∀ q, Memory.byte m q =
          if k ≤ q ∧ q < k + p.2.1 then BitVec.ofNat 8 (p.2.2.2 / 256 ^ (q - k)) else Memory.byte s.mem q

/-- R393, R403, R409: an access that is not aligned ends the job with cause ALIGN; an aligned one outside the place's rights ends it
with cause ACCESS. -/
def Sys2Proof.Says.AccessFaults : Prop :=
  ∀ (t : TineId) (d a : Fin 32) (imm : BitVec 16) (ecc : EccResult) (s : State), s.executing t = true → ecc ≠ .storeDouble →
    let j0 := s.job t
    let addr := ((j0.gr a).toNat + (imm.signExtend 32).toNat) % 2 ^ 32
    ∀ p ∈ ([(Instr.ldb t d a imm ecc, 1, false), (Instr.ldbu t d a imm ecc, 1, false), (Instr.ldh t d a imm ecc, 2, false),
        (Instr.ldhu t d a imm ecc, 2, false), (Instr.ldw t d a imm ecc, 4, false), (Instr.ldd t d a imm ecc, 8, false),
        (Instr.ldv t d a imm ecc, 8, false), (Instr.stb t d a imm, 1, true), (Instr.sth t d a imm, 2, true),
        (Instr.stw t d a imm, 4, true), (Instr.std t d a imm, 8, true), (Instr.stv t d a imm, 8, true)] : List (Instr × Nat × Bool)),
      (p.1 = .ldd t d a imm ecc ∨ p.1 = .std t d a imm → d.val % 2 = 0) →
      let c0 := if !p.2.2 && ecc == .storeCorrected then s.chip.eccError t ecc 0 true else s.chip
      (addr % p.2.1 ≠ 0 → exec p.1 s = .next { s with chip := (c0.tineFault t 3 0).stepped t }) ∧
      (addr % p.2.1 = 0 → s.chip.route t j0.kind addr p.2.2 = .deny →
        exec p.1 s = .next { s with chip := (c0.tineFault t 2 0).stepped t })

/-- Loads, LoadEcc, Stores and AccessFaults, each as its own text says. -/
def Obligations.TineMemory : Prop :=
  Says.Loads ∧ Says.LoadEcc ∧ Says.Stores ∧ Says.AccessFaults

/-- R393, R392: a vector instruction gives each half that its mask names its operation's value, keeps the other half, and adds the
operation's sticky flags to STAT; 4 cycles until the result is usable, 14 or 12 to issue VDIV, VSQRT and VEXP. -/
def Sys2Proof.Says.VectorOps : Prop :=
  ∀ (t : TineId) (vd va vb vc : Fin 16) (lo hi : Bool) (s : State), s.executing t = true →
    let j0 := s.job t
    let x (h : Bool) : F32 := j0.vr h va
    let y (h : Bool) : F32 := j0.vr h vb
    let z (h : Bool) : F32 := j0.vr h vc
    ∀ p ∈ ([(Instr.vadd t vd va vb lo hi, 1, fun h => f32Add (x h) (y h)), (Instr.vsub t vd va vb lo hi, 1, fun h => f32Sub (x h) (y h)),
        (Instr.vmul t vd va vb lo hi, 1, fun h => f32Mul (x h) (y h)),
        (Instr.vfma t vd va vb vc lo hi, 1, fun h => f32Fma (x h) (y h) (z h)),
        (Instr.vfms t vd va vb vc lo hi, 1, fun h => f32Fma (x h) (y h) (f32Neg (z h))),
        (Instr.vfnma t vd va vb vc lo hi, 1, fun h => f32Fma (f32Neg (x h)) (y h) (z h)),
        (Instr.vmin t vd va vb lo hi, 1, fun h => ⟨f32Flush (f32Min (x h) (y h)), 0⟩),
        (Instr.vmax t vd va vb lo hi, 1, fun h => ⟨f32Flush (f32Max (x h) (y h)), 0⟩),
        (Instr.vabs t vd va lo hi, 1, fun h => ⟨f32Abs (x h), 0⟩), (Instr.vneg t vd va lo hi, 1, fun h => ⟨f32Neg (x h), 0⟩),
        (Instr.vdiv t vd va vb lo hi, 14, fun h => f32Div (x h) (y h)), (Instr.vsqrt t vd va lo hi, 14, fun h => f32Sqrt (x h)),
        (Instr.vexp t vd va lo hi, 12, fun h => f32Exp (x h))] : List (Instr × Nat × (Bool → FRes))),
      ∃ j : Job, exec p.1 s = .next (s.withJob t j) ∧
        (∀ h i, j.vr h i = if i = vd.val ∧ (if h then hi else lo) = true then (p.2.2 h).val else j0.vr h i) ∧
        j.stat = j0.stat ||| (if lo then (p.2.2 false).flags else 0) ||| (if hi then (p.2.2 true).flags else 0) ∧
        j.pc = (j0.pc + 4) % 2 ^ 32 ∧ j = { j0 with vl := j.vl, vh := j.vh, stat := j.stat, cyc := j.cyc, pc := j.pc, ready := j.ready }

/-- R393: the moves and conversions between G and V registers: VSWP, VMVG, GMVV, VCVTI, VCVTF, VCMP and VCLASS. -/
def Sys2Proof.Says.VectorMoves : Prop :=
  ∀ (t : TineId) (vd va : Fin 16) (ga : Fin 32) (high : Bool) (s : State), s.executing t = true →
    let j0 := s.job t
    (∃ j, exec (.vswp t vd va) s = .next (s.withJob t j) ∧
      ∀ h i, j.vr h i = if i = vd.val then j0.vr (!h) va else j0.vr h i) ∧
    (∃ j, exec (.vmvg t vd ga high) s = .next (s.withJob t j) ∧
      ∀ h i, j.vr h i = if i = vd.val ∧ h = high then j0.gr ga else j0.vr h i) ∧
    (∃ j, exec (.vcvti t vd ga high) s = .next (s.withJob t j) ∧
      ∀ h i, j.vr h i = if i = vd.val ∧ h = high then (f32OfInt (j0.gr ga).toInt).val else j0.vr h i) ∧
    ∀ p ∈ ([(Instr.gmvv t ga va high, j0.vr high va), (Instr.vcvtf t ga va high, (f32ToInt32 (j0.vr high va)).val),
        (Instr.vcmp t ga vd va, BitVec.ofNat 32 (maskOf 4 (fun k =>
          if k < 2 then f32Lt (j0.vr (k == 1) va) (j0.vr (k == 1) vd) else f32Eq (j0.vr (k == 3) va) (j0.vr (k == 3) vd)))),
        (Instr.vclass t ga va, BitVec.ofNat 32 (f32Class (j0.vr false va) + 16 * f32Class (j0.vr true va)))] : List (Instr × Word)),
      ∃ j, exec p.1 s = .next (s.withJob t j) ∧ (∀ h i, j.vr h i = j0.vr h i) ∧
        ∀ i, j.gr i = if i = ga.val ∧ i ≠ 0 then p.2 else j0.gr i

/-- R390: no arithmetic of a Tine yields a subnormal: an exponent field of 0 comes with a fraction of 0. -/
def Sys2Proof.Says.NoSubnormalResults : Prop :=
  ∀ a b c : F32, ∀ r ∈ [f32Add a b, f32Sub a b, f32Mul a b, f32Fma a b c, f32Div a b, f32OfInt a.toInt],
    bits r.val.toNat 30 23 = 0 → bits r.val.toNat 22 0 = 0

/-- VectorOps, VectorMoves and NoSubnormalResults, each as its own text says. -/
def Obligations.TineVectors : Prop :=
  Says.VectorOps ∧ Says.VectorMoves ∧ Says.NoSubnormalResults

/-- R394: OCVI and TBLI of a lane whose Ga points at a profile copy put the interpolated values of R394 into the halves of Vd
and add the sticky flags of their operations to STAT (R390). -/
def Sys2Proof.Says.Interpolation : Prop :=
  ∀ (t : TineId) (vd va : Fin 16) (ga : Fin 32) (energy : Bool) (k : Fin 8) (s : State), s.executing t = true → t.isLane = true →
    let j0 := s.job t
    let base := (j0.gr ga).toNat
    let grid := tempPosF (s.copyGrid t base) (j0.vr true va)
    let u := gridPosF (j0.vr false va) hPar 21
    let v := bilinearF (s.copyTab t base energy) (gridPosF (j0.vr false va) hOcv 201) grid
    let slope := FRes.op f32Div v.2 (exactly hOcv)
    let p (k : Nat) : FRes := (bilinearF (s.copyParam t base k) u grid).1
    let puts (c : Instr) (lo hi : FRes) : Prop := ∃ j, exec c s = .next (s.withJob t j) ∧
      j.vr false vd = lo.val ∧ j.vr true vd = hi.val ∧ j.stat = j0.stat ||| (lo.flags ||| hi.flags) ∧
      (∀ h i, i ≠ vd.val → j.vr h i = j0.vr h i) ∧ ∀ i, j.gr i = j0.gr i
    base % 4 = 0 → 0x10000000 ≤ base → base + 13824 ≤ 0x10006C00 →
    puts (.ocvi t vd va ga energy) v.1 slope ∧ (k.val ≤ 4 → puts (.tbli t vd va ga k) (p k) (p (k + 1)))

/-- R395, R396: SLD puts the named part of a slot of its own positions into Gd; in a lane, SST stages the low byte of Gd as the duty of
element imm[3:0] at the position in Ga, in a ring controller it stores Gd into the frame under assembly; FQ queues the assembled frame
on the port of Gb[0], ahead of the requests that have not begun where Gb[1] is set: an addressed frame waits that finds 16 tags taken
(R130), the addressed window of R129 closed or others that wait; a CTRL CLOSE is dropped while the SAFE-HOLD latch is set (R36). -/
def Sys2Proof.Says.SlotAndFrameInstructions : Prop :=
  ∀ (t : TineId) (d a b : Fin 32) (imm : BitVec 16) (s : State), s.executing t = true →
    let j0 := s.job t
    let p := (j0.gr a).toNat
    let addr := ((j0.gr a).toNat + (imm.signExtend 32).toNat) % 2 ^ 32
    (∀ v, t.isLane = true ∨ t.isRing = true → s.chip.ownsPos t p = true → s.chip.sldValue (ringOf t) p imm = some v →
      ¬(imm.toNat / 2 ^ 14 = 0 ∧ imm.toNat % 2 ≠ 0) → ¬(imm.toNat / 2 ^ 14 = 1 ∧ imm.toNat % 4 ≠ 0) →
      yields (.sld t d a imm) s (fun x =>
        (∀ i, (x.tine t).job.gr i = if i = d.val ∧ i ≠ 0 then BitVec.ofNat 32 v else j0.gr i) ∧ x.slotData = s.chip.slotData ∧
        x.od = s.chip.od)) ∧
    (t.isLane = true → s.chip.ownsPos t p = true → yields (.sst t d a imm) s (fun x =>
      (∀ k, Map.read 0 x.duty k = if k = ringOf t * 1024 + p * 16 + imm.toNat % 16 then (j0.gr d).toNat % 256
        else Map.read 0 s.chip.duty k) ∧
      x = { s.chip with duty := x.duty, tines := x.tines } ∧ ∀ i, (x.tine t).job.gr i = j0.gr i)) ∧
    (t.isRing = true → addr % 4 = 0 → ∀ k sh, s.chip.route t j0.kind addr true = .mem k sh →
      ∃ u : State, exec (.sst t d a imm) s = .next u ∧ u.rcd = s.rcd ∧ u.chip = { s.chip with tines := u.chip.tines } ∧
        ∀ q, Memory.byte u.mem q =
          if k ≤ q ∧ q < k + 4 then BitVec.ofNat 8 ((j0.gr d).toNat / 256 ^ (q - k)) else Memory.byte s.mem q) ∧
    (t.isRing = true → ∀ k sh, s.chip.route t j0.kind p false = .mem k sh → yields (.fq t a b) s (fun x =>
      let n := beAt (Memory.load s.mem k 12) 3 2
      let f := assembled (Memory.load s.mem k (12 + n)) (bit (j0.gr b).toNat 0)
      let first := bit (j0.gr b).toNat 1
      let old := s.chip.ring (ringOf t)
      let new := x.ring (ringOf t)
      let waits := (f.hop < 64 ∧ 16 ≤ old.txs.length) ∨ s.chip.mayLeave (ringOf t) (frameNs f) = false ∨ (first = false ∧ old.held ≠ [])
      let ahead (g : Frame) : Bool := g.type ≤ 3 || g.type == 9 || frameOpens g
      let put (fs : List Frame) : List Frame := if first then insertFrame ahead (max s.chip.clk.off 10000) f 10000 fs else fs ++ [f]
      (if s.chip.adopt.safeHold = true ∧ f.type = 6 ∧ beAt f.payload 0 1 = 2 then new = old
       else if ¬(1 ≤ f.type ∧ f.type ≤ 3) ∧ waits then new = { old with held := if first then f :: old.held else old.held ++ [f] }
       else if f.up then new.sentB = put old.sentB ∧ new.sentA = old.sentA
       else new.sentA = put old.sentA ∧ new.sentB = old.sentB) ∧
      (∀ r, r ≠ ringOf t → x.ring r = s.chip.ring r)))

/-- R397: RCOMMIT copies a whole record from lane data: 128 bytes into the fast record of a position of its own, 1,024 bytes with
their CRC into the record of a page granted to the job. Memory keeps every byte. -/
def Sys2Proof.Says.RecordCommit : Prop :=
  ∀ (t : TineId) (a b : Fin 32) (s : State) (k k' e : Nat), s.executing t = true → t.isLane = true →
    let j0 := s.job t
    let src := (j0.gr a).toNat
    let dst := (j0.gr b).toNat
    src % 8 = 0 → s.chip.route t j0.kind src false = .mem k false →
    (dst % 128 = 0 → s.chip.route t j0.kind (src + 120) false = .mem k' false → s.chip.commitTarget t j0 false dst = some e →
      yields (.rcommit t a b false) s (fun x =>
        (∀ e', Map.read [] x.fast e' = if e' = e then Memory.load s.mem k 128 else Map.read [] s.chip.fast e') ∧
        x.pager = s.chip.pager ∧ x.od = s.chip.od)) ∧
    (∀ pg : Page, dst % 1024 = 0 → s.chip.route t j0.kind (src + 1016) false = .mem k' false →
      s.chip.commitTarget t j0 true dst = some e → s.chip.page? (pageOf e) = some pg → pg.usable = true → pg.recs.length = 4 →
      yields (.rcommit t a b true) s (fun x =>
        x.slowRec e = sealSlow (fit 1024 (Memory.load s.mem k 1024)) ∧ x.fast = s.chip.fast ∧ x.od = s.chip.od))

/-- Interpolation, SlotAndFrameInstructions and RecordCommit, each as its own text says. -/
def Obligations.TineRecords : Prop :=
  Says.Interpolation ∧ Says.SlotAndFrameInstructions ∧ Says.RecordCommit

/-- R391, R401, R407–R409: special registers and the end, the wait and the wake of an invocation; MTS of STAT and of TIMER; the field,
disposition and trigger instructions of the CAN and recorder places; FAULT ends the job with cause PROGRAM. -/
def Sys2Proof.Says.SpecialInstructions : Prop :=
  ∀ (t : TineId) (d a n : Fin 32) (imm : BitVec 16) (code : Byte) (s : State), s.executing t = true →
    let j0 := s.job t
    let x0 := s.chip.tine t
    let v := (j0.gr a).toNat
    ((∀ p, t = .can p → (s.chip.can p).ring.length ≤ 1) →
      yields (.wft t) s (fun x => (x.tine t).run = false ∧ (x.tine t).ended = true ∧ (x.tine t).wait = none)) ∧
    (t.isLane = false → yields (.wfe t imm) s (fun x =>
      (x.tine t).wait = some (imm.toNat % 512) ∧ (x.tine t).run = true ∧ x = { s.chip with tines := x.tines })) ∧
    (∃ j, exec (.mfs t d n) s = .next (s.withJob t j) ∧
      ∀ i, j.gr i = if i = d.val ∧ i ≠ 0 then BitVec.ofNat 32 (s.chip.sreg t x0 n) else j0.gr i) ∧
    (∃ j, exec (.mts t 6 a) s = .next (s.withJob t j) ∧ (∀ k, bit j.stat k = if k < 5 ∨ k = 8 then bit v k else false) ∧
      ∀ i, j.gr i = j0.gr i) ∧
    (t.isRing = true → yields (.mts t 11 a) s (fun x => (x.tine t).timer = v ∧ x = { s.chip with tines := x.tines })) ∧
    (t.isCan = true → ∃ j, exec (.cld t d imm) s = .next (s.withJob t j) ∧ ∀ i, i ≠ d.val → j.gr i = j0.gr i) ∧
    (t.isCan = true → yields (.cdisp t a) s (fun x => (x.tine t).disp = some (v % 16) ∧ x = { s.chip with tines := x.tines })) ∧
    (t = .recorder → ∀ e es, s.chip.port = e :: es →
      ∃ j, exec (.eld t d 0) s = .next (s.withJob t j) ∧
        ∀ i, j.gr i = if i = d.val ∧ i ≠ 0 then BitVec.ofNat 32 e.code else j0.gr i) ∧
    (t = .recorder → ∃ u : State, exec (.etrg t a) s = .next u ∧ u.rcd = { s.rcd with trig := some (v % 256, bit v 8) } ∧
      u.mem = s.mem ∧ u.chip = { s.chip with tines := u.chip.tines }) ∧
    (exec (.fault t code) s = .next { s with chip := (s.chip.tineFault t 5 code.toNat).stepped t }) ∧
    (yields (.fence t) s (fun x => (∀ i, (x.tine t).job.gr i = j0.gr i) ∧ (x.tine t).job.pc = (j0.pc + 4) % 2 ^ 32 ∧
      x = { s.chip with tines := x.tines, fresh := x.fresh }))

/-- R401: an event named in the mask of WFE ends the wait and stands in WAKE; an event not named leaves the Tine waiting. -/
def Sys2Proof.Says.WaitAndWake : Prop :=
  ∀ (t : TineId) (m : Nat) (events : BitVec 9) (s : State), (s.chip.tine t).wait = some m →
    (m &&& events.toNat ≠ 0 → yields (.wfeWake t events) s (fun x =>
      (x.tine t).wait = none ∧ (x.tine t).wake = m &&& events.toNat ∧ x = { s.chip with tines := x.tines, fresh := x.fresh })) ∧
    (m &&& events.toNat = 0 → exec (.wfeWake t events) s = .next s)

/-- R398, R129, R330, R332: MTS EMERG, in either of its two rows, of a lane for a string whose head lies on its ring declares its emergency:
0x3011, EMERG, and a CTRL OPEN of the named contactors that leaves at the first frame boundary of its port, ahead of every frame that has not
begun; no CTRL is added to the queue. For another string the job ends with cause ACCESS. -/
def Sys2Proof.Says.StringEmergency : Prop :=
  ∀ (t : TineId) (a : Fin 32) (s : State) (r p : Nat), s.executing t = true → t.isLane = true → s.chip.up = true →
    let w := ((s.job t).gr a).toNat
    let n := bits w 12 8
    let g := s.chip.ring r
    let up := s.chip.reqUp r p
    let q := s.chip.mkReq r p 6 (ctrlPayload 1 (bits w 1 0))
    let f := mkFrame 6 up (countOf (s.chip.nOf r) up p) g.nextTag q.epoch q.payload
    let put (fs : List Frame) : List Frame := insertFrame (fun _ => false) (max s.chip.clk.off 10000) f 10000 fs
    s.chip.headOf n = some (r, p) →
    ∀ c ∈ ([.mtsEmerg t a, .mts t 9 a] : List Instr),
      (r = ringOf t → (∀ st, s.chip.swi.step = some st → st.coils n = 0) → yields c s (fun x =>
        (if up then (x.ring r).sentB = put g.sentB ∧ (x.ring r).sentA = g.sentA
         else (x.ring r).sentA = put g.sentA ∧ (x.ring r).sentB = g.sentB) ∧
        (∀ y ∈ (x.ring r).queue, y ∈ g.queue ∧ ¬(y.isClose = true ∧ y.pos = p)) ∧
        (g.txs.length < 16 → (x.ring r).txs = g.txs ++ [⟨g.nextTag, q, 0⟩]) ∧ (∀ q, q ≠ r → x.ring q = s.chip.ring q) ∧
        (x.st n).emergency = true ∧ ((x.st n).sw = .opening ∨ (x.st n).sw = .welded) ∧ (∀ m, m ≠ n → x.st m = s.chip.st m) ∧
        x.rdBit 0x2500 0x1B 6 = true ∧ ⟨0x3011, n, [0#8, 1#8], false⟩ ∈ x.port ∧ x.mode = s.chip.mode ∧ x.chan = s.chip.chan)) ∧
      (r ≠ ringOf t → exec c s = .next { s with chip := (s.chip.tineFault t 2 0).stepped t })

/-- SpecialInstructions, WaitAndWake and StringEmergency, each as its own text says. -/
def Obligations.TineSpecials : Prop :=
  Says.SpecialInstructions ∧ Says.WaitAndWake ∧ Says.StringEmergency

/-- R409, R393, R405–R407: a fault ends the invocation at once, keeps its cause with the PC in CAUSE and posts 0x6041 with the place;
undefined words and the watches of slow, sweep, filter and trigger programs fault so. -/
def Sys2Proof.Says.TineFaults : Prop :=
  ∀ (t : TineId) (s : State) (word : Word) (block : Fin 16) (lane : Fin 5) (r : RingNo),
    (s.executing t = true → (∀ i, tineDecode t word.toNat = some i → provided t i = false) →
      exec (.undefinedOpcode t word) s = .next { s with chip := (s.chip.tineFault t 1 0).stepped t }) ∧
    (let l := TineId.lane block lane
     (s.job l).kind = 3 → 8 * (s.job l).lim < (s.job l).cyc →
      exec (.slowJobRunaway block lane) s = .next { s with chip := s.chip.tineFault l 7 0 }) ∧
    (exec (.sweepProgramWatch r) s = .next { s with chip := s.chip.tineFault (.ringCtl r) 6 0 }) ∧
    (t.isCan = true ∨ t.isRecorder = true → 4 * (s.chip.jobFigure t (s.job t)).2 ≤ (s.job t).cyc →
      exec (.filterTriggerWatch t) s = .next { s with chip := s.chip.tineFault t 6 0 }) ∧
    ∀ cause code, (s.chip.tine t).run = true →
      let x := s.chip.tineFault t cause code
      ((∀ p, t = .can p → (s.chip.can p).ring.length ≤ 1) →
        (x.tine t).run = false ∧ (x.tine t).cause = cause + (s.job t).pc % 2 ^ 24 * 256) ∧
      ∃ d es es', x.port = s.chip.port ++ es ++ ⟨0x6041, placeOf t, le 1 cause ++ d, false⟩ :: es'

/-- R404, R400, R49, R58, R75: a job that the scheduler may place on a lane that is free, requested with the lane's role epoch and with its
pages grantable, starts with its entry arguments in G1–G7, at the entry of the protection program or of the kernel, with every other
register 0, or where a suspended context is resumed with that context; a request with another epoch changes nothing but the lane's
reply, which is STALE_ROLE. -/
def Sys2Proof.Says.JobStart : Prop :=
  ∀ (block : Fin 16) (lane : Fin 5) (kind : Fin 4) (entry : Fin 8) (param : Word) (pages : List (Fin 4096)) (resume : Option (Fin 16))
    (due : Nat) (epoch : BitVec 16) (s : State) (i : Nat),
    let t := TineId.lane block lane
    let ms := if kind.val = 3 then pages.map (·.val) else []
    s.chip.logicalOf block lane = some i →
    (epoch.toNat ≠ s.chip.laneEpoch block i → yields (.jobStart block lane kind entry param pages resume due epoch) s (fun x =>
      (x.tine t).reply = rSTALE ∧ (x.tine t).job = s.job t ∧ (x.tine t).run = (s.chip.tine t).run ∧
      x = { s.chip with tines := x.tines })) ∧
    (epoch.toNat = s.chip.laneEpoch block i → s.chip.jobToPlace t block i kind entry param ms (resume.map (·.val)) = none →
      becomes (.jobStart block lane kind entry param pages resume due epoch) s s.chip) ∧
    ∀ job, s.chip.jobToPlace t block i kind entry param ms (resume.map (·.val)) = some job →
    (epoch.toNat = s.chip.laneEpoch block i → s.chip.grantRefusal ms = 0 → (s.chip.tine t).run = false →
    (s.chip.tine t).stopped = false → (s.chip.tine t).halted = false → s.chip.rd (0x6064 + block.val / 4) 1 = 0 →
    s.chip.mayPlace (s.chip.tine t) kind due (job.lim - job.cyc) = true →
    yields (.jobStart block lane kind entry param pages resume due epoch) s (fun x =>
      let j := (x.tine t).job
      (x.tine t).run = true ∧ (x.tine t).wait = none ∧ (x.tine t).reply = 0 ∧ j = job ∧
      (kind.val = 3 → (x.tine t).due = due) ∧
      (resume = none → j.kind = kind.val ∧ j.entry = entry.val ∧ j.stat = 0 ∧ j.cyc = 0 ∧
        (j.gr 1).toNat = s.chip.laneFirst block i % 2 ^ 32 ∧ (j.gr 2).toNat = s.chip.laneLast block i % 2 ^ 32 ∧
        (j.gr 3).toNat = s.chip.ticks % 2 ^ 32 ∧ (j.gr 4).toNat = s.chip.laneEpoch block i % 2 ^ 32 ∧ (j.gr 5).toNat = kind.val ∧
        j.gr 6 = param ∧ (j.gr 7).toNat = entry.val ∧ (∀ k, 8 ≤ k → j.gr k = 0) ∧ (∀ h k, j.vr h k = 0)) ∧
      sameObjs s.chip x [(0x2110, 0x0A)]))

/-- TineFaults and JobStart, each as its own text says. -/
def Obligations.TineJobs : Prop :=
  Says.TineFaults ∧ Says.JobStart

/-! ## The die link, the adopt handshake and the modes (R9–R41, R382–R384) -/

/-- R9–R11, R13, R41, R382, R383: a failing lane's run counts and a good frame ends it; at 16 the lane goes out of use with 0x6020; a
loss starts a new generation and asserts LINK, and none is declared while the compute die is in reset; the recovery restarts the lanes,
counts in 6010:02 and posts 0x6021; an adopt wait
while the link is lost posts 0xA005 once. -/
def Sys2Proof.Says.DieLink : Prop :=
  ∀ (l : Fin 4) (ok up : Bool) (s : State),
    let c := s.chip
    (c.laneOut l = false → becomes (.dieLinkFrame l ok) s
      { c with link := { c.link with failRun := Map.write 0 c.link.failRun l (if ok then 0 else Map.read 0 c.link.failRun l + 1) } }) ∧
    (c.laneOut l = false → 16 ≤ Map.read 0 c.link.failRun l → yields (.dieLinkLaneOut l) s (fun x =>
      x.laneOut l = true ∧ (∀ k, k < 8 → k ≠ l.val → x.rdBit 0x6010 1 k = c.rdBit 0x6010 1 k) ∧
      x.port = c.port ++ [⟨0x6020, l.val, [], false⟩] ∧ sameObjs c x [(0x6010, 1)] ∧ x = { c with od := x.od, port := x.port })) ∧
    (c.inReset = false → c.linkLost = false → yields (.linkLoss up) s (fun x =>
      x.link.lostUp = up ∧ x.link.lostDown = !up ∧ x.link.lossTicks = 0 ∧ x.adopt.g = (c.adopt.g + 1) % 65536 ∧
      x.adopt.d = c.adopt.d + 1 ∧ x.adopt.status = 0 ∧ x.adopt.block = none ∧ x.trip.asserted.getLsbD 43 = true ∧ x.mode = c.mode)) ∧
    (c.inReset = true → exec (.linkLoss up) s = .next s) ∧
    (c.linkLost = true → yields .linkRecovery s (fun x =>
      x.link = {} ∧ x.rd 0x6010 2 = (c.rd 0x6010 2 + 1) % 2 ^ 32 ∧ (∀ k, k < 4 → x.rdBit 0x6010 1 k = false) ∧
      x.trip.asserted.getLsbD 43 = false ∧ x.adopt.g = c.adopt.g ∧ x.adopt.status = c.adopt.status ∧
      ∃ es, x.port = c.port ++ ⟨0x6021, 0, le 4 c.link.lossTicks, false⟩ :: es)) ∧
    (c.linkLost = true → c.adopt.status = 0 → c.adopt.waited = false →
      becomes .adoptWaitTimeout s { c.post 0xA005 0 (le 1 3 ++ le 4 0) with adopt := { c.adopt with waited := true } })

/-- R383, R384: the adopt block is read while the handshake is open, and an ADOPT with the generation unchanged completes it: G
counts, D and COLD clear; an inconsistent block leads to opens-only mode and SAFE-HOLD. No channel is commanded by it. -/
def Sys2Proof.Says.AdoptHandshake : Prop :=
  ∀ (s : State) (b : AdoptBlock),
    let c := s.chip
    (c.up = true → c.linkLost = false → c.adopt.status = 0 → becomes .adoptBlockRead s
      { c with adopt := { c.adopt with
        block := some ⟨c.adopt.g, c.adopt.d, c.adopt.cold, c.chanCrc, c.adoptConsistent, c.adoptDiff⟩ } }) ∧
    (c.adopt.block = some b → c.up = true → c.linkLost = false → b.g = c.adopt.g → b.consistent = true → c.adopt.opensOnly = false →
      yields .adoptWrite s (fun x =>
        x.adopt.g = (c.adopt.g + 1) % 65536 ∧ x.adopt.d = 0 ∧ x.adopt.cold = false ∧ x.adopt.changes = [] ∧ x.adopt.overflow = false ∧
        x.adopt.status = 1 ∧ x.adopt.opensOnly = false ∧ x.adopt.image.g = x.adopt.g ∧ x.mode = c.mode ∧ x.chan = c.chan)) ∧
    (c.adopt.block = some b → c.up = true → c.linkLost = false → b.g = c.adopt.g → b.consistent = false → c.mode ≠ .shutdown →
      yields .adoptWrite s (fun x =>
        x.adopt.g = (c.adopt.g + 1) % 65536 ∧ x.adopt.status = 2 ∧ x.adopt.opensOnly = true ∧ x.adopt.safeHold = true ∧
        x.mode = .safeHold ∧ x.rdBit 0x2000 3 2 = true)) ∧
    (c.adopt.block = some b → c.up = true → c.linkLost = false → b.g ≠ c.adopt.g →
      becomes .adoptWrite s { c with adopt := { c.adopt with block := none } })

/-- DieLink and AdoptHandshake, each as its own text says. -/
def Obligations.DieLinkAndAdopt : Prop :=
  Says.DieLink ∧ Says.AdoptHandshake

/-- R28, R31, R33–R35: an accepted mode request. Codes with no request are answered RANGE; READY in READY changes nothing but the tick it
came in, and takes the place of an ACTIVE of the same tick, which it refuses with 0xA012; ACTIVE in READY, with PROT in RUN and no latch,
waits for the tick edge (log entry 116); SHUTDOWN is entered with no string on its way and otherwise disconnects the section first; a
request for a mode that has no transition from the one in force is answered STATE with 0xA012. -/
def Sys2Proof.Says.ModeRequests : Prop :=
  ∀ (m : Master) (code : Byte) (who : Nat) (s : State),
    let c := s.chip
    let n := code.toNat
    let paths := (List.range 32).any c.engaged || c.swi.ramp
    c.up = true → c.actionGuard m 3 = .ok →
    (n = 1 ∨ n = 2 ∨ n = 5 ∨ 6 < n → becomes (.modeRequest m code) s (c.answer .range)) ∧
    (n = 3 → c.trans = .none → c.mode = .ready → c.actReq = none →
      becomes (.modeRequest m code) s (({ c with readyTick := some c.ticks }.answer .ok).renew 3)) ∧
    (n = 3 → c.trans = .none → c.mode = .ready → c.actReq = some who → yields (.modeRequest m code) s (fun x =>
      x.mode = .ready ∧ x.trans = .none ∧ x.actReq = none ∧ x.actAns = some .busy ∧ x.ans.status = .ok ∧
      x.port = c.port ++ [⟨0xA012, who, le 1 4 ++ le 1 3, false⟩])) ∧
    (n = 3 → c.trans = .none → c.actReq = none → c.mode = .boot ∨ c.mode = .discover ∨ c.mode = .safeHold ∨ c.mode = .shutdown →
      becomes (.modeRequest m code) s
        (({ c with readyTick := some c.ticks }.post 0xA012 (masterCode m) (le 1 3 ++ le 1 c.mode.code)).answer .state)) ∧
    (n = 4 → c.trans = .none → c.mode = .ready → c.actReq = none → c.readyTick ≠ some c.ticks → c.runOf 0 = .run → c.trip.latched = 0 →
      becomes (.modeRequest m code) s (({ c with actReq := some (masterCode m), actAns := none }.answer .ok).renew 3)) ∧
    (n = 6 → c.mode ≠ .shutdown → c.trans = .none → paths = false →
      yields (.modeRequest m code) s (fun x => x.mode = .shutdown ∧ x.trans = .none ∧ x.power.cause = 2)) ∧
    (n = 6 → c.mode ≠ .shutdown → c.trans = .none → paths = true →
      yields (.modeRequest m code) s (fun x => x.mode = c.mode ∧ x.trans = .toShutdown ∧ x.swi.ramp = true ∧ x.swi.rampSection = true))

/-- R28, R147, R579, R632, R660: the end of BOOT enters DISCOVER, or SAFE-HOLD while its latch is set; READY follows once every configured
ring is done (one of a block without four healthy lanes, R29, or of a region still held, R462, is done at once), and with auto-activate set
its transition starts; 0x5A in
2000:07 orders the restart, anything else is answered RANGE. -/
def Sys2Proof.Says.StartTransitions : Prop :=
  ∀ (m : Master) (v : Byte) (s : State),
    let c := s.chip
    c.up = true →
    (c.mode = .boot → c.power.started = true → c.power.recovery = false → c.adopt.status ≠ 0 → c.adopt.safeHold = false →
      yields .bootComplete s (fun x => x.mode = .discover ∧ ∀ r, r < 16 → c.configured r = true →
        if ((c.ring r).unfit = true ∨ c.rd (0x6064 + r / 4) 1 = 2) ∧ (c.ring r).disc = false then (x.ring r).done = true else (x.ring r).disc = true)) ∧
    (c.mode = .boot → c.power.started = true → c.power.recovery = false → c.adopt.status ≠ 0 → c.adopt.safeHold = true →
      yields .bootComplete s (fun x => x.mode = .safeHold ∧ x.rdBit 0x2000 3 0 = true)) ∧
    (c.mode = .discover → (∀ r, r < 16 → c.configured r = true → (c.ring r).done = true) → c.rd 0x2000 4 ≠ 1 →
      yields .discoverComplete s (fun x => x.mode = .ready ∧ x.rd 0x1031 6 = 0 ∧ x.power.booting = 0 ∧ x.trans = c.trans)) ∧
    (c.actionGuard m 8 = .ok → v = 0x5A#8 → becomes (.commandedRestart m v) s
      (({ c with power := { c.power with restart := some (masterCode m) } }.answer .ok).renew 8)) ∧
    (c.actionGuard m 8 = .ok → v ≠ 0x5A#8 → becomes (.commandedRestart m v) s (c.answer .range))

/-- ModeRequests and StartTransitions, each as its own text says. -/
def Obligations.ModeTransitions : Prop :=
  Says.ModeRequests ∧ Says.StartTransitions

/-- R578: 2000:08 by the holder in EDIT of every named group stages the default of each of their settings; a mask that names another
group is answered NOTOWNER and stages nothing. -/
def Sys2Proof.Says.DefaultStaging : Prop :=
  ∀ (m : Master) (mask : BitVec 16) (s : State),
    let c := s.chip
    c.up = true → c.power.recovery = false → mayWrite m = true → mask.toNat < 512 →
    ((∀ g, g < 9 → bit mask.toNat g = true → c.ownerStatus m g false = .ok) → yields (.defaultStaging m mask) s (fun x =>
      x.ans.status = .ok ∧ x.od = c.od ∧ ∀ g, g < 9 → bit mask.toNat g = true → ∀ q ∈ x.claims, bit q.groups g = true →
        ∀ d ∈ defaultsOf g, (∀ lo hi, d.1.ty ≠ .dom lo hi) →
          q.staged.find? (fun y => y.1 == okey d.2.1 d.2.2) = some (okey d.2.1 d.2.2, dflt (okey d.2.1 d.2.2)))) ∧
    ((∃ g, g < 9 ∧ bit mask.toNat g = true ∧ c.ownerStatus m g false ≠ .ok) →
      becomes (.defaultStaging m mask) s (c.answer .notOwner))

/-! ## Strings, the closing sequence, ramps and balancing (R325–R355) -/

/-- R330, R335, R338, R341, R555, R556: a close command of a closable string makes it wait to close, with 0x800A; a string that is not
closable, or that an opening of the same tick wants open, is refused with 0x500D, which carries all bits of 32nn:06; an orderly open of a
closed string starts a ramp with 0x5007, and a string in its closing steps stands back for it; an emergency open sends CTRL OPEN of both
contactors at once, ahead of every frame that has not begun, and sets EMERG. -/
def Sys2Proof.Says.StringCommands : Prop :=
  ∀ (m : Master) (n : StringNo) (s : State),
    let c := s.chip
    let y := c.st n
    let stays := (c.swi.step.map (·.opens)).getD false
    m ≠ .observer →
    (c.refusal n = 0 → y.openTick ≠ some c.ticks → y.sw = .open → y.weldBoth = false → y.emergency = false →
      c.mode ≠ .active ∨ c.swi.step ≠ none →
      becomes (.stringCloseCommand m n) s (((c.answer .ok).commanded m (0x3200 + n) 4 1 1 .ok).setSt n { y with wait := true })) ∧
    (c.refusal n ≠ 0 ∨ y.openTick = some c.ticks → becomes (.stringCloseCommand m n) s
      ((c.answer .refused).post 0x500D n
        (le 2 (c.refusal n + if c.rdBit (0x3200 + n) 6 8 then 256 else 0) ++ le 1 (masterCode m)))) ∧
    (y.sw = .closed → y.weldBoth = false → y.emergency = false → c.swi.ramp = false →
      yields (.stringOrderlyOpen m n) s (fun x =>
        x.st n = { y with sw := .ramping, toOpen := true, wait := false, openTick := some c.ticks } ∧
        (∀ k, k < 32 → k ≠ n.val → x.st k = if stays = false ∧ ((c.st k).sw = .testing ∨ (c.st k).sw = .closing)
          then { c.st k with sw := .open, wait := true } else c.st k) ∧
        x.swi = { c.swi with ramp := true, rampSection := false, sec := .ramping, step := if stays then c.swi.step else none } ∧
        ∃ es d, x.port = c.port ++ es ++ [⟨0x5007, 0xFF, d, false⟩])) ∧
    ((∀ st, c.swi.step = some st → st.coils n = 0) → yields (.stringEmergencyOpen m n) s (fun x =>
      (x.st n).emergency = true ∧ (x.st n).ordered = true ∧ (x.st n).wait = false ∧
      (x.st n).sw = (if y.sw = .welded then .welded else .opening) ∧ (∀ k, k ≠ n.val → x.st k = c.st k) ∧
      x.rdBit 0x2500 0x1B 6 = true ∧ ⟨0x3011, n.val, [0x11#8, 3#8], false⟩ ∈ x.port ∧
      ∀ r p, c.up = true → c.headOf n = some (r, p) →
        let up := c.reqUp r p
        let q := c.mkReq r p 6 (ctrlPayload 1 3)
        (if up then (x.ring r).sentB else (x.ring r).sentA) =
          insertFrame (fun _ => false) (max c.clk.off 10000)
            (mkFrame 6 up (countOf (c.nOf r) up p) (c.ring r).nextTag q.epoch q.payload) 10000
            (if up then (c.ring r).sentB else (c.ring r).sentA)))

/-- R331, R333: a condition that has held for as many fresh ticks as it needs begins to act, is recorded with 0x3010 and acts once;
temperature and its rise are string emergencies. One that acts already, that has not held long enough, or that names an element of
another string changes nothing. An emergency that the KH2 does not confirm becomes a section emergency: ETRIP asserts, once the adopt
handshake is complete (R13); with the coils off and the current below 2500:14 nothing follows. -/
def Sys2Proof.Says.ProtectionConditions : Prop :=
  ∀ (n : StringNo) (cond : Fin 6) (e : ElemNo) (s : State),
    let c := s.chip
    let g := if cond.val = 5 then n.val else e.val
    let key := (cond.val + 1) * 16384 + g
    let v := (c.protValue n (cond.val + 1) g).getD 0
    let due := Map.read 0 c.acting key ≠ 1 ∧ c.protNeed n (cond.val + 1) ≤ Map.read 0 c.prot key ∧
      (cond.val = 5 ∨ c.strOf e = some n.val)
    (¬due → exec (.protectionCondition n cond e) s = .next s) ∧
    (due → yields (.protectionCondition n cond e) s (fun x =>
      Map.read 0 x.acting key = 1 ∧
      (∃ es, x.port = c.port ++ ⟨0x3010, n.val, le 1 (cond.val + 1) ++ le 2 e.val ++
        le 4 (ofInt 32 (if cond.val = 4 then v / 10 else v)), false⟩ :: es) ∧
      (cond.val = 3 ∨ cond.val = 4 → (x.st n).emergency = true ∧ (x.st n).ordered = true))) ∧
    (c.adopted = true → (c.st n).emergency = true → bits (c.contactor n) 5 4 ≠ 0 → yields (.emergencyUnconfirmed n) s (fun x =>
      x.trip.asserted.getLsbD 47 = true ∧
      ∃ d es, x.port = c.port ++ ⟨0x3013, n.val, d, false⟩ :: ⟨0x3012, n.val, le 1 9 ++ le 1 6, false⟩ :: es)) ∧
    ((c.st n).emergency = false ∨ (c.headSlot n ≠ [] ∧ bits (c.contactor n) 5 4 = 0 ∧ (c.strI n).natAbs < c.rd 0x2500 0x14) →
      exec (.emergencyUnconfirmed n) s = .next s)

/-- StringCommands and ProtectionConditions, each as its own text says. -/
def Obligations.StringsAndProtection : Prop :=
  Says.StringCommands ∧ Says.ProtectionConditions

/-- R342–R351: the ends of the steps of closing: from the solo test of C0 to that of C1 and to step 3, or to WELDED with 0x500A where
current flows or ΔV falls; from C1's contact time to C0; a pre-charge measured within tolerance, completed, failed and tried again, or
failed for good; and the sequence that times out before both mains are on, which fails. A main channel found on is not commanded again
(R353), a command that the power die refuses (R363) leaves its channel alone, and one that a trip holds off ends the sequence (R350). -/
def Obligations.ClosingSequence : Prop :=
  ∀ (n tau d : Nat) (dv0 : Int) (b : Bool) (s : State),
    let c := s.chip
    let pos := c.rd 0x2500 3
    let neg := c.rd 0x2500 4
    (c.swi.step = some (.solo n false dv0) → (c.strI n).natAbs ≤ c.rd 0x2500 0x14 → dv0.natAbs ≤ 2 * (c.dv n).natAbs →
      becomes .soloTestEnd s (((c.releaseCoils n 1).ctrlHead n 2 2).setStep (some (.solo n true (c.dv n))))) ∧
    (c.swi.step = some (.solo n true dv0) → (c.strI n).natAbs ≤ c.rd 0x2500 0x14 → dv0.natAbs ≤ 2 * (c.dv n).natAbs →
      becomes .soloTestEnd s ((((c.releaseCoils n 2).ctrlHead n 2 2).setSw n .closing).setStep (some (.c1 n)))) ∧
    (c.swi.step = some (.solo n b dv0) → c.rd 0x2500 0x14 < (c.strI n).natAbs → yields .soloTestEnd s (fun x =>
      (x.st n).sw = .welded ∧ ⟨0x500A, n, le 1 (if b then 1 else 2) ++ le 1 1, false⟩ ∈ x.port)) ∧
    (c.swi.step = some (.c1 n) → bit (c.contactor n) 1 = true → c.swi.first = true ∨ c.matches n = true →
      becomes .contactTimeEnd s ((c.ctrlHead n 2 1).setStep (some (.c0 n)))) ∧
    (c.swi.step = some (.precharge false) →
      c.rd 0x2500 7 * c.rd 0x2500 8 * (100 - c.rd 0x2500 9) ≤ tau * 100000000 →
      tau * 100000000 ≤ c.rd 0x2500 7 * c.rd 0x2500 8 * (100 + c.rd 0x2500 9) →
      yields (.prechargeTauPoint tau) s (fun x => x.swi = { c.swi with step := some (.precharge true), tauMs := min 65535 tau } ∧
        x.rd 0x2500 0x1E = min 65535 tau ∧ sameObjs c x [(0x2500, 0x1E)] ∧ x = { c with swi := x.swi, od := x.od })) ∧
    (c.swi.step = some (.precharge b) → 16 ≤ pos ∨ c.chanOn pos = true → becomes (.prechargeComplete d) s
      { c with swi := { c.swi with step := some (.mainPos true), durationMs := d % 2 ^ 32 } }) ∧
    (c.swi.step = some (.precharge b) → pos < 16 → c.chanOn pos = false → c.heldOff pos = false →
      yields (.prechargeComplete d) s (fun x =>
        x.swi = { c.swi with step := some (.mainPos true), durationMs := d % 2 ^ 32 } ∧
        (c.onRefusal .sequence pos = 0 → (x.ch pos).cmd = true) ∧ (c.onRefusal .sequence pos ≠ 0 → x.chan = c.chan))) ∧
    (c.swi.step = some (.precharge b) → pos < 16 → c.chanOn pos = false → c.heldOff pos = true →
      yields (.prechargeComplete d) s (fun x => x.swi.step = none ∧ x.swi.running = false ∧ (x.ch pos).cmd = false)) ∧
    (c.swi.step = some (.precharge b) → c.swi.tries + 1 ≤ c.rd 0x2500 0x0D → yields .prechargeTimeout s (fun x =>
      x.swi = { c.swi with step := some .retryPause, tries := c.swi.tries + 1, sec := .open } ∧ x.rdBit 0x2500 0x1B 4 = true ∧
      (c.adopt.status ≠ 0 → (c.rd 0x2500 2 < 16 → (x.ch (c.rd 0x2500 2)).cmd = false) ∧ (neg < 16 → (x.ch neg).cmd = false)))) ∧
    (c.swi.step = some (.precharge b) → c.rd 0x2500 0x0D < c.swi.tries + 1 → yields .prechargeTimeout s (fun x =>
      x.swi.step = none ∧ x.swi.running = false ∧ x.swi.sec = .fault ∧ x.rdBit 0x2500 0x1B 4 = true)) ∧
    (c.swi.step = some .retryPause → c.noMains = false → (c.chanOn pos && c.chanOn neg && c.linkNear) = false →
      16 ≤ neg ∨ c.chanOn neg = true ∨ c.heldOff neg = false →
      yields .retryPauseEnd s (fun x => x.swi = { c.swi with step := some .mainNeg, v0 := c.vLink } ∧
        (neg < 16 → c.onRefusal .sequence neg = 0 → (x.ch neg).cmd = true))) ∧
    (c.swi.running = true → c.noMains = false → c.rd 0x2500 2 ≥ 16 → c.chanOn pos = false →
      yields .sequenceTimeout s (fun x => x.swi.running = false ∧ x.swi.step = c.openingStep ∧ x.swi.sec = .fault ∧ x.trans = .none ∧
        x.mode = c.mode ∧ (∀ k, k < 32 → (x.st k).wait = false ∧ (x.st k).sw ≠ .testing ∧ (x.st k).sw ≠ .closing)))

/-- R326, R327, R334, R336, R337: each of these commands completes in every state. A ramp whose currents have stayed low for three ticks
opens its strings, and RAMP_COMPLETE does nothing before; one that runs out becomes a string emergency for each of them that is not on its
way, or a section emergency, and ends when the openings are confirmed; the policy derates a string by the conditions in force, 2560:03 by
a DISAGREE of 2560:04 hours and 2560:07 by UNREFRESHED; the balancing update writes duties and 2720+n alone: none with balancing off, and
in the tick of an update those of R326 or the stop of its cause. -/
def Obligations.RampsPolicyBalancing : Prop :=
  ∀ (s : State),
    let c := s.chip
    let late := c.swi.ramp = true ∧ c.swi.step = none
    (late → 3 ≤ c.swi.lowTicks →
      yields .rampComplete s (fun x => x.swi = { c.swi with step := some .opening, sec := .opening } ∧
        (c.swi.rampSection = true → c.adopt.status ≠ 0 → (c.rd 0x2500 3 < 16 → (x.ch (c.rd 0x2500 3)).cmd = false) ∧
          (c.rd 0x2500 4 < 16 → (x.ch (c.rd 0x2500 4)).cmd = false)) ∧
        ∀ n, n < 32 → (x.st n).ordered = ((c.st n).ordered || (c.st n).toOpen) ∧ (x.st n).sw =
          if (c.st n).toOpen = true ∧ (c.st n).ordered = false then (if (c.st n).sw = .welded then .welded else .opening)
          else (c.st n).sw)) ∧
    (¬(late ∧ 3 ≤ c.swi.lowTicks) → exec .rampComplete s = .next s) ∧
    (late → (∃ n, n < 32 ∧ (c.st n).toOpen = true) →
      yields .rampTimeout s (fun x => x.swi.ramp = true ∧ x.swi.rampSection = false ∧ x.swi.step = some .confirming ∧
        x.swi.sec = .opening ∧ x.mode = c.mode ∧
        (c.swi.rampSection = true → c.adopted = true → x.trip.asserted.getLsbD 47 = true) ∧
        ∀ n, n < 32 → (c.st n).toOpen = true → (x.st n).ordered = true ∧ (x.st n).toOpen = true ∧
          (c.swi.rampSection = false → (c.st n).ordered = false → (x.st n).emergency = true ∧
            ⟨0x3011, n, le 1 0x10 ++ le 1 2, false⟩ ∈ x.port))) ∧
    (¬late → exec .rampTimeout s = .next s) ∧
    yields .policyEvaluation s (fun x => ∀ n, n < 32 → c.headOf n ≠ none → (x.st n).derate =
      min (match (c.es n).disAt with
          | some t => if c.rd 0x2560 4 * 3600 ≤ c.optime - t then c.rd 0x2560 3 else 100
          | none => 100)
        (if c.rdBit (0x2920 + n) 0x0C 1 then c.rd 0x2560 7 else 100)) ∧
    yields .balancingUpdate s (fun x =>
      x = { c with od := x.od, duty := x.duty, estr := x.estr, port := x.port } ∧
      ∀ n, n < 32 → c.headOf n ≠ none →
        (c.rd 0x2700 1 = 0 → x.rd (0x2720 + n) 4 = 0 ∧ x.rd (0x2720 + n) 2 = 0 ∧ ∀ g ∈ c.elemsOf n, Map.read 0 x.duty g = 0) ∧
        (c.rd 0x2700 1 ≠ 0 → c.ticks % max 1 (c.rd 0x2700 6) = 1 →
          (∀ ref, c.balCause n = 0 → (c.es n).balMin = some ref → x.rd (0x2720 + n) 4 = 1 ∧ x.rd (0x2720 + n) 1 = ref ∧
            ∀ y ∈ c.ksOf n, ∀ e, e < 16 → Map.read 0 x.duty (y.1 * 1024 + y.2 * 16 + e) = (c.sliceDuties y.1 y.2 ref).getD e 0) ∧
          (c.balCause n ≠ 0 → x.rd (0x2720 + n) 4 = 2 ∧ (x.es n).balStop = c.balCause n ∧
            (c.balCause n ≠ 3 → ∀ g ∈ c.elemsOf n, Map.read 0 x.duty g = 0))))

/-! ## Load channels (R358–R381) -/

/-- R362–R366, R369, R374: on-, off- and clear-latch commands of masters and an edge at IN, on a channel and its pair. A refused
on-command is answered REFUSED with its cause and changes no channel; each command posts 0x502A, and 0x300A with the sources in force
follows where a trip refuses it (R229). A rising edge while an action holds the channel off ends no hold-off (R226). -/
def Obligations.ChannelCommands : Prop :=
  ∀ (m : Master) (k : Chan) (cold : Bool) (s : State),
    let c := s.chip
    let old := le 1 (masterCode m) ++ le 1 (if (c.ch k).cmd then 1 else 0)
    let mode := c.rd (0x2410 + k.val) 5
    (m ≠ .observer → c.onRefusal m k = 0 → yields (.channelOnCommand m k) s (fun x =>
      x.ans.status = .ok ∧ x.port = c.port ++ [⟨0x502A, k.val, old ++ le 1 1 ++ [], false⟩] ∧
      (∀ j ∈ c.pair k, (x.ch j).cmd = true ∧ (x.ch j).hold = false ∧ (x.ch j).lastOn = some c.aonNs) ∧
      (mode = 0 → (c.ch k).state = .off → (x.ch k).state = .ramp) ∧ (∀ q, q ∉ c.pair k → x.ch q = c.ch q))) ∧
    (m ≠ .observer → c.onRefusal m k ≠ 0 → yields (.channelOnCommand m k) s (fun x =>
      x.ans = ⟨.refused, c.onRefusal m k, []⟩ ∧ x.chan = c.chan ∧ x.od = c.od ∧
      x.port = c.port ++ ⟨0x502A, k.val, old ++ le 1 1 ++ le 1 (c.onRefusal m k), false⟩ ::
        (if c.onRefusal m k = 2 then [⟨0x300A, k.val, le 8 (c.trip.asserted ||| c.trip.latched).toNat, false⟩] else []))) ∧
    (m ≠ .observer → c.adopt.status ≠ 0 → yields (.channelOffCommand m k) s (fun x =>
      x.ans.status = .ok ∧ (∃ es, x.port = c.port ++ ⟨0x502A, k.val, old ++ le 1 0 ++ [], false⟩ :: es) ∧
      (∀ j ∈ c.pair k, (x.ch j).cmd = false ∧ (x.ch j).offTick = some c.ticks) ∧
      (mode = 0 → (c.ch k).state.conducts = true ∨ (c.ch k).state = .pause → (x.ch k).state = .off) ∧
      (∀ q, q ∉ c.pair k → x.ch q = c.ch q))) ∧
    (m ≠ .observer → c.adopt.status ≠ 0 → yields (.clearLatchCommand m k) s (fun x =>
      x.ans.status = .ok ∧ x.port = c.port ++ [⟨0x502A, k.val, old ++ le 1 2 ++ [], false⟩] ∧
      (∀ j ∈ c.pair k, (c.ch j).state = .latched →
        (x.ch j).state = .off ∧ (x.ch j).cmd = false ∧ (x.ch j).fault = 0) ∧
      (∀ q, (c.ch q).state ≠ .latched ∨ q ∉ c.pair k → x.ch q = c.ch q))) ∧
    (mode = 1 → (∀ j ∈ c.pair k, k.val ≤ j) → c.heldOff k = true → yields (.inEdge k true cold) s (fun x =>
      (x.ch k).hold = (c.ch k).hold ∧ (x.ch k).inPin = true ∧ (∀ q, q ∉ c.pair k → x.ch q = c.ch q))) ∧
    (mode = 1 → (∀ j ∈ c.pair k, k.val ≤ j) → c.heldOff k = false → (c.ch k).state = .idle → yields (.inEdge k true cold) s (fun x =>
      (x.ch k).state = (if cold then .ramp else .on) ∧ (x.ch k).inPin = true ∧ (x.ch k).hold = false ∧
      (∀ q, q ∉ c.pair k → x.ch q = c.ch q))) ∧
    (mode = 1 → (∀ j ∈ c.pair k, k.val ≤ j) → (c.ch k).state.conducts = true → yields (.inEdge k false cold) s (fun x =>
      (x.ch k).state = .idle ∧ (x.ch k).inPin = false ∧ (∀ q, q ∉ c.pair k → x.ch q = c.ch q)))

/-- R368, R370–R373, R377: the steps of turning on, the current limit, faults with their pause or latch, the end of a pause and of the
clear time; a pair acts as one, and other channels keep their state. -/
def Obligations.ChannelStates : Prop :=
  ∀ (k : Chan) (peak : Nat) (s : State),
    let c := s.chip
    let y := c.ch k
    let next (p : Channel → Bool) (f : Nat → Channel → Channel) (x : Chip) : Prop :=
      (∀ j ∈ c.pair k, x.ch j = if p (c.ch j) then f j (c.ch j) else c.ch j) ∧ (∀ q, q ∉ c.pair k → x.ch q = c.ch q) ∧
      x = { c with chan := x.chan }
    let latch := decide (c.rd (0x2410 + k.val) 0x0A < y.fault + 1)
    let fault (x : Chip) : Prop :=
      (∀ j ∈ c.pair k, (x.ch j).state = (if latch then .latched else .pause) ∧ (x.ch j).fault = min 255 (y.fault + 1) ∧
        (latch = false → (x.ch j).pauseMs = min (2 ^ y.fault) 1024)) ∧
      (∀ q, q ∉ c.pair k → x.ch q = c.ch q)
    yields (.rampEnd k) s (next (fun a => a.state == .ramp && !a.dipHeld)
      (fun _ a => { a with state := if a.window = 0 then .on else .inrush })) ∧
    yields (.inrushWindowEnd k) s (next (fun a => a.state == .inrush || a.state == .limit && a.from_ == .inrush)
      (fun _ a => if a.state = .inrush then { a with state := .on } else { a with windowOver := true })) ∧
    yields (.currentAtLimit k) s (next (fun a => a.state == .ramp || a.state == .inrush || a.state == .on)
      (fun _ a => { a with state := .limit, from_ := a.state, windowOver := false })) ∧
    yields (.limitRelease k) s (next (fun a => a.state == .limit)
      (fun _ a => { a with state := if a.from_ = .inrush ∧ a.windowOver = true then .on else a.from_ })) ∧
    yields (.faultCountClear k) s (next (fun a => a.state == .on) (fun _ a => { a with fault := 0, causes := [] })) ∧
    (y.state.conducts = true → yields (.channelShort k peak) s (fun x => fault x ∧ x.rdBit (0x2410 + k.val) 0x0F 2 = true ∧
      ∃ es, x.port = c.port ++ ⟨0x5020, k.val, le 4 (min 40000 peak) ++ le 1 (y.fault + 1), false⟩ :: es)) ∧
    (y.state = .limit → yields (.limitTimeExpiry k) s (fun x => fault x ∧ x.rdBit (0x2410 + k.val) 0x0F 3 = true ∧
      ∃ es, x.port = c.port ++ ⟨0x5021, k.val, le 1 y.from_.code ++ le 1 (y.fault + 1), false⟩ :: es)) ∧
    (y.state = .ramp → y.dipHeld = false → yields (.channelRampTimeout k) s (fun x => fault x ∧ x.rdBit (0x2410 + k.val) 0x0F 4 = true ∧
      ∃ d es, x.port = c.port ++ ⟨0x5026, k.val, d, false⟩ :: es)) ∧
    (y.state = .pause → (c.grp (k.val / 4)).hot = false → (c.grp (k.val / 4)).fell = true ∨ c.rdI 16 (0x2404 + k.val / 4) 2 ≤ 13000 →
      y.wants (c.pinOf k) (c.rd (0x2410 + k.val) 5) = true →
      yields (.pauseEnd k) s (fun x => (x.ch k).state = .ramp ∧ (∀ q, q ∉ c.pair k → x.ch q = c.ch q))) ∧
    (y.state = .pause → (c.grp (k.val / 4)).hot = true → yields (.pauseEnd k) s (fun x =>
      (x.ch k).state = .pause ∧ (x.ch k).otHeld = true ∧ (∀ q, q ∉ c.pair k → x.ch q = c.ch q)))

/-- R375–R377, R379, R380: a supply dip holds the ramps of its group, and those that resume, all of them at 16.5 V and else those held
longest, post 0x5023 with the length of their own pause; one that resumes below 16.0 V is held no more in this dip; an undervoltage turns the
group
off and clears its commands; an over-temperature ends ramps, inrush windows and limits with faults, and its fall lets pauses end; the
diagnostics of the off and the on state; and the swap to a spare segment. -/
def Obligations.GroupsAndSegments : Prop :=
  ∀ (g : Group) (k : Chan) (minMv us : Nat) (back hot : Bool) (s : State),
    let c := s.chip
    let y := c.ch k
    yields (.supplyDip g) s (fun x =>
      (x.grp g).dip = true ∧ x.rdBit (0x2404 + g.val) 4 0 = true ∧
      ∀ q, x.ch q = if q ∈ groupChans g ∧ (c.ch q).state = .ramp ∧ (c.ch q).dipHeld = false ∧ (c.ch q).dipDone = false
        then { c.ch q with dipHeld := true, dipAt := c.aonNs } else c.ch q) ∧
    ((c.grp g).dip = true → yields (.dipResume g minMv us back) s (fun x =>
      let first := ((groupChans g).filter (fun q => (c.ch q).dipHeld)).foldl (fun a q => min a (c.ch q).dipAt) c.aonNs
      let goes (q : Nat) : Bool := (c.ch q).dipHeld && (back || (c.ch q).dipAt == first)
      x.grp g = { c.grp g with dip := !back } ∧
      (∀ q, x.ch q = if q ∈ groupChans g then
        (if goes q then { c.ch q with dipHeld := false, dipDone := !back && decide (c.rd (0x2404 + g.val) 1 < 16000) }
         else { c.ch q with dipDone := !back && (c.ch q).dipDone }) else c.ch q) ∧
      x.port = c.port ++ ((groupChans g).filter goes).map
        (fun q => ⟨0x5023, q, le 2 (min 65535 minMv) ++ le 4 (us - ((c.ch q).dipAt - first) / 1000), false⟩))) ∧
    yields (.groupUvlo g) s (fun x =>
      (∀ q ∈ groupChans g, (x.ch q).cmd = false ∧ (x.ch q).hold = true ∧ (x.ch q).state.conducts = false ∧
        (x.ch q).fault = (c.ch q).fault) ∧ (∀ q, q ∉ groupChans g → x.ch q = c.ch q) ∧
      ∃ es, x.port = c.port ++ es ++ [⟨0x502B, g.val, leList 1 ((groupChans g).filter (fun q => (c.ch q).state.conducts)), false⟩]) ∧
    yields (.groupOvertemp g hot) s (fun x => (x.grp g).hot = true ∧ x.rdBit (0x2404 + g.val) 4 2 = true ∧
      ∀ q ∈ groupChans g, (x.ch q).state ≠ .ramp ∧ (x.ch q).state ≠ .inrush ∧ (x.ch q).state ≠ .limit ∧
        (hot = true → (x.ch q).state ≠ .on)) ∧
    yields (.overtempFall g) s (fun x => (x.grp g).hot = false ∧
      ∀ q ∈ groupChans g, (c.ch q).otHeld = true → (c.ch q).state = .pause → (x.ch q).state ≠ .pause) ∧
    (y.state.offState = true → yields (.vauxShortDetect k) s (fun x => x.rdBit (0x2410 + k.val) 0x0F 9 = true ∧
      x.chan = c.chan ∧ ∃ d, x.port = c.port ++ [⟨0x5028, k.val, d, false⟩])) ∧
    (y.state = .on → yields (.openLoadDetect k) s (fun x => x.rdBit (0x2410 + k.val) 0x0F 8 = true ∧ x.chan = c.chan ∧
      x.port = c.port ++ [⟨0x5027, k.val, [], false⟩] ∧ sameObjs c x [(0x2410 + k.val, 0x0F)])) ∧
    (y.swapWait = true → y.spare = false → y.state = .off ∨ y.state = .idle ∨ y.state = .latched ∨ y.state = .on →
      yields (.segmentSwap k) s (fun x =>
        x.ch k = { y with swapWait := false, spare := true, handover := decide (y.state = .on), fetRun := 0 } ∧
        x.rdBit (0x2410 + k.val) 0x0F 7 = true ∧ (∀ q, q ≠ k.val → x.ch q = c.ch q))) ∧
    becomes (.segmentHandoverEnd k) s (c.setCh k { y with handover := false })

/-! ## Hardware protection (R213–R237) -/

/-- R213, R220–R223, R225, R227, R236: a source whose condition begins asserts, counts in 2303, latches where its word says so, and
every channel that an action in force names is TRIPPED. A loop whose enable bit is 0, an unused shunt's comparator and a window
comparator during the divider test do not assert. -/
def Obligations.TripAssertion : Prop :=
  ∀ (r : RingNo) (k : Fin 8) (s : State),
    let c := s.chip
    (∀ p ∈ ([(.loopShort r, r.val, bit c.trip.loopMask r), (.heartbeatLost r, r.val, bit c.trip.loopMask r),
        (.ocTrip k, 16 + k.val, !(decide (k.val < 4) && c.rd 0x3300 (0x0B + k.val / 2) == 0)),
        (.hwTrip k, 24 + k.val, !(c.front.hvTest == c.ticks + 1)), (.vauxOutOfRange, 34, true), (.powerDieOvertemp, 35, true),
        (.computeDieOvertemp, 36, true), (.supervisorWatchdog, 42, true), (.holdupLow, 44, true), (.faultLoopBiasSupply, 45, true),
        (.oafail r, 46, bit c.trip.rings r)] : List (Instr × Nat × Bool)),
      p.2.2 = true → c.trip.asserted.getLsbD p.2.1 = false → yields p.1 s (fun x =>
        x.trip.asserted = c.trip.asserted ||| BitVec.twoPow 48 p.2.1 ∧
        (bit (x.trip.word p.2.1) 32 = true → x.trip.latched.getLsbD p.2.1 = true) ∧
        (∀ i, i ≠ p.2.1 → x.trip.latched.getLsbD i = c.trip.latched.getLsbD i) ∧
        x.rd 0x2303 (p.2.1 + 1) = (c.rd 0x2303 (p.2.1 + 1) + 1) % 2 ^ 32 ∧
        (∀ q, q < 16 → x.heldOff q = true → (x.ch q).state = .tripped) ∧ x.mode = c.mode ∧ x.clk = c.clk)) ∧
    (bit c.trip.loopMask r = false → ∀ p ∈ ([.loopShort r, .heartbeatLost r] : List Instr),
      yields p s (fun x => x.trip.asserted = c.trip.asserted ∧ x.trip.latched = c.trip.latched ∧ x.chan = c.chan)) ∧
    (k.val < 4 → c.rd 0x3300 (0x0B + k.val / 2) = 0 → exec (.ocTrip k) s = .next s) ∧
    (c.front.hvTest = c.ticks + 1 → exec (.hwTrip k) s = .next s)

/-- R214, R224, R226, R641: a source deasserts; its latch, where it is set, stands; a channel that no action in force names any more
leaves TRIPPED for OFF, and no channel is switched on. -/
def Sys2Proof.Says.TripRelease : Prop :=
  ∀ (r : RingNo) (src : Fin 48) (s : State),
    let c := s.chip
    ∀ p ∈ ([(.loopDeassert r, r.val, true), (.etripExpiry, 47, true), (.holdupRestored, 44, true),
        (.tripConditionCleared src, src.val, !c.conditionHeld src)] : List (Instr × Nat × Bool)),
      p.2.2 = true → c.trip.asserted.getLsbD p.2.1 = true → yields p.1 s (fun x =>
        x.trip.asserted = c.trip.asserted &&& ~~~ BitVec.twoPow 48 p.2.1 ∧ x.trip.latched = c.trip.latched ∧
        (∀ q, q < 16 → (c.ch q).state = .tripped → (x.ch q).state = if x.heldOff q then .tripped else .off) ∧
        (∀ q, (x.ch q).state.conducts = true → (c.ch q).state = (x.ch q).state) ∧ x.mode = c.mode)

/-- R13, R222, R224, R227, R234–R236: a commanded emergency trip; the clearing of latches, each named source on its own and one without a
latch left as it is; the end of the overlap; and a parity error of the active matrix, after which the loop sources follow the mask. Neither
command acts before the adopt handshake is
complete: it is answered REFUSED (log entry 142). -/
def Sys2Proof.Says.TripCommands : Prop :=
  ∀ (m : Master) (v : Byte) (mask : BitVec 64) (item : MatrixItem) (s : State),
    let c := s.chip
    let named (i : Nat) : Bool := decide (i < 48) && bit mask.toNat i
    (m ≠ .observer → v = 1#8 → c.adopted = true → c.trip.asserted.getLsbD 47 = false → yields (.emergencyTrip m v) s (fun x =>
      x.trip.asserted = c.trip.asserted ||| BitVec.twoPow 48 47 ∧ x.ans.status = .ok ∧
      ∃ es, x.port = c.port ++ ⟨0x300B, masterCode m, [], false⟩ :: es)) ∧
    (m ≠ .observer → v ≠ 1#8 → yields (.emergencyTrip m v) s (fun x => x.trip = c.trip ∧ x.ans.status = .range)) ∧
    (c.adopted = false → (m ≠ .observer → v = 1#8 → yields (.emergencyTrip m v) s (fun x => x.trip = c.trip ∧ x.ans.status = .refused)) ∧
      (c.actionGuard m 0 = .ok → becomes (.clearLatches m mask) s (c.answer .refused 0xFF))) ∧
    (c.actionGuard m 0 = .ok → c.adopted = true → yields (.clearLatches m mask) s (fun x =>
      x.trip.asserted = c.trip.asserted ∧
      (∀ i, i < 48 → x.trip.latched.getLsbD i =
        (c.trip.latched.getLsbD i && !(named i && !c.trip.asserted.getLsbD i))) ∧
      (let stuck (i : Nat) : Bool := named i && c.trip.asserted.getLsbD i && c.trip.latched.getLsbD i
       ((∀ i, stuck i = false) → x.ans.status = .ok) ∧
       (∀ i, stuck i = true → (∀ j, j < i → stuck j = false) → x.ans.status = .refused ∧ x.ans.detail = i)) ∧
      (∀ q, (x.ch q).state.conducts = true → (c.ch q).state = (x.ch q).state))) ∧
    (yields .overlapEnd s (fun x => x.trip = { c.trip with oldAct := none } ∧
      ∀ q, (x.ch q).state.conducts = true → (c.ch q).state = (x.ch q).state)) ∧
    (yields (.matrixParityError item) s (fun x => item ∈ x.trip.parity ∧ x.rdBit 0x2300 0x0B 4 = true ∧
      x.trip.act = c.trip.act ∧ (∀ i, 16 ≤ i → x.trip.asserted.getLsbD i = c.trip.asserted.getLsbD i) ∧
      (∀ r, r < 16 → x.trip.asserted.getLsbD r =
        (bit x.trip.loopMask r && (c.trip.asserted.getLsbD r || (c.ring r).short || (c.ring r).hbLost))) ∧
      ∀ q, q < 16 → x.heldOff q = true → (x.ch q).state = .tripped))

/-- TripRelease and TripCommands, each as its own text says. -/
def Obligations.TripReleaseAndCommands : Prop :=
  Says.TripRelease ∧ Says.TripCommands

/-! ## Slices at the ring link (R92–R128, R196, R212–R219, R305–R307, R661) -/

/-- R97–R101, R126, R127: each of the seventeen commands that bring a frame to a slice ends in the state with what that slice has done
and sent in place, whatever the frame: one whose header CRC is wrong or that is on its way back goes on as it came, and an addressed one for
a later slice has HOP counted down and POS up, folded back where the slice folds on the side it leaves by. -/
def Obligations.SliceForwarding : Prop :=
  ∀ (r : RingNo) (p : Pos) (f : Frame) (elapsed : Nat) (near : Bool) (conn : Fin 2) (s : State),
    let c := s.chip
    let k := r.val * 64 + p.val
    let y := c.slice k
    let carry (back : Bool) (g : Frame) : Slice :=
      let t := if f.up == back then y.foldB else y.foldA
      { y with out := some (f.reseal { g with fold := g.fold || t }), turned := t }
    ∀ q ∈ ([(1, .sweep r p f), (2, .sample r p f elapsed near), (3, .duty r p f), (4, .ringRead r p f), (5, .ringWrite r p f),
        (6, .ctrlOpen r p f), (6, .ctrlClose r p f), (6, .clearOpened r p f), (6, .unfold r p f), (6, .inject r p f),
        (6, .selftest r p f), (6, .ctrlReset r p f), (6, .balstop r p f), (7, .enum r p f conn), (8, .ringEcho r p f), (9, .assign r p f),
        (f.type, .unsupportedFrame r p f)] : List (Nat × Instr)),
      (∃ z : Slice, becomes q.2 s (c.setSlice k z)) ∧
      (f.hcrcOk = false ∨ f.fold = true → becomes q.2 s (c.setSlice k (carry f.fold f))) ∧
      (f.hcrcOk = true → f.fold = false → f.type = q.1 → 4 ≤ q.1 → q.1 ≠ 7 → f.resp = false → 1 ≤ f.hop → f.hop < 64 →
        becomes q.2 s (c.setSlice k (carry false { f with hop := f.hop - 1, pos := (f.pos + 1) % 256 }))) ∧
      (f.hcrcOk = true → f.fold = false → f.type ≠ q.1 → ¬(f.type = 8 ∧ f.resp = true) →
        becomes q.2 s (c.setSlice k (carry false
          { f with hop := if 1 ≤ f.hop ∧ f.hop < 64 then f.hop - 1 else f.hop, pos := (f.pos + 1) % 256 })))

/-- R99–R101, R120, R121, R124, R125, R128, R149, R196, R661: what an addressed CTRL of the slice's own epoch does, by its operation, and
the response that goes on in the frame's place; OPEN and BALSTOP as broadcasts, which have none; the operations that a slice type
does not have, a foreign epoch and a wrong length. Nothing but that slice changes. -/
def Obligations.SliceControl : Prop :=
  ∀ (r : RingNo) (p : Pos) (f : Frame) (s : State),
    let c := s.chip
    let k := r.val * 64 + p.val
    let y := c.slice k
    let arg := beAt f.payload 1 1
    let came : Prop := f.type = 6 ∧ f.hcrcOk = true ∧ f.fold = false ∧ f.resp = false
    let req (op : Nat) : Prop := came ∧ f.hop = 0 ∧ f.epoch = y.epoch ∧ f.payload.length = 4 ∧ beAt f.payload 0 1 = op
    let cast (op : Nat) : Prop := came ∧ f.hop = 0xFF ∧ f.payload.length = 4 ∧ beAt f.payload 0 1 = op
    let passes (z : Slice) (g : Frame) : Chip :=
      let t := if f.up then z.foldA else z.foldB
      c.setSlice k { z with out := some (f.reseal { g with pos := (f.pos + 1) % 256, fold := t }), turned := t }
    let answers (st : Nat) (z : Slice) : Chip := passes z { f with resp := true, status := st, hop := 0xFF }
    let open_ := { y with c0 := y.c0 && !bit arg 0, c1 := y.c1 && !bit arg 1, close := (y.coilsOff (arg % 4)).close }
    let stop := { y with duty := [], dutyNext := none }
    let all : List Instr := [.ctrlOpen r p f, .ctrlClose r p f, .clearOpened r p f, .unfold r p f, .inject r p f, .selftest r p f,
      .ctrlReset r p f, .balstop r p f]
    (req 1 → becomes (.ctrlOpen r p f) s (if y.kh2 then answers 0 open_ else answers 7 y)) ∧
    (cast 1 → becomes (.ctrlOpen r p f) s (passes (if y.kh2 then open_ else y) f)) ∧
    (req 2 → becomes (.ctrlClose r p f) s (if !y.kh2 then answers 7 y else if y.opened || y.loopBrk then answers 4 y
      else answers 0 { y with close := some ((y.close.getD 0) ||| arg % 4) })) ∧
    (req 3 → becomes (.clearOpened r p f) s (answers 0 { y with opened := false, alarms := putBit y.alarms 0 false })) ∧
    (req 4 → becomes (.unfold r p f) s (if y.lockA && y.lockB && y.peerA && y.peerB
      then answers 0 { y with foldA := false, foldB := false } else answers 4 y)) ∧
    (req 5 → y.kh2 = true ∨ arg ≤ 16 → becomes (.inject r p f) s
      (if y.kh2 then answers 7 y else answers 0 { y with inject := y.inject ||| 2 ^ arg })) ∧
    (req 6 → becomes (.selftest r p f) s
      (if y.selftest then answers 5 y else answers 0 { y with selftest := true, selfTicks := 0 })) ∧
    (req 7 → arg = 0x5A → becomes (.ctrlReset r p f) s (answers 0 (y.restart y.kh2)) ∧
      (y.restart y.kh2).epoch = 0 ∧ (y.restart y.kh2).opened = y.kh2 ∧ (y.restart y.kh2).c0 = false ∧
      (y.restart y.kh2).c1 = false ∧ (y.restart y.kh2).regs = [] ∧ (y.restart y.kh2).serial = y.serial) ∧
    (req 8 → becomes (.balstop r p f) s (if y.kh2 then answers 7 y else answers 0 stop)) ∧
    (cast 8 → becomes (.balstop r p f) s (passes (if y.kh2 then y else stop) f)) ∧
    (came → f.hop = 0 → f.epoch ≠ y.epoch → ∀ q ∈ all,
      becomes q s (passes y { f with resp := true, status := 1, hop := 0xFF, epoch := y.epoch })) ∧
    (came → f.hop = 0 → f.epoch = y.epoch → f.payload.length ≠ 4 → ∀ q ∈ all, becomes q s (answers 6 y))

/-- R99–R101, R103, R107, R108, R112, R115, R116, R118–R120: what each other frame does at the slice that takes it, and what it sends on
in its place. A request of a foreign epoch is answered STALE_ROLE and changes nothing. The eighths of a nanosecond of CUMDLY are
dropped (the model's choice, log entry 119). -/
def Obligations.SliceFrames : Prop :=
  ∀ (r : RingNo) (p : Pos) (f : Frame) (elapsed : Nat) (near : Bool) (conn : Fin 2) (ws : List Nat) (ds : List Nat) (s : State),
    let c := s.chip
    let k := r.val * 64 + p.val
    let y := c.slice k
    let arrives (ty : Nat) : Prop := f.type = ty ∧ f.hcrcOk = true ∧ f.fold = false ∧ f.pos < 64
    let addressed : Prop := f.hop = 0 ∧ f.resp = false
    let passes (z : Slice) (g : Frame) : Chip :=
      let t := if f.up then z.foldA else z.foldB
      c.setSlice k { z with out := some (f.reseal { g with pos := (f.pos + 1) % 256, fold := t }), turned := t }
    let answer (st : Nat) (pl : List Byte) : Frame := { f with resp := true, status := st, hop := 0xFF, payload := pl }
    let back (g : Frame) : Chip := c.setSlice k
      { y with out := some (f.reseal { g with fold := if f.up then y.foldB else y.foldA }), turned := true }
    let mask := beAt f.payload 0 8
    let off := 12 + 48 * popCount mask f.pos
    let n := beAt f.payload 2 1
    let pl := f.payload
    (arrives 1 → f.up = y.half → bit mask f.pos = true → y.slot.length = 44 → y.bursts = [] → beAt pl 9 1 ≠ f.pos →
      becomes (.sweep r p f) s (passes y { f with
        payload := pl.take off ++ (y.slot ++ be 4 (crc32c (be 2 f.seq ++ y.slot)).toNat) ++ pl.drop (off + 48) })) ∧
    (arrives 2 → f.fcrcOk = true → yields (.sample r p f elapsed near) s (fun x =>
      let z := x.slice k
      let corrects := f.up = y.tsrc ∧ ¬(near = true ∧ (if f.up then y.openRecB else y.openRecA) = true)
      let a : Armed := ⟨beAt pl 0 6, f.seq, if f.up == y.half then burstEntries pl f.pos else []⟩
      x = passes z f ∧ z.armA = (if f.up then y.armA else some a) ∧ z.armB = (if f.up then some a else y.armB) ∧
      z.rtime = (if corrects then (beAt pl 6 6 + (if f.up then y.cumB else y.cumA) / 8) % 2 ^ 48 else y.rtime) ∧
      (corrects → bit (beAt pl 12 1) 0 = true → z.tsync = true) ∧ (¬corrects → z.tsync = y.tsync) ∧
      z.regs = y.regs ∧ z.eff = y.eff ∧ z.epoch = y.epoch ∧ z.slot = y.slot)) ∧
    (arrives 2 → f.fcrcOk = false → becomes (.sample r p f elapsed near) s (passes y f)) ∧
    (arrives 3 → y.kh2 = false → f.fcrcOk = true → f.up = y.half → y.opened = false → dutyOf pl f.pos = some ds →
      becomes (.duty r p f) s (passes { y with dutyNext := some (dutyMap ds), dutyAge := 0 } f)) ∧
    (arrives 3 → y.kh2 = true ∨ f.fcrcOk = false ∨ f.up ≠ y.half ∨ y.opened = true ∨ dutyOf pl f.pos = none →
      becomes (.duty r p f) s (passes y f)) ∧
    (arrives 4 → addressed → f.epoch = y.epoch → pl.length = 4 → 1 ≤ n → n ≤ 16 → y.readRegs (beAt pl 0 2) n = .ok ws →
      becomes (.ringRead r p f) s (passes y (answer 0 (pl ++ ws.flatMap (be 4))))) ∧
    (arrives 4 → addressed → f.epoch = y.epoch → pl.length ≠ 4 ∨ n = 0 ∨ 16 < n →
      becomes (.ringRead r p f) s (passes y (answer 6 pl))) ∧
    (arrives 5 → addressed → f.epoch = y.epoch → 1 ≤ n → n ≤ 16 → pl.length = 4 + 4 * n →
      let a := beAt pl 0 2
      let vs := wordsOf (pl.drop 4) n
      let st := y.writesCheck (y.tickpAfter a vs) a vs
      becomes (.ringWrite r p f) s (passes (if st = 0 then y.writeRegs a vs else y) (answer st pl)) ∧
        (y.writeRegs a vs).eff = y.eff) ∧
    (addressed → f.epoch ≠ y.epoch → ∀ q ∈ ([(4, .ringRead r p f), (5, .ringWrite r p f)] : List (Nat × Instr)), arrives q.1 →
        becomes q.2 s (passes y { answer 1 pl with epoch := y.epoch })) ∧
    (arrives 7 → pl.length = 1024 → becomes (.enum r p f conn) s (passes y
      { f with payload := pl.take (16 * f.pos) ++ y.descriptor conn ++ pl.drop (16 * f.pos + 16) })) ∧
    (arrives 8 → addressed → f.epoch = y.epoch → becomes (.ringEcho r p f) s (back (answer (if pl.isEmpty then 0 else 6) pl))) ∧
    (arrives 8 → addressed → f.epoch ≠ y.epoch → becomes (.ringEcho r p f) s (back { answer 1 pl with epoch := y.epoch })) ∧
    (arrives 9 → addressed → pl.length = 24 → beAt pl 0 8 = y.serial.toNat → becomes (.assign r p f) s (passes { y with
        epoch := beAt pl 8 2, posn := beAt pl 10 1, flags := beAt pl 11 1 / 8 * 8, cumA := beAt pl 12 4, cumB := beAt pl 16 4,
        str := beAt pl 22 1, regs := Map.write 0 y.regs 6 (beAt pl 20 2), eff := Map.write 0 y.eff 6 (beAt pl 20 2) } (answer 0 pl))) ∧
    (arrives 9 → addressed → pl.length = 24 → beAt pl 0 8 ≠ y.serial.toNat →
      becomes (.assign r p f) s (passes y { answer 1 pl with epoch := y.epoch })) ∧
    (arrives f.type → addressed → y.supports f.type = false → becomes (.unsupportedFrame r p f) s (passes y (answer 7 pl)))

/-- R92, R109, R110, R114, R120, R123, R125, R126, R139, R215, R216, R218, R219, R661: what happens at a slice without a frame. TSYNC is set
at a loss of lock for its TSRC direction alone (the model's choice, log entry 123) and stands until the slot of an instant that a SAMPLE has
announced has shown it (log entry 122), and the heads see a break by its order on the loop (log
entry 132). -/
def Obligations.SliceEvents : Prop :=
  ∀ (r : RingNo) (p : Pos) (e : Fin 16) (high kh2 rcv up : Bool) (m : Nat) (result : Word) (i : SliceReading)
    (xs : List (BitVec 16)) (s : State),
    let c := s.chip
    let k := r.val * 64 + p.val
    let y := c.slice k
    let goes (q : Instr) (z : Slice) : Prop := becomes q s (c.setSlice k z)
    (y.close = some m → y.kh2 = true → y.opened = false →
      goes (.kh2CoilEnergise r p) { y with c0 := y.c0 || bit m 0, c1 := y.c1 || bit m 1, close := none }) ∧
    (y.close = some m → y.opened = true → goes (.kh2CoilEnergise r p) { y with close := none }) ∧
    (y.selftest = true → 16 ≤ y.selfTicks → goes (.selftestComplete r p result)
      { y with selftest := false, alarms := putBit result.toNat 0 (bit y.alarms 0) }) ∧
    (goes (.openAllBurst r p up)
      (let z := { y with openRecA := y.openRecA || !up, openRecB := y.openRecB || up, openOut := some up,
                         openBack := if up then y.foldA else y.foldB, opened := true }
       if y.kh2 then { z with c0 := false, c1 := false, close := none } else { z with duty := [], dutyNext := none })) ∧
    (y.kh2 = false → 16 ≤ y.dutyAge → goes (.dutyTimeout r p) { y with duty := [], dutyNext := none }) ∧
    (y.lockA = true → goes (.sliceLockLoss r p .a) { y with
      lockA := false, foldA := true, tsync := y.tsync || !y.tsrc, lockCnt := min 65535 (bits y.lockCnt 31 16 + 1) * 65536 + bits y.lockCnt 15 0 }) ∧
    (y.lockB = true → goes (.sliceLockLoss r p .b) { y with
      lockB := false, foldB := true, tsync := y.tsync || y.tsrc, lockCnt := bits y.lockCnt 31 16 * 65536 + min 65535 (bits y.lockCnt 15 0 + 1) }) ∧
    (y.lockA = false → goes (.sliceLockRegain (.slice r p .a)) { y with lockA := true, tsync := y.tsync || !y.tsrc }) ∧
    (y.lockB = false → goes (.sliceLockRegain (.slice r p .b)) { y with lockB := true, tsync := y.tsync || y.tsrc }) ∧
    (yields (.sliceLockRegain (.master r .a)) s (fun x => x.rdBit (0x3000 + r.val) 1 0 = true ∧ x.slices = c.slices)) ∧
    (y.lockA = false → goes (.pairExchange (.slice r p .a)) { y with exchA := !y.exchA }) ∧
    (y.lockB = false → goes (.pairExchange (.slice r p .b)) { y with exchB := !y.exchB }) ∧
    (c.rdBit (0x3000 + r.val) 1 0 = false → becomes (.pairExchange (.master r .a)) s
      (c.setRing r { c.ring r with crossA := !(c.ring r).crossA })) ∧
    (c.rdBit (0x3000 + r.val) 1 1 = false → becomes (.pairExchange (.master r .b)) s
      (c.setRing r { c.ring r with crossB := !(c.ring r).crossB })) ∧
    goes (.idleNotReceivingYou (.slice r p .a) rcv) { y with peerA := rcv, foldA := y.foldA || !rcv } ∧
    goes (.idleNotReceivingYou (.slice r p .b) rcv) { y with peerB := rcv, foldB := y.foldB || !rcv } ∧
    (yields (.idleNotReceivingYou (.master r .b) rcv) s (fun x =>
      x.rdBit (0x3000 + r.val) 1 2 = (rcv && c.rdBit (0x3000 + r.val) 1 1) ∧ (x.ring r).peerB = rcv ∧ x.slices = c.slices)) ∧
    goes (.sliceRestart r p kh2) { Slice.powerUp kh2 y.serial y.ver with
      lockA := y.lockA, lockB := y.lockB, peerA := y.peerA, peerB := y.peerB, exchA := y.exchA, exchB := y.exchB,
      foldA := !(y.lockA && y.peerA), foldB := !(y.lockB && y.peerB) } ∧
    (y.kh2 = false → bit (y.effReg 0x0B) e.val = true → goes (.comparatorTrip r p e high)
      { y with ovt := if high then y.ovt ||| BitVec.twoPow 16 e.val else y.ovt,
               uvt := if high then y.uvt else y.uvt ||| BitVec.twoPow 16 e.val, loopBrk := true }) ∧
    goes (.comparatorRelease r p e) { y with ovt := y.ovt &&& ~~~ BitVec.twoPow 16 e.val, uvt := y.uvt &&& ~~~ BitVec.twoPow 16 e.val } ∧
    (y.ovt = 0 → y.uvt = 0 → goes (.loopRelease r p) { y with loopBrk := false }) ∧
    (c.declaresBroken r p = false → exec (.kh2LocalOpen r p) s = .next s) ∧
    (c.declaresBroken r p = true → y.kh2 = true → y.c0 = true ∨ y.c1 = true → bits (y.effReg 0x26) 15 0 ≠ 0xFFFF →
      goes (.kh2LocalOpen r p)
      { y with c0 := false, c1 := false, close := none, opened := true, alarms := putBit y.alarms 0 true, localOpen := true }) ∧
    (yields (.sliceSample r p i) s (fun x =>
      let z := x.slice k
      z.eff = y.regs ∧ z.duty = y.dutyNext.getD y.duty ∧ z.dutyNext = none ∧ z.armA = none ∧ z.armB = none ∧ z.inject = 0 ∧
      z.tsync = (y.tsync && y.armed.isNone) ∧
      (∀ a, y.armed = some a → z.instant = a.instant ∧ z.seq = a.seq ∧ z.missed = 0) ∧
      (y.armed = none → y.missed < 16 → z.instant = (y.instant + y.effReg 7) % 2 ^ 48 ∧ z.missed = y.missed + 1) ∧
      (y.armed = none → 16 ≤ y.missed → z.instant = y.instant ∧ z.thraw = y.thraw ∧ z.stack = y.stack ∧ z.todo = []) ∧
      (∀ q, q ≠ k → x.slice q = c.slice q) ∧ x = { c with slices := x.slices, fresh := x.fresh })) ∧
    goes (.sliceBurst r p e xs) { y with
      taken := y.taken ++ (y.todo.filter (fun t => t.1 == e.val)).map (fun t => (t.2, y.burstBytes e xs)),
      todo := y.todo.filter (fun t => t.1 != e.val) }

/-- R305–R307: the exchange requests to a KS16 set the response that its next exchange slot carries, and the operations of IDCTL run
until they are done; a KH2 has no module tag. -/
def Sys2Proof.Says.ModuleTag : Prop :=
  ∀ (r : RingNo) (p : Pos) (part3 : Fin 3) (part2 : Fin 2) (nonce : BitVec 256) (ok : Bool) (data : List Byte) (s : State),
    let c := s.chip
    let k := r.val * 64 + p.val
    let y := c.slice k
    let goes (q : Instr) (t : TagUnit) : Prop := becomes q s (c.setSlice k { y with tag := t })
    (y.kh2 = false →
      goes (.ident r p) { y.tag with resp := y.identResp } ∧
      goes (.cert r p part3) { y.tag with
        resp := exchSlot (0x10 + part3.val) 0 (((fit 120 (Config.tagCert y.serial)).drop (40 * part3.val)).take 40) } ∧
      goes (.chal r p nonce) { y.tag with status := 1, op := 3, nonce := be 32 nonce.toNat, resp := exchSlot 0x20 0 [] } ∧
      (y.tag.status = 1 → goes (.sig r p part2) { y.tag with resp := exchSlot (0x21 + part2.val) 0x80 [] }) ∧
      (y.tag.status = 3 → goes (.sig r p part2) { y.tag with resp := exchSlot (0x21 + part2.val) 0x40 [] }) ∧
      (y.tag.status ≠ 1 → y.tag.status ≠ 3 → goes (.sig r p part2) { y.tag with
        resp := exchSlot (0x21 + part2.val) 0 (((fit 64 y.tag.buf).drop (32 * part2.val)).take 32) }) ∧
      (y.tag.resp = [] → goes (.poll r p) { y.tag with resp := exchSlot 0xFF 0x80 [] }) ∧
      (y.tag.status ≠ 1 →
        goes (.loadIdentityRecord r p) { y.tag with status := 1, op := 1 } ∧
        goes (.loadCertificate r p) { y.tag with status := 1, op := 2 } ∧
        goes (.signNonce r p) { y.tag with status := 1, op := 3, nonce := (fit 128 y.tag.buf).take 32 })) ∧
    (y.tag.status = 1 → ok = true → y.tag.op ≠ 2 →
      goes (.idctlOperationDone r p ok data) { y.tag with status := 2, buf := fit 128 data }) ∧
    (y.tag.status = 1 → ok = true → y.tag.op = 2 →
      goes (.idctlOperationDone r p ok data) { y.tag with status := 2, buf := fit 128 (fit 120 (Config.tagCert y.serial)) }) ∧
    (y.tag.status = 1 → ok = false → goes (.idctlOperationDone r p ok data) { y.tag with status := 3 }) ∧
    (y.kh2 = true → ∀ q ∈ ([.ident r p, .cert r p part3, .chal r p nonce, .sig r p part2, .poll r p, .loadIdentityRecord r p,
      .loadCertificate r p, .signNonce r p] : List Instr), becomes q s (c.setSlice k y))

/-! ## Ticks and their scheduler (R42–R83, R443, R446) -/

/-- R33, R42, R45–R47, R419: a tick edge puts the edge at the first multiple of P at least P after the last one, keeps P, takes the
mode request ACTIVE that waits for it, tells the slices of a new period in the tick that ends with a multiple of 4 ms, and leaves the
queue and memory; the new period is taken at that multiple; a broadcast of no kernel changes nothing. -/
def Sys2Proof.Says.TickEdges : Prop :=
  ∀ s : State, s.chip.up = true → 0 < s.chip.clk.p →
    let c := s.chip
    (c.mode ≠ .shutdown → c.power.restart = none → ∃ t, exec .tickEdge s = .next t ∧ t.pending = s.pending ∧ t.mem = s.mem ∧
      t.chip.clk.p = c.clk.p ∧ t.chip.clk.edge % c.periodNs = 0 ∧ c.clk.edge + c.periodNs ≤ t.chip.clk.edge ∧
      t.chip.clk.edge < c.clk.edge + 2 * c.periodNs ∧ t.chip.clk.off = 0 ∧
      t.chip.clk.told = (c.clk.told || (t.chip.clk.newP.isSome && t.chip.nextEdge % 4000000 == 0)) ∧ t.chip.actReq = none ∧
      t.chip.clk.sincePor = c.clk.sincePor + c.clk.p ∧ t.rcd.fifo = s.rcd.fifo ∧ t.rcd.nextSeq = s.rcd.nextSeq) ∧
    (∃ t, exec .kernelBroadcast s = .next t ∧ t.pending = s.pending ∧ t.rcd = s.rcd ∧ t.chip.kernels = [] ∧
      t.chip.od = c.od ∧ (c.kernels = [] → t = s)) ∧
    (∀ p, c.clk.newP = some p → c.clk.told = true → c.clk.edge % 4000000 = 0 → yields .tickPeriodChange s (fun x =>
      x = { c with clk := { c.clk with p := p, newP := none, told := false }, sched := { c.sched with move := x.sched.move }
                   port := c.port ++ [⟨0x603A, c.clk.p * 256 + p, [], false⟩] })) ∧
    (c.clk.newP = none ∨ c.clk.told = false ∨ c.clk.edge % 4000000 ≠ 0 → becomes .tickPeriodChange s c)

/-- R45, R513, R523, R603: a step of section time at first lock takes effect at the edge: the edge moves by the offset, the step counter
and the event precede every other, and no mode, channel or trip source changes. -/
def Sys2Proof.Says.TimeSteps : Prop :=
  ∀ (s : State) (d : Fin 2) (x : Int), s.chip.time.pend = some (d.val, 0) → s.chip.clk.step = some x →
    let c := s.chip
    yields .timeStep s (fun y =>
      y.clk = { c.clk with edge := ofInt 64 ((c.now : Int) + x), off := 0, step := none } ∧ y.time.pend = none ∧
      y.rd 0x2200 0x0D = (c.rd 0x2200 0x0D + 1) % 256 ∧ y.rdBit 0x2100 5 0 = true ∧
      (∃ es, y.port = ⟨0x7003, d.val, le 8 c.now ++ le 8 (ofInt 64 ((c.now : Int) + x)) ++ le 8 (ofInt 64 x), false⟩ ::
        c.port ++ [⟨0x603B, 0, le 8 (ofInt 64 x), false⟩] ++ es) ∧
      y.mode = c.mode ∧ y.chan = c.chan ∧ y.trip = c.trip ∧ y.claims = c.claims)

/-- TickEdges and TimeSteps, each as its own text says. -/
def Obligations.TicksAndTimeSteps : Prop :=
  Says.TickEdges ∧ Says.TimeSteps

/-- R48–R51, R64, R65, R274: the phases of a tick. Each takes the tick to its offset; the copies kept for a stale mark are those of
the tick before, balancing charge aside; a publish overrun leaves SHED's cause for the guard phase; modes, channels, trips and claims stay. -/
def Sys2Proof.Says.TickPhases : Prop :=
  ∀ (s : State) (pd ed : BitVec 64) (placed : Bool), s.chip.up = true →
    let c := s.chip
    let goes (pc : Nat) (x : Chip) : Prop := x.clk = { c.clk with off := max c.clk.off (c.periodNs / 100 * pc) }
    let keeps (x : Chip) : Prop := x.mode = c.mode ∧ x.chan = c.chan ∧ x.trip = c.trip ∧ x.claims = c.claims ∧ x.slices = c.slices
    yields .fastTierStart s (fun x => goes 25 x ∧ keeps x ∧ x.protOld = c.prot ∧
      (c.ticks % max 1 (c.rd 0x2700 6) ≠ 0 → x.fastOld = c.fast ∧ (c.duty = [] → x.elemOld = c.elem))) ∧
    yields (.fastTierStop pd ed) s (fun x => goes 65 x ∧ keeps x ∧ x.pub = x.fastShown ∧ x.pubOld = c.pub ∧ x.slotPub = x.slotData ∧
      x.slotOld = c.slotPub ∧ x.sched.published = false) ∧
    (c.sched.published = false → c.lock.supFault = false → placed = true → yields (.publishDeadline placed) s (fun x =>
      goes 70 x ∧ keeps x ∧ x.sched.published = true ∧ x.sched.overrun = c.sched.overrun ∧ x.pub = c.pub)) ∧
    (c.sched.published = false → c.lock.supFault = false → placed = false → yields (.publishDeadline placed) s (fun x =>
      goes 70 x ∧ keeps x ∧ x.sched.published = true ∧ x.sched.overrun = true ∧ x.rdBit 0x2100 5 5 = true ∧
      (c.port ++ [⟨0x6031, 0, [], false⟩]) <+: x.port)) ∧
    (c.rd 0x2100 3 = 0 ∨ c.sched.calm < c.rd 0x2100 8 → becomes .shedLevelFall s c) ∧
    (0 < c.rd 0x2100 3 → c.rd 0x2100 3 ≤ 6 → c.rd 0x2100 8 ≤ c.sched.calm → yields .shedLevelFall s (fun x =>
      x.rd 0x2100 3 = c.rd 0x2100 3 - 1 ∧ x.rd 0x2100 4 = [1, 1, 1, 2, 4, 8, 16].getD (c.rd 0x2100 3 - 1) 16 ∧
      x.rdBit 0x2100 5 1 = decide (1 < c.rd 0x2100 3) ∧ x.sched.calm = 0 ∧
      x.port = c.port ++ [⟨0x6032, c.rd 0x2100 3 * 256 + (c.rd 0x2100 3 - 1), [], false⟩] ∧
      sameObjs c x [(0x2100, 3), (0x2100, 4), (0x2100, 5)] ∧ keeps x ∧ x.clk = c.clk))

/-- R64, R65, R81, R83: the guard phase fixes the shed level, and what it decided takes effect at the edge: a fawn becomes an admitted slice
with a new role epoch and its ASSIGN, a boundary moves, a vacancy hold ends, a spare lane takes over with a copy of the lane's profiles and
kernel data, the latter from the images
where a word of the copy made for a mismatch is uncorrectable (a free value, log entry 155). -/
def Sys2Proof.Says.SchedulerDecisions : Prop :=
  ∀ (s : State) (r : RingNo) (p : Pos) (missed : List PairId) (k x l cause i z : Nat), s.chip.up = true →
    let c := s.chip
    let b := r.val
    let others (y : Chip) : Prop := y.mode = c.mode ∧ y.chan = c.chan ∧ y.trip = c.trip ∧ y.claims = c.claims ∧ y.slices = c.slices
    (c.sched.overrun = true → c.rd 0x2100 3 < 6 → yields (.guardPhase missed) s (fun y =>
      y.rd 0x2100 3 = c.rd 0x2100 3 + 1 ∧ y.rd 0x2100 4 = [1, 1, 1, 2, 4, 8, 16].getD (c.rd 0x2100 3 + 1) 16 ∧
      y.sched.overrun = false ∧ y.sched.calm = 0 ∧ y.mode = c.mode ∧ y.claims = c.claims ∧
      ⟨0x6032, c.rd 0x2100 3 * 256 + (c.rd 0x2100 3 + 1), [], false⟩ ∈ y.port)) ∧
    (c.sched.overrun = false → yields (.guardPhase missed) s (fun y => y.rd 0x2100 3 = c.rd 0x2100 3 ∧
      y.rd 0x2100 4 = c.rd 0x2100 4 ∧ y.sched.calm = c.sched.calm + 1 ∧ y.mode = c.mode ∧ y.claims = c.claims)) ∧
    (b * 64 + p.val ∈ c.sched.admits → c.herdState b p.val = 1 → yields (.fawnAdmitted r p) s (fun y => others y ∧
      y.herdState b p.val = 2 ∧ y.hT b 2 p.val = nextEpoch (c.hrd (b * 64 + p.val)).epoch ∧ (y.hrd (b * 64 + p.val)).epoch = y.hT b 2 p.val ∧
      (y.hrd (b * 64 + p.val)).serial = c.hT b 0 p.val ∧ Map.read 0 (y.ring b).hold p.val = 0 ∧ b * 64 + p.val ∉ y.sched.admits ∧
      (y.ring b).queue.map Req.type = (c.ring b).queue.map Req.type ++ [9] ∧ p.val ∉ (y.ring b).fawns ∧
      (y.hrd (b * 64 + p.val)).state = 2 ∧ y.port = c.port ++ [⟨0x6036, b * 256 + p.val, [], false⟩])) ∧
    (c.rd 0x2100 0x0B = 0 → becomes (.vacancyHoldExpiry r p) s c) ∧
    (c.rd 0x2100 0x0B ≠ 0 → yields (.vacancyHoldExpiry r p) s (fun y => others y ∧
      y.ring b = { c.ring b with hold := Map.erase p.val (c.ring b).hold } ∧ (∀ j, j ≠ b → y.ring j = c.ring j) ∧ y.port = c.port)) ∧
    (k < 3 → x ≤ 64 → Map.read 0 c.sched.move (b * 4 + k) = x + 1 → (∀ j < k, Map.read 0 c.sched.move (b * 4 + j) = 0) →
      Map.read 0 c.sched.takeover b = 0 → yields (.boundaryMove r) s (fun y => others y ∧ y.laneFirst b (k + 1) = x ∧
        (∀ j < 4, j ≠ k + 1 → y.laneFirst b j = c.laneFirst b j) ∧ Map.read 0 y.sched.move (b * 4 + k) = 0 ∧
        (x ≠ c.laneFirst b (k + 1) → y.rd (0x2120 + b) (0x0D + k) = (c.rd (0x2120 + b) (0x0D + k) + 1) % 65536 ∧
          y.rd (0x2120 + b) (0x0E + k) = (c.rd (0x2120 + b) (0x0E + k) + 1) % 65536) ∧
        y.port = c.port ++ [⟨0x6038, b * 256 + x, [], false⟩])) ∧
    (l < 6 → Map.read 0 c.sched.takeover b = 8 * cause + l → 0 < cause → c.logicalOf b l = some i → c.idleSpare b = some z →
      ∃ y, exec (.spareLaneTakeover r) s = .next { s with
        chip := y, mem := if l < 5 then
            (if cause = 2 ∧ Config.free c.fresh % 2 = 1 then (c.ringKernels b).foldl (fun m j =>
                m.loadData (laneTine b z) (c.kernelData b j) (c.image j)) (s.mem.copyLane (laneTine b l) (laneTine b z))
              else s.mem.copyLane (laneTine b l) (laneTine b z))
          else s.mem } ∧ y.mode = c.mode ∧
        y.claims = c.claims ∧ y.trip = c.trip ∧ y.physOf b i = z ∧ Map.read 0 y.sched.takeover b = 0 ∧
        (l ≠ z → y.rd (0x2A20 + b) (z + 1) = 0) ∧ y.rd 0x2A00 7 = (c.rd 0x2A00 7 + 1) % 2 ^ 32 ∧
        ⟨0xB001, b, le 4 l ++ le 1 cause, false⟩ ∈ y.port)

/-- TickPhases and SchedulerDecisions, each as its own text says. -/
def Obligations.PhasesAndScheduling : Prop :=
  Says.TickPhases ∧ Says.SchedulerDecisions

/-! ## Lockstep pairs and the debug port (R476–R500) -/

/-- R480, R484, R485, R489, R490: a fault of a pair whose comparison is on counts, shows its place, is recorded and stops the pair; a lane
asserts its region's lockstep trip source and the supervisor that of the section. A Tine without a spare is retired when its
injection fails. -/
def Sys2Proof.Says.PairFaults : Prop :=
  ∀ (s : State) (b : Fin 16) (l : Fin 5) (t : TineId) (g : Fin 5) (cy pc : Word) (x y : BitVec 104) (par chk : Bool) (item : Fin 64),
    s.chip.up = true →
    let c := s.chip
    let p : PairId := .tine (.lane b l)
    let stops (z : Chip) : Prop := (z.tine (.lane b l)).stopped = true ∧ (z.tine (.lane b l)).run = false ∧
      z.trip.asserted.getLsbD (37 + b.val / 4) = true ∧ z.rd 0x6000 4 = placeOf (.lane b l) ∧ z.mode = c.mode ∧
      z.claims = c.claims ∧ z.slices = c.slices
    (c.unchecked p = false → yields (.lockstepMismatch p g cy pc x y) s (fun z => stops z ∧
      z.rd 0x6000 2 = (c.rd 0x6000 2 + 1) % 2 ^ 32 ∧ z.rd 0x6000 3 = c.rd 0x6000 3 ∧
      z.rd (0x6040 + b) 2 = (c.rd (0x6040 + b) 2 + 1) % 2 ^ 32 ∧
      z.rd (0x2A20 + b) (0x0B + l) = (c.rd (0x2A20 + b) (0x0B + l) + 1) % 65536 ∧
      ⟨0x6001, placeOf (.lane b l), mismatchDetail g cy pc x y, false⟩ ∈ z.port)) ∧
    (c.unchecked p = false → yields (.checkerFault p par item) s (fun z => stops z ∧
      z.rd 0x6000 3 = (c.rd 0x6000 3 + 1) % 2 ^ 32 ∧ z.rd 0x6000 2 = c.rd 0x6000 2 ∧ pairNo p ∈ z.lock.checker ∧
      ⟨0x6002, placeOf (.lane b l), le 1 (if par then 2 else 1) ++ le 4 item, false⟩ ∈ z.port)) ∧
    (c.unchecked p = true → becomes (.lockstepMismatch p g cy pc x y) s c ∧ becomes (.checkerFault p par item) s c) ∧
    (c.lock.chipOff = false → yields (.supervisorMismatch chk g cy pc x y) s (fun z => z.lock.supFault = true ∧
      z.trip.asserted.getLsbD 41 = true ∧ z.mode = c.mode ∧ z.claims = c.claims ∧
      z.rd 0x6000 (if chk then 3 else 2) = (c.rd 0x6000 (if chk then 3 else 2) + 1) % 2 ^ 32)) ∧
    (t.isLane = false → (c.tine t).retired = false → c.unchecked (.tine t) = false → c.mismatchesIn (.tine t) 86400 < 2 →
      tineNo t ∉ c.lock.checker → yields (.nonspareTineMismatch t false g cy pc x y true) s (fun z =>
        (z.tine t).stopped = true ∧ (z.tine t).retired = false ∧ z.trip = c.trip ∧ z.mode = c.mode ∧
        z.rd 0x6000 2 = (c.rd 0x6000 2 + 1) % 2 ^ 32)) ∧
    (t.isLane = false → (c.tine t).retired = false → c.unchecked (.tine t) = false →
      yields (.nonspareTineMismatch t chk g cy pc x y false) s (fun z =>
        (z.tine t).stopped = true ∧ (z.tine t).retired = true ∧ z.trip = c.trip ∧ z.mode = c.mode ∧ z.rdBit 0x6000 1 2 = true ∧
        ∃ n, ⟨0x6007, placeOf t, le 1 n, false⟩ ∈ z.port))

/-- R443, R487, R489, R554: a replaced pair becomes the idle spare or is retired; the spare supervisor pair takes over at the edge, with a
lease of a tick or less prolonged by a tick. -/
def Sys2Proof.Says.SparePairs : Prop :=
  ∀ (s : State) (b : Fin 16) (l : Fin 5) (pass : Bool),
    let c := s.chip
    let p : PairId := .tine (.lane b l)
    let sup : PairId := .supervisor true
    let keeps (x : Chip) : Prop := x.mode = c.mode ∧ x.chan = c.chan ∧ x.trip = c.trip ∧ x.claims = c.claims ∧ x.slices = c.slices
    (c.rd (0x2A20 + b) (l + 1) = 0 → c.logicalOf b l = none → c.retireCause p pass = 0 → yields (.replacedPairTest p pass) s (fun x =>
      keeps x ∧ x.rd (0x2A20 + b) (l + 1) = (if (c.idleSpare b).isSome then 0 else 1) ∧ x.tine (laneTine b l) = {} ∧
      x.port = c.port ++ [⟨0x6005, placeOf (.lane b l), le 4 (c.mismatchesIn p (86400 * c.rd 0x6000 6)), false⟩])) ∧
    (c.rd (0x2A20 + b) (l + 1) = 0 → c.logicalOf b l = none → c.retireCause p pass ≠ 0 → yields (.replacedPairTest p pass) s (fun x =>
      keeps x ∧ x.rd (0x2A20 + b) (l + 1) = 2 ∧ x.tines = c.tines ∧
      x.port = c.port ++ [⟨0x6006, placeOf (.lane b l), le 1 (c.retireCause p pass), false⟩])) ∧
    (c.rd (0x2A20 + b) (l + 1) ≠ 0 → becomes (.replacedPairTest p pass) s c) ∧
    (c.rd 0x2A00 3 = 1 → yields (.replacedPairTest sup pass) s (fun x => keeps x ∧
      x.rd 0x2A00 3 = (if c.retireCause sup pass = 0 then 0 else 2) ∧ sameObjs c x [(0x2A00, 3)])) ∧
    (c.lock.supFault = true → c.up = true → c.rd 0x2A00 3 = 0 → yields .supervisorTakeover s (fun x =>
      x.rd 0x2A00 3 = 1 ∧ x.lock.supFault = false ∧ x.trip.asserted.getLsbD 41 = false ∧ x.mode = c.mode ∧
      x.claims = c.claims.map (fun y => if y.left ≤ c.clk.p then { y with left := y.left + c.clk.p } else y) ∧
      ⟨0xB002, 0, le 1 2, false⟩ ∈ x.port)) ∧
    (c.lock.supFault = false → becomes .supervisorTakeover s c)

/-- R491–R498: an unlock request is answered by a challenge; a response is checked, and either opens the session of its scope, leaving
comparison behind for a scope wider than a pair, or is refused and counted. -/
def Obligations.DebugUnlock : Prop :=
  ∀ (s : State) (m : Master) (w : Word) (r : List Byte),
    let c := s.chip
    let scope := bits w.toNat 31 24
    let st := c.rd 0x6050 1
    let same (x : Chip) : Prop := x.mode = c.mode ∧ x.trip = c.trip ∧ x.chan = c.chan ∧ x.slices = c.slices
    (m = .observer → becomes (.debugUnlockRequest m w) s { c with ans := ⟨.role, 0, []⟩ }) ∧
    (m ≠ .observer → st ≠ 6 → c.debugOpen = false → bits w.toNat 23 16 = 0 → c.targetOk scope (bits w.toNat 15 0) = true →
      yields (.debugUnlockRequest m w) s (fun x => same x ∧ x.ans = ⟨.ok, 0, []⟩ ∧ x.rd 0x6050 1 = 1 ∧ x.rd 0x6050 2 = w.toNat ∧
        x.lock.request = w.toNat ∧ x.lock.used = false ∧ x.lock.nonce.length = 32 ∧ x.lock.issued = c.ms ∧
        x.rdDom 0x6050 3 = x.lock.nonce ++ le 8 (c.rd 0x1020 0) ++ le 4 w.toNat ++ le 4 (c.rd 0x6050 6 + 1) ∧
        sameObjs c x [(0x6050, 1), (0x6050, 2)] ∧
        x.port = c.port ++ [⟨0x6008, masterCode m, le 1 scope ++ le 2 (bits w.toNat 15 0) ++ le 4 0, false⟩])) ∧
    (m ≠ .observer → st ≠ 6 → c.debugOpen = true → yields (.debugUnlockRequest m w) s (fun x => x.ans.status = .busy ∧
      x.od = c.od ∧ x.lock = c.lock)) ∧
    (m ≠ .observer → st ≠ 6 → c.debugOpen = false → c.targetOk scope (bits w.toNat 15 0) = false →
      yields (.debugUnlockRequest m w) s (fun x => x.ans.status = .range ∧ x.od = c.od ∧ x.lock = c.lock)) ∧
    (m ≠ .observer → r.length ≠ 184 → becomes (.debugResponse m r) s { c with ans := ⟨.type, 0, []⟩ }) ∧
    (m ≠ .observer → r.length = 184 → st ≠ 6 → yields (.debugResponse m r) s (fun x =>
      let why := (c.answer .ok).unlockRefusal r
      let sc := bits c.lock.request 31 24
      let word := bits c.lock.request 15 0
      x.lock.used = true ∧
      if why = 0 then
        x.rd 0x6050 1 = sc + 1 ∧ x.rd 0x6050 6 = (c.rd 0x6050 6 + 1) % 2 ^ 32 ∧ x.rd 0x6050 8 = 0 ∧ x.lock.target = word ∧
        x.ans.status = .ok ∧ ⟨0x6008, masterCode m, le 1 sc ++ le 2 word ++ le 4 (beAt r 41 4), false⟩ ∈ x.port ∧
        (sc = 1 → same x ∧ x.adopt = c.adopt) ∧
        (sc ≠ 1 → x.adopt.safeHold = true ∧ x.rdBit 0x6000 1 0 = true ∧
          ∀ b ∈ (scopeBlocks sc word).getD [], b < 16 → x.rd (0x6040 + b) 3 = 0x3F)
      else
        same x ∧ x.ans = ⟨.refused, why, []⟩ ∧ x.rd 0x6050 8 = min 255 (c.rd 0x6050 8 + 1) ∧
        x.rd 0x6050 1 = (if c.debugOpen then st else if 3 ≤ c.rd 0x6050 8 + 1 then 6 else 0) ∧
        x.port = c.port ++ [⟨0x6009, masterCode m, le 1 why, false⟩] ∧ sameObjs c x [(0x6050, 1), (0x6050, 8)])) ∧
    (m ≠ .observer → r.length = 184 → st = 6 → becomes (.debugResponse m r) s { c with ans := ⟨.ok, 0, []⟩ }) ∧
    (st = 6 → yields .debugLockoutEnd s (fun x => same x ∧ x.rd 0x6050 1 = 0 ∧ x.rd 0x6050 8 = 0 ∧
      sameObjs c x [(0x6050, 1), (0x6050, 8)])) ∧
    (st ≠ 6 → becomes .debugLockoutEnd s c)

/-- R492, R493, R499: what a debugger does to a Tine its session reaches, the hand-over of a lane to a single-pair session, which waits for
an idle spare, and the ways a
session ends. -/
def Obligations.DebugSession : Prop :=
  ∀ (s : State) (m : Master) (v : Byte) (t : TineId) (i : Fin 32) (k : Fin 16) (lo hi : F32) (w : Word) (b l z n : Nat),
    let c := s.chip
    let x := c.tine t
    let goes (q : Instr) (y : Tine) : Prop := becomes q s (c.setTine t y)
    let ends (cause : Nat) (y : Chip) : Prop := y.rd 0x6050 1 = 0 ∧ y.lock.waiting = false ∧ y.lock.deferred = [] ∧
      (∀ u, (y.tine u).halted = false ∧ (y.tine u).once = false) ∧ y.mode = c.mode ∧ y.trip = c.trip ∧ y.claims = c.claims ∧
      (∀ a ∈ List.range 16, y.rd (0x6040 + a) 3 = c.rd (0x6040 + a) 3) ∧ y.lock.chipOff = c.lock.chipOff ∧
      y.port = c.port ++ [⟨0x600A, 0, le 1 cause ++ le 4 ((c.ms - c.lock.since) / 1000), false⟩]
    (c.reaches t = true →
      goes (.debuggerAction t .halt) { x with halted := true, once := false } ∧
      goes (.debuggerAction t .breakpoint) { x with halted := true, once := false } ∧
      goes (.debuggerAction t .resume) { x with halted := false, once := false } ∧
      goes (.debuggerAction t .singleStep) { x with once := x.halted } ∧
      yields (.debuggerAction t (.writeG i w)) s (fun y => (y.tine t).job.gr i.val = (if i.val = 0 then 0 else w) ∧
        (∀ j, j < 32 → j ≠ i.val → (y.tine t).job.gr j = x.job.gr j) ∧ ∀ u, tineNo u ≠ tineNo t → y.tine u = c.tine u) ∧
      yields (.debuggerAction t (.writeV k lo hi)) s (fun y => (y.tine t).job.vr false k.val = lo ∧ (y.tine t).job.vr true k.val = hi)) ∧
    (c.reaches t = false → becomes (.debuggerAction t .halt) s c) ∧
    (m ≠ .observer → v = 1 → c.debugOpen = true → yields (.debugLock m v) s (fun y => ends 1 y ∧ y.ans.status = .ok)) ∧
    (m ≠ .observer → v ≠ 1 → yields (.debugLock m v) s (fun y => y.ans.status = .range ∧ y.od = c.od)) ∧
    (c.debugOpen = true → yields .jtagTestReset s (ends 2) ∧ yields .debugInactivity s (ends 4)) ∧
    (c.debugOpen = false → becomes .jtagTestReset s c ∧ becomes .debugInactivity s c) ∧
    (c.lock.waiting = true → targetLane c.lock.target = some (b, l) → c.logicalOf b l = some n → c.idleSpare b = none →
      exec .singlePairHandover s = .next s) ∧
    (c.lock.waiting = true → targetLane c.lock.target = some (b, l) → c.logicalOf b l = some n → c.idleSpare b = some z → l ≠ z →
      ∃ y, exec .singlePairHandover s = .next { s with chip := y, mem := s.mem.copyLane (laneTine b l) (laneTine b z) } ∧
        y.lock.waiting = false ∧ y.physOf b n = z ∧ y.rd (0x2A20 + b) (l + 1) = 3 ∧ y.rd (0x2A20 + b) (z + 1) = 0 ∧
        y.rd (0x2120 + b) (0x0D + n) = (c.rd (0x2120 + b) (0x0D + n) + 1) % 65536 ∧ y.mode = c.mode ∧ y.port = c.port)

/-! ## Ring controllers and populations (R102–R170) -/

/-- R26, R36, R56, R102, R105, R121, R122, R129, R130, R406: what a ring controller sends in a tick: SWEEP, SAMPLE and DUTY on each port and
then requests in queue order, while their window lasts and tags are free; a CTRL CLOSE not under the SAFE-HOLD latch. After a stop of the
sweep program only what was queued before it and CTRL OPEN leave. -/
def Obligations.RingSends : Prop :=
  ∀ (r : RingNo) (q : Req) (s : State),
    let c := s.chip
    let g := c.ring r
    let runs : Prop := c.up = true ∧ c.mode ≠ .shutdown
    let leaves := c.mayLeave r ((19 + q.payload.length) * 80)
    let only (x : Chip) : Prop := x = { c with rings := x.rings, fresh := x.fresh, suspects := x.suspects } ∧
      (∀ i, i ≠ r.val → x.ring i = c.ring i) ∧ (x.ring r).got = g.got ∧ (x.ring r).brk = g.brk ∧ (x.ring r).resps = g.resps
    (runs → g.limited = false → c.sweeps r = true → g.queue = [] → g.held = [] → yields (.sweepSend r) s (fun x => only x ∧
      x.suspects = c.suspects ∧ (x.ring r).queue = [] ∧ (x.ring r).txs = g.txs ∧
      (∃ sw sa du, (x.ring r).sentA = g.sentA ++ [sw, sa, du] ∧ sw.type = 1 ∧ sa.type = 2 ∧ du.type = 3 ∧
        (∀ f ∈ [sw, sa, du], f.up = false ∧ f.hop = 0xFF ∧ f.pos = 0 ∧ f.resp = false ∧ f.hcrcOk = true ∧ f.fcrcOk = true) ∧
        sw.seq = c.ticks % 65536 ∧ sa.seq = (c.ticks + 1) % 65536 ∧ beAt sa.payload 0 6 = c.nextEdge % 2 ^ 48 ∧
        beAt sa.payload 6 6 = (c.clk.edge + 10000 + frameNs sw) % 2 ^ 48 ∧ bit (beAt sa.payload 12 1) 0 = c.clk.step.isSome) ∧
      (g.stopB = true → (x.ring r).sentB = g.sentB) ∧
      (g.stopB = false → ∃ fs : List Frame, (x.ring r).sentB = g.sentB ++ fs ∧ fs.map Frame.type = [1, 2, 3] ∧ ∀ f ∈ fs, f.up = true))) ∧
    (runs → g.queue = [q] → g.held = [] → leaves = true → q.isClose = false ∨ c.adopt.safeHold = false → q.pos < 64 →
      g.txs.length < 16 → g.nextTag < 65536 → (∀ t ∈ g.txs, q.wraps = true → t.req.pos ≠ q.pos) → (g.limited = true → q.isOpen = true ∨ q.late = false) →
      yields (.sweepSend r) s (fun x => only x ∧ (x.ring r).queue = [] ∧ (x.ring r).txs = g.txs ++ [⟨g.nextTag, q, 0⟩] ∧
        (x.ring r).nextTag = (g.nextTag + 1) % 65536 ∧
        ∃ f ∈ (x.ring r).sentA ++ (x.ring r).sentB, f.type = q.type ∧ f.seq = g.nextTag ∧ f.epoch = q.epoch ∧ f.payload = q.payload ∧
          f.up = (q.viaB || c.reqUp r q.pos) ∧ f.hop = countOf (c.nOf r) f.up q.pos)) ∧
    (runs → g.queue = [q] → g.held = [] → leaves = true → q.isClose = true → c.adopt.safeHold = true →
      (g.limited = true → q.late = false) →
      yields (.sweepSend r) s (fun x => only x ∧ (x.ring r).queue = [] ∧ (x.ring r).txs = g.txs)) ∧
    (runs → g.limited = true → g.queue = [q] → g.held = [] → leaves = false ∨ q.isOpen = false ∧ q.late = true →
      becomes (.sweepSend r) s c) ∧
    (runs → g.limited = true → g.queue = [] → g.held = [] → becomes (.sweepSend r) s c) ∧
    (¬ runs → becomes (.sweepSend r) s c) ∧
    (c.powered = true → bit c.trip.rings r.val = true → yields (.openAllRepeat r) s (fun x => x.rdBit (0x3000 + r.val) 1 4 = true ∧
      x.rd (0x3000 + r.val) 8 = (c.rd (0x3000 + r.val) 8 + 1) % 2 ^ 32 ∧ x.rings = c.rings ∧ x.slices = c.slices ∧ x.port = c.port ∧
      sameObjs c x [(0x3000 + r.val, 1), (0x3000 + r.val, 8), (0x611E + r.val, 5)])) ∧
    (c.powered = false ∨ bit c.trip.rings r.val = false → becomes (.openAllRepeat r) s c)

/-- R104, R130, R131, R149–R151, R157–R159: a frame that returns: its slots are checked, and kept once a tick, that of an exchange among
them; a response releases its tag and goes to its issuer, is sent again after STALE_ROLE, or has its position enumerated again; a frame
that stops, be it inside its header, or comes back folded shows a break. -/
def Obligations.RingReceives : Prop :=
  ∀ (r : RingNo) (side : Side) (f : Frame) (j : Nat) (t : Tx) (complete : Bool) (s : State),
    let c := s.chip
    let g := c.ring r
    let m := 0x3000 + r.val
    let p := countOf (c.nOf r) f.up j
    let k := r.val * 64 + p
    let b := (f.payload.drop 12).take 44
    let pb := if side = .b then 1 else 0
    let sweep : Prop := f.type = 1 ∧ f.hcrcOk = true ∧ f.fcrcOk = true ∧ f.fold = false ∧ beAt f.payload 0 8 = 2 ^ j ∧
      j < c.nOf r ∧ c.nOf r ≤ 64 ∧ beAt f.payload 8 1 = 0 ∧ f.payload.length = 60 ∧ g.recA = [] ∧ g.recB = []
    let crcOk : Prop := crc32c (be 2 f.seq ++ b) = BitVec.ofNat 32 (beAt f.payload 56 4)
    let back (st : Nat) : Prop := f.type ≠ 1 ∧ f.hcrcOk = true ∧ f.fcrcOk = true ∧ f.fold = false ∧ f.resp = true ∧ f.status = st ∧
      g.txs = [t] ∧ t.tag = f.seq ∧ g.queue = [] ∧ g.held = []
    let again : Req := { t.req with epoch := c.hT r 2 t.req.pos, again := true }
    let seg : Prop := f.type = 1 ∧ f.hcrcOk = true ∧ f.fcrcOk = true ∧ f.fold = false ∧ beAt f.payload 0 8 = 0 ∧
      beAt f.payload 8 1 = 0 ∧ beAt f.payload 9 1 = j ∧ j < c.nOf r ∧ c.nOf r ≤ 64 ∧ f.payload.length = 60 ∧ g.recA = [] ∧ g.recB = []
    let asked : List Byte := exchSlot (g.exchOf p).asked 0 (if (g.exchOf p).asked = 0x0020 then fit 32 (g.exchOf p).nonce else [])
    let same (x : Chip) : Prop := x.trip = c.trip ∧ x.slices = c.slices ∧ x.mode = c.mode ∧ x.chan = c.chan ∧ x.claims = c.claims
    (f.hcrcOk = false → complete = true → yields (.frameReturn r side f complete) s (fun x => same x ∧ x.rings = c.rings ∧
      x.rd m (3 + pb) = (c.rd m (3 + pb) + 1) % 2 ^ 32 ∧ sameObjs c x [(m, 3 + pb)] ∧
      x.port = c.port ++ [⟨0x1001, r.val, le 4 pb ++ le 1 f.type, false⟩])) ∧
    (sweep → crcOk → c.slotMatches r p (slotStatus b) = true → c.herdType r p = 1 → g.got.getLsbD p = false →
      yields (.frameReturn r side f true) s (fun x => same x ∧ (Map.read {} x.slotData k).bytes = b ∧
        (Map.read {} x.slotData k).seq = f.seq ∧ (Map.read {} x.slotData k).age = 0 ∧ (x.ring r).got.getLsbD p = true ∧
        Map.read 0 (x.ring r).missing p = 0 ∧ (∀ i, i ≠ k → Map.read {} x.slotData i = Map.read {} c.slotData i))) ∧
    (sweep → crcOk → c.slotMatches r p (slotStatus b) = true → g.got.getLsbD p = true →
      yields (.frameReturn r side f true) s (fun x => same x ∧ x.slotData = c.slotData ∧ x.od = c.od ∧ x.port = c.port)) ∧
    (sweep → crcOk → c.slotMatches r p (slotStatus b) = false → yields (.frameReturn r side f true) s (fun x => same x ∧
      x.slotData = c.slotData ∧ x.rd m 0x0A = (c.rd m 0x0A + 1) % 2 ^ 32 ∧ sameObjs c x [(m, 0x0A)])) ∧
    (sweep → ¬ crcOk → yields (.frameReturn r side f true) s (fun x => same x ∧ x.slotData = c.slotData ∧
      x.rd m 7 = (c.rd m 7 + 1) % 2 ^ 32 ∧ sameObjs c x [(m, 7)] ∧
      x.port = c.port ++ [⟨0x1003, r.val, le 1 (if f.up then 1 else 0) ++ le 4 0, false⟩])) ∧
    (back 0 → yields (.frameReturn r side f true) s (fun x => same x ∧ (x.ring r).txs = [] ∧ (f.seq, 0, f.payload) ∈ (x.ring r).resps ∧
      x.od = c.od ∧ x.port = c.port)) ∧
    (back f.status → 2 ≤ f.status → yields (.frameReturn r side f true) s (fun x => same x ∧ (x.ring r).txs = [] ∧
      (f.seq, f.status, f.payload) ∈ (x.ring r).resps ∧
      x.port = c.port ++ [⟨0x1009, r.val, le 1 t.req.pos ++ le 1 f.type ++ le 1 f.status, false⟩])) ∧
    (back 1 → c.hT r 2 t.req.pos ≠ t.req.epoch → c.hT r 0 t.req.pos = t.req.serial → t.req.again = false → t.req.pos < 64 →
      t.req.isClose = false ∨ c.adopt.safeHold = false →
      yields (.frameReturn r side f true) s (fun x => same x ∧ x.rd m 0x0A = (c.rd m 0x0A + 1) % 2 ^ 32 ∧
        ((x.ring r).queue = [again] ∧ (x.ring r).txs = [] ∨ (x.ring r).queue = [] ∧ (x.ring r).txs = [⟨g.nextTag, again, 0⟩]))) ∧
    (back 1 → c.hT r 2 t.req.pos = t.req.epoch ∨ t.req.again = true → c.hT r 0 t.req.pos = t.req.serial → f.epoch ≠ 0 →
      f.epoch ≠ c.hT r 2 t.req.pos → c.herdState r t.req.pos = 1 ∨ c.herdState r t.req.pos = 2 →
      yields (.frameReturn r side f true) s (fun x => same x ∧ (x.ring r).txs = [] ∧ bit (x.ring r).reenum t.req.pos = true ∧
        (f.seq, 1, f.payload) ∈ (x.ring r).resps ∧ x.rd m 0x0A = (c.rd m 0x0A + 1) % 2 ^ 32)) ∧
    (seg → crcOk → b ≠ asked → bit (beAt b 2 1) 7 = false → beAt b 3 1 ≤ 40 → yields (.frameReturn r side f true) s (fun x => same x ∧
      x.od = c.od ∧ x.port = c.port ∧
      ((x.ring r).exchOf p).got = Map.insert (beAt b 0 2) ((b.drop 4).take (beAt b 3 1)) (g.exchOf p).got)) ∧
    (f.hcrcOk = false ∨ f.type ≠ 1 ∧ f.fold = false → g.brk = none → g.brkSeen = false → yields (.frameReturn r side f false) s (fun x =>
      same x ∧ x.port = c.port ∧ (x.ring r).brkSeen = true ∧ (x.ring r).brk = none ∧
      x.rd (0x3107 + 16 * r.val) 7 = (c.rd (0x3107 + 16 * r.val) 7 + 1) % 2 ^ 32 ∧ sameObjs c x [(0x3107 + 16 * r.val, 7)])) ∧
    (f.type = 3 → f.hcrcOk = true → f.fcrcOk = true → f.fold = true → f.resp = false → f.up = false → side = .a → g.brk = none →
      c.ringState r = 2 → c.nOf r ≤ 64 → yields (.frameReturn r side f true) s (fun x => same x ∧ x.ringState r = 3 ∧
        (x.ring r).brk = some (f.pos, c.nOf r - f.pos) ∧ x.rdBit m 1 3 = true ∧ ∃ d, ⟨0x1016, r.val, d, false⟩ ∈ x.port)) ∧
    (∀ tg : BitVec 16, g.txs = [t] → t.tag = tg.toNat → c.rd m 9 ≤ t.age → g.queue = [] → g.held = [] →
      yields (.transactionTimeout r tg) s (fun x => same x ∧
      (x.ring r).txs = [] ∧ x.od = c.od ∧ x.port = c.port ++ [⟨0x1004, r.val, le 2 tg.toNat ++ le 1 t.req.pos, false⟩])) ∧
    (∀ tg : BitVec 16, g.txs = [t] → t.tag = tg.toNat → t.age < c.rd m 9 → becomes (.transactionTimeout r tg) s c) ∧
    (c.ringState r = 2 → 0 < c.nOf r → c.nOf r ≤ 64 → g.brk = none → yields (.masterPortLockLoss r side) s (fun x =>
      (x.ring r).brk = some (if side = .a then (0, c.nOf r) else (c.nOf r, 0)) ∧ x.ringState r = 3 ∧
      x.rdBit m 1 pb = false ∧ (g.brkSeen = false → x.rd (0x3107 + 16 * r.val) 7 = (c.rd (0x3107 + 16 * r.val) 7 + 1) % 2 ^ 32) ∧ same x ∧
      ⟨0x1006, r.val, le 4 pb, false⟩ ∈ x.port ∧ (∃ d, ⟨0x1016, r.val, d, false⟩ ∈ x.port)))

/-- R29, R137–R147, R462: rediscovery takes a configured ring out of admission, one of a region still held at once; discovery ends by
entering every slice found, a known one as
admitted, or in a ring that is not admitted. -/
def Obligations.Discovery : Prop :=
  ∀ (r : RingNo) (m : Master) (v : Byte) (fa fb : List Found) (pm : BitVec 4) (la lb : Nat) (ms : BitVec 16) (step : Fin 8) (s : State),
    let c := s.chip
    let o := 0x3107 + 16 * r.val
    let ea := fa.map Found.enum
    let eb := fb.map Found.enum
    let want := c.rd o 3
    let intact : Prop := (c.ring r).disc = true ∧ (c.ring r).unfit = false ∧ c.pickPortx r ea eb = false ∧ (∀ e ∈ ea ++ eb, bit e.flags 1 = false)
    let known (p : Nat) (e : EnumRec) : Prop :=
      let h := c.hrd (r.val * 64 + p)
      h.state ≠ 0 ∧ h.serial = e.serial ∧ h.type = e.kind
    let same (x : Chip) : Prop := x.trip = c.trip ∧ x.mode = c.mode ∧ x.chan = c.chan ∧ ∀ q, q ≠ r.val → x.ring q = c.ring q
    (c.actionGuard m 2 = .ok → v = 1 → c.configured r = true → c.rd (0x6064 + r.val / 4) 1 = 2 → yields (.rediscover m r v) s (fun x =>
      same x ∧ x.ringState r = 5 ∧ (x.ring r).done = true ∧ x.ans.status = .ok)) ∧
    (c.actionGuard m 2 = .ok → v = 1 → c.configured r = true → c.rd (0x6064 + r.val / 4) 1 ≠ 2 →
      yields (.rediscover m r v) s (fun x => same x ∧ x.ringState r = 1 ∧
      (x.ring r).disc = true ∧ (x.ring r).queue = [] ∧ x.ans.status = .ok ∧
      ∀ p < 64, x.herdState r p = if c.herdState r p = 0 then 0 else 1)) ∧
    (c.actionGuard m 2 = .ok → v ≠ 1 → becomes (.rediscover m r v) s { c with ans := ⟨.range, 0, []⟩ }) ∧
    (c.actionGuard m 2 ≠ .ok → becomes (.rediscover m r v) s { c with ans := ⟨c.actionGuard m 2, 0, []⟩ }) ∧
    ((c.ring r).disc = true → yields (.discoveryTimeout r step) s (fun x => same x ∧ x.ringState r = 5 ∧ (x.ring r).disc = false ∧
      (∀ p < 64, x.herdState r p ≠ 2) ∧ x.port = c.port ++ [⟨0x1011, r.val, le 4 step.val, false⟩])) ∧
    ((c.ring r).disc = false → becomes (.discoveryTimeout r step) s c ∧ becomes (.discoveryComplete r fa fb pm la lb ms) s c) ∧
    ((c.ring r).disc = true → (c.ring r).unfit = true → yields (.discoveryComplete r fa fb pm la lb ms) s (fun x => same x ∧
      x.ringState r = 5 ∧ (x.ring r).disc = false ∧ (∀ p < 64, x.herdState r p ≠ 2) ∧ x.port = c.port)) ∧
    (intact → ea.map EnumRec.serial ≠ (eb.map EnumRec.serial).reverse → yields (.discoveryComplete r fa fb pm la lb ms) s (fun x => same x ∧
      x.ringState r = 5 ∧ (x.ring r).disc = false ∧ (∀ p < 64, x.herdState r p ≠ 2) ∧ ∃ d, ⟨0x101E, r.val, d, false⟩ ∈ x.port)) ∧
    (intact → ea.map EnumRec.serial = (eb.map EnumRec.serial).reverse → (∀ p ∈ kh2At ea, p = 0 ∨ p = 32) → fa.length ≤ 64 →
      want = 0 ∨ want = fa.length → yields (.discoveryComplete r fa fb pm la lb ms) s (fun x => same x ∧ x.ringState r = 2 ∧
        x.nOf r = fa.length ∧ (x.ring r).disc = false ∧ (x.ring r).brk = none ∧ x.rd o 0x0F = ms.toNat ∧
        (∀ p (e : EnumRec), ea[p]? = some e → x.hT r 0 p = e.serial ∧ (known p e → x.herdState r p = 2) ∧
          (¬ known p e → x.herdState r p = 1 ∧ p ∈ (x.ring r).fawns ∨ x.herdState r p = 5)) ∧
        (∀ p (e : Found), fa[p]? = some e → e.tripsA ≠ [] → x.hT r 3 p = cumDly la e.tripsA) ∧
        (∀ p < 64, fa.length ≤ p → x.herdState r p = 0) ∧
        ⟨0x1010, r.val, le 1 fa.length ++ le 2 ms.toNat, false⟩ ∈ x.port))

/-- R83, R148, R152–R155, R157, R166, R169, R170: what a population scan, a missing slice, a position without a path and the end of a break
change. -/
def Obligations.RingPopulation : Prop :=
  ∀ (r : RingNo) (p : Pos) (h : Found) (fa fb ff : List Found) (a b : Nat) (s : State),
    let c := s.chip
    let n := c.nOf r
    let g := c.ring r
    let e := h.enum
    let ep := nextEpoch (c.hrd (r.val * 64)).epoch
    let cut := (c.cutOff r).filter (fun q => bit g.cut2 q)
    let fresh (q : Nat) : Prop := c.herdState r q = 1 ∨ c.herdState r q = 2 ∨ c.herdState r q = 3
    let far (q : Nat) (f : Found) : Prop := n ≤ q + b ∧ f.enum.serial ≠ c.hT r 0 q
    let same (x : Chip) : Prop := x.trip = c.trip ∧ x.mode = c.mode ∧ x.chan = c.chan ∧ ∀ q, q ≠ r.val → x.ring q = c.ring q
    (c.sweeps r = false → becomes (.populationScan r fa fb) s c) ∧
    (c.sweeps r = true → fa.length ≤ n → fb.length ≤ n →
      (∀ (q : Nat) (x : Found), fa[q]? = some x → c.hT r 0 q = x.enum.serial ∧ c.herdState r q ≠ 3 ∧ x.enum.epochZero = false ∧
        bit (c.hT r 1 q) 3 = bit x.enum.flags 1) →
      (∀ (q : Nat) (x : Found), fb[q]? = some x → c.hT r 0 (n - 1 - q) = x.enum.serial ∧ c.herdState r (n - 1 - q) ≠ 3 ∧
        x.enum.epochZero = false ∧ bit (c.hT r 1 (n - 1 - q)) 3 = bit x.enum.flags 1) → g.reenum = 0 →
      yields (.populationScan r fa fb) s (fun x => x = { c with od := x.od } ∧ sameObjs c x [])) ∧
    (c.sweeps r = true → n < fa.length → yields (.populationScan r fa fb) s (fun x => same x ∧ (x.ring r).stopB = true ∧
      (x.ring r).brk = some (n, 0) ∧ x.nOf r = n)) ∧
    (c.sweeps r = true → 0 < n → n ≤ 64 → c.hT r 0 0 ≠ e.serial → c.herdState r 0 ≠ 5 → e.kind = 2 → c.herdType r 0 = 0 ∨ c.herdType r 0 = 2 →
      yields (.populationScan r [h] []) s (fun x => same x ∧ x.hT r 0 0 = e.serial ∧ x.herdState r 0 = 1 ∧ 0 ∈ (x.ring r).fawns ∧
        x.hT r 2 0 = ep ∧ ⟨0x1014, r.val, le 1 0 ++ le 8 e.serial ++ le 1 e.kind, false⟩ ∈ x.port)) ∧
    (c.sweeps r = true → 0 < n → n ≤ 64 → c.hT r 0 0 ≠ e.serial → c.herdState r 0 ≠ 5 → e.kind = 2 → c.herdType r 0 = 1 →
      yields (.populationScan r [h] []) s (fun x => same x ∧ x.herdState r 0 = 5 ∧ 0 ∉ (x.ring r).fawns ∧
        ⟨0x101C, r.val, le 1 0 ++ le 8 e.serial ++ le 1 1, false⟩ ∈ x.port)) ∧
    (c.sweeps r = true → 0 < n → n ≤ 64 → c.hT r 0 0 = e.serial → e.epochZero = true → c.herdState r 0 = 2 →
      yields (.populationScan r [h] []) s (fun x => same x ∧ x.herdState r 0 = 2 ∧ x.hT r 2 0 = ep ∧
        ⟨0x1015, r.val, le 1 0 ++ le 2 ep, false⟩ ∈ x.port)) ∧
    (c.herdState r p = 2 → c.hasPath r p = true → c.rd (0x3107 + 16 * r.val) 0x0D ≤ Map.read 0 g.missing p.val →
      yields (.sliceLost r p) s (fun x => same x ∧ x.herdState r p = 3 ∧ (x.hrd (r.val * 64 + p.val)).state = 3 ∧
        Map.read 0 (x.ring r).hold p.val = c.herdType r p +
          16 * (c.rd (0x3010 + r.val) (0x41 + p.val) % 2 ^ (if c.herdType r p = 2 then 2 else 16)) ∧
        x.port = c.port ++ [⟨0x101D, r.val, le 1 p.val ++ le 8 (c.hT r 0 p), false⟩])) ∧
    (c.herdState r p ≠ 2 ∨ c.hasPath r p = false ∨ Map.read 0 g.missing p.val < c.rd (0x3107 + 16 * r.val) 0x0D →
      becomes (.sliceLost r p) s c) ∧
    (cut ≠ [] → c.ringState r ≠ 4 ∨ (∃ q ∈ cut, fresh q) → n ≤ 64 → yields (.ringFault r) s (fun x => same x ∧ x.ring r = g ∧
      x.ringState r = 4 ∧ (∀ q < 64, (q ∈ cut ∧ fresh q → x.herdState r q = 4) ∧ (¬ (q ∈ cut ∧ fresh q) → x.herdState r q = c.herdState r q)) ∧
      x.port = c.port ++ [⟨0x1019, r.val, le 8 (maskOf 64 (fun q => cut.contains q)), false⟩])) ∧
    (cut = [] ∨ c.ringState r = 4 ∧ (∀ q ∈ cut, ¬ fresh q) → becomes (.ringFault r) s c) ∧
    (g.brk = some (a, b) → 0 < a → g.stopB = false → yields (.unfoldProbe r) s (fun x => x = { c with rings := x.rings } ∧ same x ∧
      x.ring r = { g with unfoldOk := false, queue := g.queue ++ [c.mkReq r (a - 1) 6 [4, 0, 0, 0]] })) ∧
    (g.brk = some (a, b) → a = 0 ∨ g.stopB = true → becomes (.unfoldProbe r) s (c.setRing r { g with unfoldOk := false })) ∧
    (g.brk = none → becomes (.unfoldProbe r) s c ∧ becomes (.ringRestored r ff) s c) ∧
    (g.brk = some (a, b) → 0 < a → g.unfoldOk = false → becomes (.ringRestored r ff) s c) ∧
    (g.brk = some (a, b) → a = 0 ∨ g.unfoldOk = true → ff.length ≠ n → yields (.ringRestored r ff) s (fun x => same x ∧
      x.rings = c.rings ∧ x.od = c.od ∧ ∃ d, x.port = c.port ++ [⟨0x101E, r.val, d, false⟩])) ∧
    (g.brk = some (a, b) → ff.length = n → (∃ (q : Nat) (f : Found), ff[q]? = some f ∧ far q f) → becomes (.ringRestored r ff) s c) ∧
    (g.brk = some (a, b) → a = 0 ∨ g.unfoldOk = true → ff.length = n → n ≤ 64 →
      (∀ (q : Nat) (f : Found), ff[q]? = some f → f.enum.serial = c.hT r 0 q) →
      yields (.ringRestored r ff) s (fun x => same x ∧ (x.ring r).brk = none ∧ (x.ring r).stopB = false ∧ x.ringState r = 2 ∧
        x.rd (0x3107 + 16 * r.val) 0x0A = 0 ∧
        (∀ q < n, x.isUp r q = decide (32 ≤ q) ∧ (c.herdState r q ≠ 4 → x.herdState r q = c.herdState r q) ∧
          (c.herdState r q = 4 → (q ∈ g.fawns → x.herdState r q = 1) ∧
            (q ∉ g.fawns → (c.hrd (r.val * 64 + q)).state = 2 → x.herdState r q = 2))) ∧
        ⟨0x101A, r.val, le 4 g.brkTicks, false⟩ ∈ x.port))

/-! ## Measurement (R172–R206) -/

/-- R184–R194, R583: what the sample instant, the insulation monitors, in turn where the buses are connected, and the front end's tests
store and mark. -/
def Obligations.SectionFrontEnd : Prop :=
  ∀ (f : FrontEnd) (busB : Bool) (v : Nat) (shifts : List Int) (s : State),
    let c := s.chip
    let b := if busB then 1 else 0
    let code (x lim : Int) : Nat := if x > lim then 0x7FFFFFFF else if x < -lim then 0x80000001 else ofInt 32 x
    let same (x : Chip) : Prop := x.mode = c.mode ∧ x.clk = c.clk ∧ x.claims = c.claims ∧ x.slices = c.slices ∧ x.rings = c.rings
    let lim (v : Nat) : Nat := if v < 10 then 0 else if v > 50000 then 0xFFFFFFFF else v
    let alarm := c.rd 0x3300 (0x34 + b)
    yields (.sampleInstant f) s (fun x => same x ∧ x.trip = c.trip ∧
      (∀ i < 2, x.rd 0x3300 (1 + i) = code (f.shunt.getD i 0) 75000000 ∧ x.rd 0x3300 (3 + i) = code (f.hall.getD i 0) 4000000) ∧
      (bits (c.rd 0x3300 0x15) 3 0 < 4 → x.rd 0x3300 9 = x.rd 0x3300 (5 + bits (c.rd 0x3300 0x15) 3 0))) ∧
    yields (.sampleInstant f) s (fun x => x.rd 0x6020 1 = ofInt 16 (satInt 16 f.cdTemp) ∧ x.rd 0x6020 2 = ofInt 16 (satInt 16 f.pdTemp) ∧
      (∀ i < 5, x.rd 0x6020 (3 + i) = min 65535 (f.supply.getD i 0)) ∧
      (∀ k < 16, x.rd (0x2410 + k) 0x0C = f.outMa.getD k 0 % 2 ^ 32 ∧ (x.ch k).state = (c.ch k).state ∧ (x.ch k).cmd = (c.ch k).cmd) ∧
      (∀ g < 4, x.rd (0x2404 + g) 1 = min 65535 (f.groupMv.getD g 0)) ∧ x.front.bursts = c.front.burstsNew) ∧
    (10 ≤ c.front.disagree → c.front.disSaid = false → yields .sourceDisagreement s (fun x => same x ∧ x.trip = c.trip ∧
      x.rdBit 0x3300 0x63 5 = true ∧ x.front = { c.front with disSaid := true } ∧
      x.port = c.port ++ [⟨0x2006, 0, le 4 (c.rd 0x3300 9) ++ le 4 (c.rd 0x3300 0x0A), false⟩])) ∧
    (c.front.disagree < 10 ∨ c.front.disSaid = true → becomes .sourceDisagreement s c) ∧
    yields (.hvDividerTest shifts) s (fun x => same x ∧ x.trip = c.trip ∧ x.front.hvTest = c.ticks + 1 ∧
      ∀ i < 8, (shifts.getD i 0 < 2000 → x.rd 0x3300 (0x18 + i) = 0x80000000 ∧ x.rdBit 0x3300 0x63 (8 + i) = true) ∧
        (2000 ≤ shifts.getD i 0 → x.rdBit 0x3300 0x63 (8 + i) = false)) ∧
    (c.imHighZ b = true → ∀ y, becomes (.insulationResult busB y) s c) ∧
    (c.imHighZ b = false → yields (.insulationResult busB none) s (fun x => same x ∧ x.trip = c.trip ∧ x.rdBit 0x3300 0x63 4 = true ∧
      Map.read 0 x.front.invalid b = Map.read 0 c.front.invalid b + 1 ∧ x.rd 0x3300 (0x30 + b) = c.rd 0x3300 (0x30 + b) ∧
      x.port = c.port ++ (if Map.read 0 c.front.invalid b = 2 then [⟨0x200A, b, le 4 3, false⟩] else []) ∧
      x.front.imB = (if c.rd 0x3300 0x37 = 1 then !c.front.imB else c.front.imB))) ∧
    (c.imHighZ b = false → yields (.insulationResult busB (some v)) s (fun x => same x ∧
      x.front.imB = (if c.rd 0x3300 0x37 = 1 then !c.front.imB else c.front.imB) ∧ x.rd 0x3300 (0x30 + b) = lim v ∧
      Map.read 0 x.front.invalid b = 0 ∧ Map.read 0 x.front.below b = (if lim v < alarm then Map.read 0 c.front.below b + 1 else 0))) ∧
    (c.imHighZ b = false → lim v < alarm → 1 ≤ Map.read 0 c.front.below b → c.rdBit 0x3300 0x63 (6 + b) = false →
      yields (.insulationResult busB (some v)) s (fun x => x.rdBit 0x3300 0x63 (6 + b) = true ∧
        x.trip.asserted.getLsbD (32 + b) = true ∧ ∃ d, ⟨0x2009, b, d, false⟩ ∈ x.port)) ∧
    (c.imHighZ b = false → 11 * alarm ≤ 10 * lim v → 1 ≤ Map.read 0 c.front.above b → c.rdBit 0x3300 0x63 (6 + b) = true →
      yields (.insulationResult busB (some v)) s (fun x => x.rdBit 0x3300 0x63 (6 + b) = false ∧
        x.trip.asserted.getLsbD (32 + b) = false))

/-- R178, R195–R206: the observation that makes a slice suspect, the tests of its sense taps, and the rows of R202 that classify a tap, an
element or a channel. -/
def Obligations.SenseChannels : Prop :=
  ∀ (r : RingNo) (p : Pos) (upper : Bool) (item : Fin 64) (diff : Int) (sum : Nat) (s : State),
    let c := s.chip
    let k := r.val * 64 + p.val
    let u := c.sus k
    let w := c.faultWord r p
    let m := 0x3010 + r.val
    let rec_ := Map.read {} c.slotData k
    let taps := bitsSet 17 u.taps
    let shift (t : Nat) : Nat := (tapShift rec_.prev rec_.bytes t).getD 0
    let same (x : Chip) : Prop := x.mode = c.mode ∧ x.trip = c.trip ∧ x.chan = c.chan ∧ x.slotData = c.slotData ∧ x.slices = c.slices ∧
      ∀ i, i ≠ k → x.sus i = c.sus i
    let tested : Prop := bit w 17 = true ∧ u.taps ≠ 0 ∧ u.taps &&& u.inj = u.taps ∧ c.freshSlot r p = true ∧ rec_.injFresh = true ∧
      stackDiff rec_ u.stack = some (diff, sum) ∧
      ∀ t ∈ taps, (tapShift rec_.prev rec_.bytes t).isSome = true
    let consistent : Prop := diff.natAbs ≤ c.rd m 0x27
    let ends (v : Nat) (x : Chip) : Prop := same x ∧ x.faultWord r p = putBit v 17 false ∧ (x.sus k).obs = 0 ∧ (x.sus k).taps = 0 ∧
      x.rings = c.rings
    (yields (.filterSettled r upper) s (fun x => same x ∧ x.od = c.od ∧ x.rings = c.rings ∧
      Map.read 0 x.settling (r.val * 2 + if upper then 1 else 0) = 0)) ∧
    (u.obs ≠ 0 → c.rd m 0x29 ≤ u.count → bit w 17 = false → yields (.sliceSuspect r p) s (fun x => same x ∧
      x.faultWord r p = putBit w 17 true ∧ (x.sus k).taps = obsTaps u.obs ∧ (x.sus k).tries = 0 ∧ (x.sus k).obs = u.obs ∧
      (x.ring r).queue.map Req.type = (c.ring r).queue.map Req.type ++ 4 :: (bitsSet 17 (obsTaps u.obs)).map (fun _ => 6) ∧
      x.port = c.port)) ∧
    (u.obs = 0 ∨ u.count < c.rd m 0x29 ∨ bit w 17 = true → becomes (.sliceSuspect r p) s c) ∧
    (bit w 17 = false ∨ u.taps &&& u.inj = 0 → becomes (.tapClassification r p) s c) ∧
    (bit w 17 = true → u.taps &&& u.inj ≠ 0 → c.freshSlot r p = false ∨ rec_.injFresh = false ∨ u.taps &&& u.inj ≠ u.taps → u.tries < 2 →
      yields (.tapClassification r p) s (fun x => same x ∧
      (x.sus k).tries = u.tries + 1 ∧ (x.sus k).taps = u.taps ∧ x.od = c.od ∧ x.port = c.port)) ∧
    (bit w 17 = true → u.taps &&& u.inj ≠ 0 → c.freshSlot r p = false ∨ rec_.injFresh = false ∨ u.taps &&& u.inj ≠ u.taps → 2 ≤ u.tries →
      yields (.tapClassification r p) s (fun x => same x ∧
      (x.sus k).taps = 0 ∧ x.od = c.od ∧ x.port = c.port ++ [⟨0x2005, r.val, le 1 p.val ++ le 1 (taps.headD 0) ++ le 4 (u.tries + 1), false⟩])) ∧
    (tested → consistent → 1 ≤ u.obs → u.obs ≤ 16 → c.rd m 0x28 < shift u.obs →
      yields (.tapClassification r p) s (fun x => ends (putBit w u.obs true) x ∧ ∃ d, x.port = c.port ++ [⟨0x2001, r.val, d, false⟩])) ∧
    (tested → consistent → 1 ≤ u.obs → u.obs ≤ 16 → shift u.obs ≤ c.rd m 0x28 → yields (.tapClassification r p) s (fun x =>
      ends (putBit (putBit w (31 + u.obs) true) (32 + u.obs) true) x ∧
      ∃ d d', x.port = c.port ++ [⟨0x2003, r.val, d, false⟩, ⟨0x2003, r.val, d', false⟩])) ∧
    (tested → consistent → 17 ≤ u.obs → u.obs ≤ 32 → shift (u.obs - 17) ≤ c.rd m 0x28 → shift (u.obs - 16) ≤ c.rd m 0x28 →
      yields (.tapClassification r p) s (fun x => ends (putBit w (15 + u.obs) true) x ∧
        ∃ d, x.port = c.port ++ [⟨0x2003, r.val, d, false⟩])) ∧
    (tested → ¬ consistent → 18 ≤ u.obs → u.obs ≤ 31 → yields (.tapClassification r p) s (fun x =>
      same x ∧ bit (x.faultWord r p) 17 = false ∧ (x.sus k).obs = 0 ∧ (x.sus k).taps = 0 ∧ x.rings = c.rings ∧
      (∀ e < 16, bit (x.faultWord r p) (48 + e) =
        (bit w (48 + e) || 17 + e == u.obs || (c.deviations r rec_.prev w (fun _ => false)).getD e 0 != 0)) ∧
      x.port = c.port ++ [⟨0x2004, r.val, le 1 p.val ++ le 4 sum ++ le 4 u.stack, false⟩])) ∧
    (bit w item.val = true → 32 ≤ item.val → item.val < 48 → c.rd m 0x29 ≤ Map.read 0 u.absent item.val →
      yields (.classificationClear r p item) s (fun x => same x ∧ x.faultWord r p = putBit w item.val false ∧ x.port = c.port ∧
        Map.read 0 (x.sus k).absent item.val = 0)) ∧
    (bit w item.val = true → item.val ≤ 16 → c.rd m 0x29 ≤ Map.read 0 u.absent item.val → Map.read 0 u.shift item.val ≠ 0 →
      Map.read 0 u.shift item.val ≤ c.rd m 0x28 + 1 → yields (.classificationClear r p item) s (fun x => same x ∧
        x.faultWord r p = putBit w item.val false ∧ x.port = c.port ++ [⟨0x2002, r.val, le 1 p.val ++ le 1 item.val, false⟩])) ∧
    (bit w item.val = false → becomes (.classificationClear r p item) s c)

/-! ## Estimation and learning (R246, R255, R266, R271, R277–R300, R308) -/

/-- R246, R255, R266, R271: the flags of an element that end in time, the release of the reserves, and the values of a profile that come into
force at PROFILE_APPLY. -/
def Obligations.EstimationFlags : Prop :=
  ∀ (e : ElemNo) (n : Nat) (m : Master) (v : Byte) (pr : Fin 8) (k val : Nat) (s : State),
    let c := s.chip
    let b := c.fastRec e
    let cs := consOf b
    let same (x : Chip) : Prop := x.mode = c.mode ∧ x.trip = c.trip ∧ x.chan = c.chan ∧ x.slices = c.slices ∧ x.elem = c.elem ∧
      ∀ g, g ≠ e.val → x.fastRec g = c.fastRec g
    let d := f32Abs (fSub (recF b 32) (coulombSoc b (c.rd (0x2840 + n) 3)))
    let half := fMul (f32OfFrac 1 2) (c.profF 0x2800 4 10000)
    (b.length = 128 → bit cs 14 = true → yields (.initExpiry e) s (fun x => same x ∧ x.od = c.od ∧ x.port = c.port ∧
      consOf (x.fastRec e) = putBit (putBit cs 14 false) 0 (!bit cs 11 && !bit cs 12 && (c.el e).sinceGate == 16) ∧
      ∀ i, i ≠ 18 → i ≠ 19 → (x.fastRec e)[i]? = b[i]?)) ∧
    (bit cs 14 = false → becomes (.initExpiry e) s c) ∧
    (b.length = 128 → bit cs 11 = true → c.strOf e = some n → (c.es n).cancelled = false → yields (.divergencePersists e) s (fun x => same x ∧
      bit (consOf (x.fastRec e)) 12 = true ∧ bit (consOf (x.fastRec e)) 11 = false ∧ x.rdBit (0x2840 + n) 0x0E 3 = true ∧
      x.rdBit 0x2800 1 3 = true ∧ bit (x.rd (0x2920 + n) 6) 2 = true ∧
      (c.rdBit (0x2840 + n) 0x0E 3 = false → ∃ t, ⟨0x4004, n, t, false⟩ ∈ x.port))) ∧
    (b = [] ∨ bit cs 11 = false → becomes (.divergencePersists e) s c) ∧
    (b.length = 128 → bit cs 12 = true → c.strOf e = some n → yields (.disagreeClear e) s (fun x => same x ∧
      if f32Lt d half then bit (consOf (x.fastRec e)) 12 = false else x = c)) ∧
    (bit cs 12 = false → becomes (.disagreeClear e) s c) ∧
    (c.actionGuard m 1 = .ok → v.toNat ≤ 3 → yields (.reserveRelease m v) s (fun x => same x ∧ x.od = c.od ∧ x.ans.status = .ok ∧
      x.release = some (v.toNat, masterCode m))) ∧
    (c.actionGuard m 1 = .ok → 3 < v.toNat → becomes (.reserveRelease m v) s { c with ans := ⟨.range, 0, []⟩ }) ∧
    (c.actionGuard m 1 ≠ .ok → becomes (.reserveRelease m v) s { c with ans := ⟨c.actionGuard m 1, 0, []⟩ }) ∧
    (c.rd 0x2800 0x0C ≠ 0 → c.rd 0x2800 3 ≠ 0 → yields .releaseExpiry s (fun x => same x ∧ x.rd 0x2800 3 = 0 ∧
      x.rdBit 0x2800 1 4 = false ∧ sameObjs c x [(0x2800, 1), (0x2800, 3)] ∧ x.port = c.port ++ [⟨0x400A, 0, le 1 0, false⟩])) ∧
    (c.rd 0x2800 0x0C = 0 ∨ c.rd 0x2800 3 = 0 → becomes .releaseExpiry s c) ∧
    (c.profPend = [(k, val)] → c.profPendDom = [] → k / 256 = 0x2810 + pr.val → k % 256 ≠ 0x11 → ∃ t, exec (.profileApply pr) s = .next t ∧
      t.pending = s.pending ∧ t.rcd = s.rcd ∧ t.chip.rd (k / 256) (k % 256) = val ∧ t.chip.profPend = [] ∧ t.chip.mode = c.mode ∧
      t.chip.rd (0x2810 + pr.val) 0x11 = (crc32c (t.chip.profBytes (0x2810 + pr.val))).toNat ∧
      ∃ dt, t.chip.port = c.port ++ [⟨0x400E, pr.val, dt, false⟩])

/-- R277–R281, R286–R290: the rest states of a string, its rest requests and the flags of its learning. -/
def Obligations.RestPoints : Prop :=
  ∀ (n : StringNo) (m : Master) (v : Byte) (s : State),
    let c := s.chip
    let i := 0x2920 + n.val
    let st := c.rd i 1
    let quiet := (c.es n).quietMs
    let es := c.elemsOf n
    let age := c.restAge n
    let same (x : Chip) : Prop := x.mode = c.mode ∧ x.trip = c.trip ∧ x.chan = c.chan ∧ x.slices = c.slices ∧ x.rings = c.rings
    (st = 1 → (c.rd 0x2900 3 - c.rd 0x2900 4) * 1000 ≤ quiet → yields (.restChecking n) s (fun x => same x ∧ x.rd i 1 = 2 ∧
      sameObjs c x [(i, 1)] ∧ x.port = c.port ∧ (∀ g ∈ es, (x.el g).ref = leAt (c.fastRec g) 20 2))) ∧
    (st ≠ 1 ∨ quiet < (c.rd 0x2900 3 - c.rd 0x2900 4) * 1000 → becomes (.restChecking n) s c) ∧
    (st ≠ 2 → becomes (.restCheck n) s c) ∧
    (st = 2 → c.rd 0x2900 3 * 1000 ≤ quiet → (∀ g ∈ es, c.contributes g = true ∧ c.relaxation g ≤ c.rd 0x2900 5 ∧
        (c.el g).tHi - (c.el g).tLo ≤ (c.rd 0x2900 6 : Int)) → yields (.restCheck n) s (fun x => same x ∧ x.rd i 1 = 3 ∧
      x.rd i 3 = (c.rd i 3 + 1) % 65536 ∧ x.rd i 4 = c.optime ∧ x.rd i 5 = 0 ∧ x.rd i 0x0C = 0 ∧
      (x.es n).restId = c.lastRest n % 65535 + 1 ∧ (x.es n).sinceRest = some c.optime ∧
      ∃ d, ⟨0x4010, n.val, d, false⟩ ∈ x.port)) ∧
    (st = 2 → quiet < c.rd 0x2900 3 * 1000 → yields (.restCheck n) s (fun x => same x ∧ x.od = c.od ∧ x.port = c.port ∧
      ∀ g ∈ es, (x.el g).ref = leAt (c.fastRec g) 20 2)) ∧
    yields (.restRequestInterval n) s (fun x => same x ∧ x.rd i 5 = min 65535 (age / 86400) ∧
      (c.rd 0x2900 0x0A * 86400 ≤ age → (c.es n).sinceRest.isSome = true → (c.es n).cancelled = false → bit (x.rd i 6) 0 = true ∧
        (bit (c.rd i 6) 0 = false → ∃ d, x.port = c.port ++ [⟨0x4014, n.val, d, false⟩])) ∧
      (age < c.rd 0x2900 0x0A * 86400 ∨ (c.es n).sinceRest = none ∨ (c.es n).cancelled = true →
        sameObjs c x [(i, 5)] ∧ x.port = c.port)) ∧
    (c.actionGuard m 1 = .ok → v = 1 → c.rd i 6 ≠ 0 → yields (.cancelRestRequest m n v) s (fun x => same x ∧ x.rd i 6 = 0 ∧
      (x.es n).cancelled = true ∧ x.ans.status = .ok ∧
      x.port = c.port ++ [⟨0x4014, n.val, zeros 11, false⟩, ⟨0x4015, n.val, le 1 2 ++ le 1 (masterCode m), false⟩])) ∧
    (c.actionGuard m 1 = .ok → v ≠ 1 → becomes (.cancelRestRequest m n v) s { c with ans := ⟨.range, 0, []⟩ }) ∧
    (c.actionGuard m 1 ≠ .ok → becomes (.cancelRestRequest m n v) s { c with ans := ⟨c.actionGuard m 1, 0, []⟩ }) ∧
    (c.rdBit i 0x0C 0 = false → (c.es n).sinceRest.isSome = true → c.rd 0x2900 9 * 86400 < age →
      yields (.learningSuspended n) s (fun x => same x ∧ x.rdBit i 0x0C 0 = true ∧
        ((c.es n).cancelled = false → bit (x.rd i 6) 3 = true) ∧
        ⟨0x4016, n.val, le 4 age, false⟩ ∈ x.port)) ∧
    (c.rdBit i 0x0C 0 = true ∨ (c.es n).sinceRest = none ∨ age ≤ c.rd 0x2900 9 * 86400 → becomes (.learningSuspended n) s c) ∧
    (c.rdBit i 0x0C 1 = false → (c.es n).sinceRest.isSome = true → c.rd 0x2900 0x0B * 86400 ≤ age →
      yields (.unrefreshed n) s (fun x => same x ∧ x.rdBit i 0x0C 1 = true ∧ x.rd i 5 = min 65535 (age / 86400) ∧
        ⟨0x4017, n.val, le 2 (min 65535 (age / 86400)), false⟩ ∈ x.port)) ∧
    (c.rdBit i 0x0C 1 = true ∨ (c.es n).sinceRest = none ∨ age < c.rd 0x2900 0x0B * 86400 → becomes (.unrefreshed n) s c)

/-- R58, R65, R282, R285, R291, R295, R296, R299, R429, R430: a slow job works on the cached record of its element, with its CRC, while its
page
is granted to it. A job whose page is not cached or being written (cause 1), not within the cap (2) or granted to another job (3) is
deferred, and asks for a page that it lacks. At shed level 1 and above none runs. -/
def Obligations.SlowJobs : Prop :=
  ∀ (e : ElemNo) (page : Fin 4096) (n h r : Nat) (pg : Page) (s : State),
    let c := s.chip
    let b := c.slowRec e
    let runs : Prop := c.rd 0x2100 3 = 0
    let same (x : Chip) : Prop := x.mode = c.mode ∧ x.trip = c.trip ∧ x.chan = c.chan ∧ x.slices = c.slices ∧ x.rings = c.rings ∧
      x.fast = c.fast
    let held (m : Nat) : Prop := c.page? m = some pg ∧ pg.recs.length = 4 ∧ (∀ y ∈ pg.recs, y.length = 1024) ∧ c.grantRefusal [m] = 0
    let why := c.grantRefusal [e.val / 4]
    let deferred (x : Chip) : Prop := same x ∧ (why = 1 → e.val / 4 ∈ x.pager.wanted) ∧ (why = 2 → x.rdBit 0x2110 0x0A 1 = true) ∧
      x.rd 0x2110 5 = (c.rd 0x2110 5 + 1) % 2 ^ 32 ∧
      x.pager.cache = c.pager.cache ∧ x.pager.slow = c.pager.slow ∧ x.port = c.port ++ [⟨0x6051, e.val / 1024, le 1 why, false⟩]
    let written (x : Chip) : Prop := same x ∧ (x.page? (e.val / 4)).any (fun y => !y.grant) = true ∧ slowCrcOk (x.slowRec e) = true ∧
      leAt (x.slowRec e) 0 4 = (leAt b 0 4 + 1) % 2 ^ 32
    (1 ≤ c.rd 0x2100 3 → becomes (.capacityLearning e) s c ∧ becomes (.dailyResistance e) s c ∧
      becomes (.resistanceHistoryAppend e) s c ∧ becomes (.hourlyJob page) s c ∧ becomes (.impedanceJob e) s c) ∧
    (c.cached e = false → why = 1) ∧
    (c.page? (e.val / 4) = some pg → (pg.st = .writing → why = 1) ∧ (pg.st = .clean ∨ pg.st = .soft ∨ pg.st = .dirty → pg.grant = true → why = 3)) ∧
    (runs → why ≠ 0 → c.strOf e = some n → c.headOf n = some (r, h) → yields (.capacityLearning e) s deferred ∧
      yields (.impedanceJob e) s deferred ∧ yields (.dailyResistance e) s deferred ∧
      yields (.resistanceHistoryAppend e) s deferred) ∧
    (c.strOf e = none → becomes (.capacityLearning e) s c ∧ becomes (.impedanceJob e) s c ∧ becomes (.dailyResistance e) s c) ∧
    (runs → c.cached (4 * page.val) = false → yields (.hourlyJob page) s (fun x => same x ∧ page.val ∈ x.pager.wanted ∧
      x.rd 0x2110 5 = (c.rd 0x2110 5 + 1) % 2 ^ 32)) ∧
    (runs → held page → c.strOf (4 * page.val) = some n → c.fastRec (4 * page.val) ≠ [] → yields (.hourlyJob page) s (fun x => same x ∧
      let y := x.slowRec (4 * page.val)
      slowCrcOk y = true ∧ leAt y 8 4 = c.optime % 2 ^ 32 ∧ leAt y 12 2 = leAt (c.fastRec (4 * page.val)) 6 2 ∧ bit (leAt y 6 2) 0 = true ∧
        (x.el (4 * page.val)).rsN = 0 ∧ x.port = c.port)) ∧
    (runs → held (e.val / 4) → c.strOf e = some n → leAt b 328 4 ≠ 0 → yields (.dailyResistance e) s (fun x => written x ∧
      recF (x.slowRec e) 320 = fDiv (recF b 324) (fInt (Int.ofNat (leAt b 328 4))) ∧ leAt (x.slowRec e) 328 4 = 0 ∧
      (x.el e).dayN = (c.el e).dayN + 1)) ∧
    (runs → held (e.val / 4) → (c.el e).dayN ≠ 0 → yields (.resistanceHistoryAppend e) s (fun x => written x ∧ (x.el e).dayN = 0 ∧
      x.port = c.port)) ∧
    (runs → held (e.val / 4) → (c.el e).dayN = 0 → yields (.resistanceHistoryAppend e) s (fun x => same x ∧ x.slowRec e = b ∧
      x.elem = c.elem)) ∧
    (runs → held (e.val / 4) → c.strOf e = some n → yields (.capacityLearning e) s (fun x => same x ∧
      (x.newQ = c.newQ ∨ written x ∧ x.newQ = Map.insert e.val (recF (x.slowRec e) 32) c.newQ ∧
        ∃ d, ⟨0x4012, e.val / 1024, d, false⟩ ∈ x.port))) ∧
    (runs → held (e.val / 4) → c.strOf e = some n → c.headOf n = some (r, h) → yields (.impedanceJob e) s (fun x => same x ∧ x.port = c.port ∧
      (x.slowRec e = b ∨ written x) ∧ (c.rippleEligible (e.val / 1024) (e.val / 16 % 64) (e.val % 16) h = false → x.slowRec e = b)))

/-- R302–R309: the identity check of a slice by the first row of the table that applies. -/
def Sys2Proof.Says.IdentityChecks : Prop :=
  ∀ (r : RingNo) (p : Pos) (i : IdentObs) (b : List Byte) (s : State),
    let c := s.chip
    let g0 := r.val * 1024 + p.val * 16
    let stored := ((posElems r p).map c.slowRec).find? (fun y => !idBlank y)
    let o := 0x2960 + r.val
    let m := c.rd o 1
    let k := 0x41 + p.val
    let mine : Prop := m ≠ 0 ∧ c.herdType r p = 1 ∧ (c.herdState r p = 1 ∨ c.herdState r p = 2)
    let same (x : Chip) : Prop := x.mode = c.mode ∧ x.trip = c.trip ∧ x.chan = c.chan ∧ x.slices = c.slices ∧ x.fast = c.fast
    let fails (cause : Nat) (x : Chip) : Prop := same x ∧ x.rd o k = 5 ∧ x.rdBit 0x2900 1 4 = true ∧
      ⟨0x401A, r.val, le 1 p.val ++ le 1 cause, false⟩ ∈ x.port ∧
      (p.val ∈ (c.ring r).fawns → x.herdState r p = 5 ∧ p.val ∉ (x.ring r).fawns) ∧
      (p.val ∉ (c.ring r).fawns → x.herdState r p = c.herdState r p)
    (¬ mine → becomes (.identityCheck r p i) s c) ∧
    (mine → bit m 1 = true → i.answered = false → yields (.identityCheck r p i) s (fails 3)) ∧
    (mine → bit m 1 = true → i.answered = true → i.cert.length ≠ 120 → yields (.identityCheck r p i) s (fails 1)) ∧
    (mine → bit m 0 = true → bit m 1 = false → c.rd o 2 = 1 → c.thermTakeable r p = false → yields (.identityCheck r p i) s (fun x =>
      same x ∧ x.rd o k = 1 ∧ x.herdState r p = c.herdState r p ∧ x.port = c.port)) ∧
    (mine → bit m 0 = true → bit m 1 = false → c.rd o 2 ≠ 1 → stored = none → yields (.identityCheck r p i) s (fun x =>
        same x ∧ x.rd o k = 2 ∧ x.herdState r p = c.herdState r p ∧ x.port = c.port)) ∧
    (mine → bit m 0 = true → bit m 1 = false → c.rd o 2 ≠ 1 → stored = some b → c.idMatches r i false false b = true →
      yields (.identityCheck r p i) s (fun x =>
        same x ∧ x.rd o k = 2 ∧ x.herdState r p = c.herdState r p ∧ x.port = c.port ∧
        ((∀ e < 16, (c.slowRec (g0 + e)).length = 1024) → ∀ e < 16, idBlank (c.slowRec (g0 + e)) = false →
          ((x.slowRec (g0 + e)).drop 896).take 8 = ((c.slowRec (g0 + e)).drop 896).take 8))) ∧
    (mine → bit m 0 = true → bit m 1 = false → c.rd o 2 ≠ 1 → stored = some b →
      c.idMatches r i false false b = false → c.vacantMatch r p i false false = none →
      yields (.identityCheck r p i) s (fun x => same x ∧ x.rd o k = 3 ∧ x.herdState r p = c.herdState r p ∧
        (∀ e < 16, (x.el (r.val * 1024 + p.val * 16 + e)).want = 4) ∧ ∃ d, x.port = c.port ++ [⟨0x4018, r.val, d, false⟩]))

/-- ModuleTag and IdentityChecks, each as its own text says. -/
def Obligations.ModuleIdentity : Prop :=
  Says.ModuleTag ∧ Says.IdentityChecks

/-! ## The pager, spares and arbitration (R301, R425–R449, R451–R475) -/

/-- R301, R426, R428, R430, R432–R437, R449: a page arrives with its records checked, is written back when due or forced, where there is room
in flight, and its records are served outside the slow phase, as they stood at its end; a read inside it waits for the guard phase. A page
whose position holds no records any more is dropped instead of being written. Of the requests of a bank
that wait none goes before one of an earlier class. -/
def Obligations.Pages : Prop :=
  ∀ (page : Fin 4096) (e : ElemNo) (bank : Option (Fin 16)) (x : Page) (m : Nat) (missed : List PairId)
    (lost : BitVec 4) (rows : List (Fin 128 × RowVerify)) (s : State),
    let c := s.chip
    let n := page.val
    let same (y : Chip) : Prop := y.mode = c.mode ∧ y.trip = c.trip ∧ y.chan = c.chan ∧ y.fast = c.fast ∧ y.rings = c.rings
    let es := (List.range 4).map (fun i => 4 * n + i)
    let bad := es.filter (fun k => !slowCrcOk (c.slowMram k))
    let idle : Prop := c.pager.reqs = []
    let before := Map.read [] c.pager.before e.val
    let due : MramReq := ⟨5, .write, n, false⟩
    let forced : MramReq := ⟨3, .write, m, false⟩
    let starts (k : Nat) (z : Page) (y : Chip) : Prop := y.page? k = some { z with st := .writing, started := c.ms, changed := 0 } ∧
      (∀ j, j ≠ k → y.page? j = c.page? j) ∧ y.pager.slow = c.pager.slow
    (idle → c.page? n = some x → x.st = .fetching → yields (.pageFetchComplete page 0) s (fun y => same y ∧
      y.page? n = some { x with st := if bad = [] ∧ n ∉ c.pager.move then .clean else .dirty,
                                recs := es.map (fun k => if k ∈ bad then newSlow (c.qnomOf k) 1024 else c.slowMram k) } ∧
      (∀ j, j ≠ n → y.page? j = c.page? j) ∧
      y.port = c.port ++ bad.map (fun k => ⟨0x401E, k / 1024, le 1 (k / 16 % 64) ++ le 1 (k % 16), false⟩))) ∧
    (idle → c.page? n = some x → x.st = .fetching → lost ≠ 0 → yields (.pageFetchComplete page lost) s (fun y =>
      y.page? n = some { x with st := .dirty, recs := es.map (fun k =>
        if bit lost.toNat (k % 4) = true ∨ k ∈ bad then newSlow (c.qnomOf k) 1024 else c.slowMram k) } ∧
      ∃ es, y.port = c.port ++ ⟨0x6052, bankOf n, le 4 (c.sectorOf n), false⟩ :: es)) ∧
    (c.page? n = none → becomes (.pageFetchComplete page lost) s c ∧ becomes (.writeBackDue page) s c ∧
      becomes (.writeBackComplete page rows) s c) ∧
    (∀ q, c.nextReq = some q → q ∈ c.pager.reqs ∧ c.mramRoom q = true ∧ ∀ q' ∈ c.pager.reqs, q'.bank = q.bank → q.order ≤ q'.order) ∧
    (idle → c.page? n = some x → x.st = .dirty → 600000 ≤ c.sinceWb n → c.mramRoom due = true → c.pageHolds n = true →
      yields (.writeBackDue page) s (fun y => same y ∧
      starts n x y ∧ y.port = c.port)) ∧
    (idle → c.page? n = some x → x.st = .dirty → 600000 ≤ c.sinceWb n → c.mramRoom due = false → yields (.writeBackDue page) s (fun y =>
      same y ∧ y.pager = { c.pager with reqs := [due] } ∧ y.port = c.port)) ∧
    (idle → c.page? n = some x → x.st = .dirty → 600000 ≤ c.sinceWb n → c.mramRoom due = true → c.pageHolds n = false →
      yields (.writeBackDue page) s (fun y => same y ∧ y.page? n = none ∧ y.pager.slow = c.pager.slow ∧ y.port = c.port)) ∧
    (idle → c.page? n = some x → x.st = .soft → 600000 ≤ c.sinceWb n → c.dirtyCount ≤ 48 → c.mramRoom due = true → c.pageHolds n = true →
      yields (.writeBackDue page) s (fun y => same y ∧ starts n x y ∧ y.port = c.port)) ∧
    (c.page? n = some x → x.st = .clean ∨ c.sinceWb n < 1000 → becomes (.writeBackDue page) s c) ∧
    (idle → c.rdBit 0x2110 0x0A 1 = true → c.oldestPage (bank.map (fun b => b.val)) c.pages = some (m, x) → c.page? m = some x →
      1000 ≤ c.sinceWb m → c.mramRoom forced = true →
      yields (.forcedWriteBack bank) s (fun y => same y ∧ starts m x y ∧ y.rd 0x2110 7 = (c.rd 0x2110 7 + 1) % 2 ^ 32 ∧
        y.rdBit 0x2110 0x0A 2 = true ∧ y.port = c.port ++ [⟨0x6050, bankOf m, le 4 m ++ le 4 (c.sinceWb m), false⟩])) ∧
    (c.rdBit 0x2110 0x0A 1 = false → becomes (.forcedWriteBack bank) s c) ∧
    (idle → c.page? n = some x → x.st = .writing → x.recs.length = 4 → c.pager.flush = none → c.retriesOf n < c.rd 0x2A00 0x12 →
      yields (.writeBackComplete page []) s
      (fun y => same y ∧ y.page? n = some { x with
          st := if x.changed = 0 then .clean else if x.changed = 1 then .soft else .dirty, changed := 0 } ∧
        (∀ i < 4, Map.read [] y.pager.slow (4 * n + i) = x.recs.getD i []) ∧ y.rd 0x2110 6 = (c.rd 0x2110 6 + 1) % 2 ^ 64 ∧
        Map.read 0 y.pager.wb n = x.started ∧ n ∉ y.pager.move ∧ y.port = c.port)) ∧
    (idle → c.page? n = some x → x.st = .writing → c.pager.flush = none → (∃ i, (i, RowVerify.retry3) ∈ rows) → (∃ i < 1024, i ∉ c.pager.pool) →
      yields (.writeBackComplete page rows) s (fun y => n ∈ y.pager.move ∧ y.page? n = some { x with st := .dirty, changed := 0 } ∧
        y.rd (0x2A40 + bankOf n) 1 = (c.rd (0x2A40 + bankOf n) 1 + 1) % 65536)) ∧
    (c.clk.off * 100 < c.periodNs * 70 ∨ c.periodNs * 95 ≤ c.clk.off * 100 → idle → c.cached e = true ∨ slowCrcOk (c.slowMram e) = true →
      becomes (.slowRecordRead e) s { c with ans := ⟨.ok, 0, c.slowSeen e⟩ }) ∧
    (c.clk.off * 100 < c.periodNs * 70 ∨ c.periodNs * 95 ≤ c.clk.off * 100 → idle → c.cached e = false → slowCrcOk (c.slowMram e) = false →
      yields (.slowRecordRead e) s (fun y => same y ∧ y.rdBit 0x2900 1 5 = true ∧
        y.ans = ⟨.ok, 0, if before = [] then newSlow (c.qnomOf e) 1024 else before⟩ ∧
        Map.read [] y.pager.slow e = newSlow (c.qnomOf e) 1024 ∧
        y.port = c.port ++ [⟨0x401E, e.val / 1024, le 1 (e.val / 16 % 64) ++ le 1 (e.val % 16), false⟩])) ∧
    (c.slowSeen e = if before = [] then c.slowRec e else before) ∧
    (c.periodNs * 70 ≤ c.clk.off * 100 → c.clk.off * 100 < c.periodNs * 95 →
      becomes (.slowRecordRead e) s { c with pager := { c.pager with reads := c.pager.reads ++ [e.val] } }) ∧
    (c.up = true → yields (.guardPhase missed) s (fun y => y.pager.reads = []))

/-- R443–R445, R448: a spare that fails its self-test is retired, and a spare PHY pair takes over a ring's pair, with port latencies of its
own,
which are open (the model's reading, log entry 155); with none left the ring's pair is worn. -/
def Sys2Proof.Says.SpareUnits : Prop :=
  ∀ (b : Fin 16) (spare : Fin 2) (r : RingNo) (sw : BitVec 16) (u : SpareUnit) (l : Nat) (s : State),
    let c := s.chip
    let same (y : Chip) : Prop := y.mode = c.mode ∧ y.trip = c.trip ∧ y.chan = c.chan ∧ y.tines = c.tines ∧ y.rings = c.rings
    let left := c.rd 0x2A00 4 - 1
    becomes (.spareSelfTest u true) s c ∧
    (c.idleSpare b = some l → yields (.spareSelfTest (.lane b) false) s (fun y => same y ∧ y.rd (0x2A20 + b) (l + 1) = 2 ∧
      y.rdBit 0x2A00 1 1 = true ∧ y.port = c.port ++ [⟨0xB008, 1, le 4 b.val, false⟩])) ∧
    (c.idleSpare b = none → becomes (.spareSelfTest (.lane b) false) s c) ∧
    (c.rd 0x2A00 3 = 0 → yields (.spareSelfTest .supervisor false) s (fun y => same y ∧ y.rd 0x2A00 3 = 2 ∧
      y.rdBit 0x2A00 1 1 = true ∧ y.exhausted = true ∧ y.port = c.port ++ [⟨0xB008, 2, le 4 0, false⟩])) ∧
    (c.rd 0x2A00 3 ≠ 0 → becomes (.spareSelfTest .supervisor false) s c) ∧
    (c.rd 0x2A00 4 ≠ 0 → c.rd 0x2A00 (0x19 + spare) = 0xFF → yields (.phySwap spare r sw) s (fun y => y.mode = c.mode ∧ y.trip = c.trip ∧
      y.chan = c.chan ∧ y.tines = c.tines ∧ (∀ q, q ≠ r.val → y.ring q = c.ring q) ∧
      (∃ a b, y.ring r = { c.ring r with latA := a, latB := b }) ∧ y.rd 0x2A00 (0x19 + spare) = r.val ∧
      y.rd 0x2A00 4 = left ∧ y.rd 0x2A00 7 = (c.rd 0x2A00 7 + 1) % 2 ^ 32 ∧ y.rdBit 0x2A00 1 0 = true ∧
      y.port = c.port ++ ⟨0xB003, r.val, le 4 spare.val ++ le 4 sw.toNat, false⟩ ::
        (if left = 0 then [⟨0xB007, 3, [], false⟩] else []))) ∧
    (c.rd 0x2A00 4 ≠ 0 → c.rd 0x2A00 (0x19 + spare) ≠ 0xFF → becomes (.phySwap spare r sw) s c) ∧
    (c.rd 0x2A00 4 = 0 → 3 + 8 * r.val ∉ c.pager.worn → yields (.phySwap spare r sw) s (fun y => same y ∧ y.rdBit 0x2A00 1 3 = true ∧
      y.port = c.port ++ [⟨0xB00C, 3, le 4 r.val, false⟩]))

/-- PairFaults, SparePairs and SpareUnits, each as its own text says. -/
def Obligations.PairsAndSpares : Prop :=
  Says.PairFaults ∧ Says.SparePairs ∧ Says.SpareUnits

/-- R437, R451–R458: an arbiter grants the first bleating request in round-robin order, and where none bleats the first request; the grant
ends
the bleat of its input, which goes on with the request. -/
def Sys2Proof.Says.Arbiters : Prop :=
  ∀ (a q : ArbiterId) (w : BitVec 16) (i j : Fin 16) (o : Level) (req : Nat) (z : MramReq) (s : State),
    let c := s.chip
    let n := arbInputs a
    let at_ := Map.read 0 c.arbLast (arbNo a)
    let bl := Map.read 0 c.bleats (arbNo a)
    let loud := (List.range n).any (fun k => bit w.toNat k && bit bl k)
    let cand (k : Nat) : Bool := bit w.toNat k && (!loud || bit bl k)
    let dist (k : Nat) : Nat := (k + n - at_ % n) % n
    ((∃ k < n, bit w.toNat k = true) → ∃ k < n, cand k = true ∧ (∀ k' < n, cand k' = true → dist k ≤ dist k') ∧
      becomes (.arbiterGrant a w none) s { c with
        arbLast := Map.write 0 c.arbLast (arbNo a) (k + 1), bleats := Map.write 0 c.bleats (arbNo a) (putBit bl k false) } ∧
      (arbNo q ≠ arbNo a → yields (.arbiterGrant a w (some (q, j))) s (fun x =>
        Map.read 0 x.arbLast (arbNo a) = k + 1 ∧ bit (Map.read 0 x.bleats (arbNo a)) k = false ∧
        bit (Map.read 0 x.bleats (arbNo q)) j = (bit bl k || bit (Map.read 0 c.bleats (arbNo q)) j)))) ∧
    ((∀ k < n, bit w.toNat k = false) → becomes (.arbiterGrant a w none) s c) ∧
    (yields (.bleatRaise a i o none) s (fun x => bit (Map.read 0 x.bleats (arbNo a)) i = true ∧
      x.rd 0x6060 (bleatSub o) = (c.rd 0x6060 (bleatSub o) + 1) % 2 ^ 32 ∧ sameObjs c x [(0x6060, bleatSub o)] ∧ x.arbLast = c.arbLast)) ∧
    (yields (.bleatRaise a i o (some (q, j))) s (fun x => bit (Map.read 0 x.bleats (arbNo a)) i = true ∧
      bit (Map.read 0 x.bleats (arbNo q)) j = true)) ∧
    (c.pager.reqs[req]? = some z → 4 ≤ z.cls → z.loud = false → yields (.emramBleat req) s (fun x => x.bleats = c.bleats ∧
      x.arbLast = c.arbLast ∧ x.mode = c.mode ∧ x.trip = c.trip)) ∧
    (c.pager.reqs[req]? = none → becomes (.emramBleat req) s c) ∧
    (c.pager.reqs[req]? = some z → z.cls < 4 ∨ z.loud = true → becomes (.emramBleat req) s c) ∧
    (c.pager.reqs = [z] → 4 ≤ z.cls → z.loud = false → c.mramRoom z = false → yields (.emramBleat 0) s (fun x =>
      x.pager = { c.pager with reqs := [{ z with loud := true }] } ∧ x.rd 0x6060 0x0A = (c.rd 0x6060 0x0A + 1) % 2 ^ 32 ∧
      sameObjs c x [(0x6060, 0x0A)] ∧ x.port = c.port))

/-- R460–R463: a region fault resets the blocks of its region alone, the third within 600 s holds it, and a chip fault restarts the compute
die, which leaves the power die's channels and the slices as they are. -/
def Obligations.RegionAndChipFaults : Prop :=
  ∀ (r cause : Fin 4) (b : Fin 16) (l : Fin 5) (addr : Word) (us : Nat) (m : Master) (v : Byte) (p : Pos) (s : State),
    let c := s.chip
    let i := 0x6064 + r.val
    let now := c.rd 0x1040 1
    let old := (Map.read [] c.regions r).filter (fun x => decide (now < x + 600))
    let same (x : Chip) : Prop := x.mode = c.mode ∧ x.trip = c.trip ∧ x.chan = c.chan ∧ x.claims = c.claims ∧ x.slices = c.slices
    let reset (x : Chip) : Prop := same x ∧ x.rd i 2 = (c.rd i 2 + 1) % 2 ^ 32 ∧ x.rd i 4 = cause.val ∧
      ⟨0x6060, r.val, le 1 cause.val ++ le 4 addr.toNat, false⟩ ∈ x.port ∧
      (∀ b : Fin 16, b.val / 4 = r.val → (∀ l, (x.tine (.lane b l)).run = false) ∧ (x.tine (.ringCtl b)).run = false ∧
        (x.ring b).queue = [] ∧ (x.ring b).txs = []) ∧
      (∀ b : Fin 16, b.val / 4 ≠ r.val → (∀ l, x.tine (.lane b l) = c.tine (.lane b l)) ∧ x.ring b = c.ring b)
    let restarts (q : Instr) : Prop := ∃ y, exec q s = .next y ∧ y.pending = s.pending ∧ y.mem = [] ∧ y.chip.mode = .boot ∧
      (∀ k, y.chip.ch k = { c.ch k with offTick := none }) ∧ y.chip.slices = c.slices ∧ y.chip.herd = c.herd ∧ y.chip.claims = [] ∧ y.rcd.fifo = []
    let off := addr.toNat
    (c.up = true → cause ≠ 0 → c.rd i 1 = 0 → old.length < 2 → yields (.regionFault r cause addr) s (fun x => reset x ∧ x.rd i 1 = 1 ∧
      x.rd i 3 = old.length + 1 ∧ x.port.length = c.port.length + 1)) ∧
    (c.up = true → cause ≠ 0 → c.rd i 1 = 0 → 2 ≤ old.length → yields (.regionFault r cause addr) s (fun x => reset x ∧ x.rd i 1 = 2 ∧
      (∀ b : Fin 16, b.val / 4 = r.val → x.ringState b = 5) ∧
      ⟨0x6062, r.val, le 1 (min 255 (old.length + 1)), false⟩ ∈ x.port)) ∧
    (c.rd i 1 ≠ 0 → becomes (.regionFault r cause addr) s c) ∧
    (c.rd i 1 = 1 → yields (.regionRunning r us) s (fun x => same x ∧ x.rd i 1 = 0 ∧ sameObjs c x [(i, 1)] ∧ x.rings = c.rings ∧
      x.port = c.port ++ [⟨0x6061, r.val, le 4 us, false⟩])) ∧
    (c.rd i 1 ≠ 1 → becomes (.regionRunning r us) s c) ∧
    (c.actionGuard m 8 = .ok → v = 1 → c.rd i 1 = 2 → yields (.restartHeldRegion m r v) s (fun x => x.mode = c.mode ∧ x.trip = c.trip ∧
      x.rd i 1 = 0 ∧ x.ans.status = .ok ∧ ⟨0x6067, r.val, le 1 (masterCode m), false⟩ ∈ x.port ∧
      ∀ b : Fin 16, b.val / 4 = r.val → x.ringState b = if c.configured b then 1 else c.ringState b)) ∧
    (c.actionGuard m 8 ≠ .ok → becomes (.restartHeldRegion m r v) s { c with ans := ⟨c.actionGuard m 8, 0, []⟩ }) ∧
    (c.up = true → c.rd (0x6064 + b.val / 4) 1 = 0 → yields (.arbiterCheckFault (.lanePort b l)) s (fun x => same x ∧
      x.rd (0x6064 + b.val / 4) 4 = 1 ∧ (x.tine (.lane b l)).run = false)) ∧
    (c.up = true → c.linkLost = false → (∀ z : Fin 7, restarts (.arbiterCheckFault (.chipTarget z))) ∧ (cause ≠ 0 → restarts (.chipFault cause))) ∧
    (cause = 0 ∨ c.up = false → exec (.chipFault cause) s = .next s) ∧
    (yields (.uncorrectableBlockError b true addr) s (fun x => same x ∧ x.od = c.od ∧ b.val ∈ x.reload ∧
      x.port = c.port ++ [⟨0x6068, b.val, le 4 2 ++ le 4 off, false⟩])) ∧
    (off < 0x20000 → yields (.uncorrectableBlockError b false addr) s (fun x => same x ∧ (x.el (b.val * 1024 + off / 128)).want = 3 ∧
      x.port = c.port ++ [⟨0x400D, b.val, le 1 (off / 128 / 16) ++ le 1 (off / 128 % 16) ++ le 1 5, false⟩])) ∧
    (0x20000 ≤ off → c.nOf b ≤ 64 → p.val < c.nOf b → bit (off / 4096) 0 = c.isUp b p →
      yields (.uncorrectableBlockError b false addr) s (fun x => same x ∧ (x.ring b).got.getLsbD p.val = false ∧
        ((c.ring b).got.getLsbD p.val = true → 1 ≤ (Map.read {} x.slotData (b.val * 64 + p.val)).age) ∧ x.od = c.od))

/-- R8, R464, R466–R475: a guard whose domain's clock has stopped; crossings between clock domains, and the clearing of a W1C flag: a write
clears the bits it names, a bit that hardware sets in the same cycle stays set and is counted. -/
def Sys2Proof.Says.Crossings : Prop :=
  ∀ (r : Fin 4) (d x n : Fin 64) (addr : Word) (k w tr : Nat) (m : Master) (o : ObjRef) (mask hw : Word) (gd : GuardId) (t : TineId) (s : State),
    let c := s.chip
    let i := 0x6064 + r.val
    let g := Map.read 0 c.gens x.val
    let differ : Prop := bit g 0 ≠ bit g 1
    let same (y : Chip) : Prop := y.mode = c.mode ∧ y.trip = c.trip ∧ y.chan = c.chan ∧ y.claims = c.claims ∧ y.tines = c.tines
    let ix := o.idx.toNat
    let sb := o.sub.toNat
    let old := c.rd ix sb
    (guardOf d ≠ some gd ∨ c.clockStopped d = false → ∀ z, becomes (.guardStallLimit gd d addr z) s c) ∧
    (guardOf d = some gd → c.clockStopped d = true → t.isLane = true → (c.tine t).run = true →
      yields (.guardStallLimit gd d addr (some t)) s (fun y => (y.tine t).run = false ∧ (y.tine t).cause % 256 = 2 ∧
        y.rdBit 0x6061 1 2 = true ∧ y.mode = c.mode ∧ y.trip = c.trip)) ∧
    (guardOf d = some .chip → c.clockStopped d = true → yields (.guardStallLimit .chip d addr none) s (fun y => same y ∧
      y.rd 0x6068 2 = (c.rd 0x6068 2 + 1) % 2 ^ 32 ∧ y.rdBit 0x6061 1 2 = true ∧ y.ans = ⟨.hwErr, 0, []⟩ ∧
      y.port = c.port ++ [⟨0x6063, d.val, le 4 addr.toNat ++ le 4 (c.rd 0x6068 1), false⟩])) ∧
    (guardOf d = some (.region r) → c.clockStopped d = true → yields (.guardStallLimit (.region r) d addr none) s (fun y => same y ∧
      y.rd i 5 = (c.rd i 5 + 1) % 2 ^ 32 ∧ y.rd i 7 = max (c.rd i 6) (c.rd i 7) ∧
      y.rdBit 0x6061 1 2 = true ∧ y.ans = ⟨.hwErr, 0, []⟩ ∧ y.gensDiffer d = false ∧ Map.read 0 y.pulses d.val = 0 ∧
      y.port = c.port ++ [⟨0x6063, d.val, le 4 addr.toNat ++ le 4 (c.rd i 6), false⟩])) ∧
    (n.val ≤ 15 → yields (.pulseCrossing x n) s (fun y => same y ∧ y.od = c.od ∧ y.port = c.port ∧
      (differ → Map.read 0 y.pulses x.val = 0) ∧ (¬ differ → Map.read 0 y.pulses x.val = n.val))) ∧
    (15 < n.val → yields (.pulseCrossing x n) s (fun y => same y ∧ (differ → Map.read 0 y.pulses x.val = 0) ∧
      (¬ differ → Map.read 0 y.pulses x.val = 15) ∧
      y.rd 0x6061 3 = (c.rd 0x6061 3 + (n.val - 15)) % 2 ^ 32 ∧ y.rdBit 0x6061 1 1 = true ∧
      y.port = c.port ++ List.replicate (n.val - 15) ⟨0x6065, x.val, [], false⟩)) ∧
    (yields (.generationMismatch x tr) s (fun y => same y ∧ y.gensDiffer x = true ∧ Map.read 0 y.pulses x.val = 0 ∧
      y.rd 0x6061 2 = (c.rd 0x6061 2 + tr) % 2 ^ 32 ∧ y.rdBit 0x6061 1 0 = true ∧
      y.port = c.port ++ [⟨0x6064, x.val, le 4 tr, false⟩])) ∧
    (¬ differ → becomes (.crossingResync x) s c) ∧
    (differ → yields (.crossingResync x) s (fun y => same y ∧ y.od = c.od ∧ y.gensDiffer x = false ∧ Map.read 0 y.pulses x.val = 0)) ∧
    (w1cOf ix sb = some (k, w) → m ≠ .observer → yields (.w1cClear m o mask hw) s (fun y => same y ∧ y.ans = ⟨.ok, 0, []⟩ ∧ y.port = c.port ∧
      (∀ q < 16, y.rdBit ix sb q = (bit hw.toNat q && bit w q || bit old q && !(bit mask.toNat q && bit w q))) ∧
      (∀ q < 16, bit hw.toNat q = true → bit w q = true → y.rd (0x6100 + k) (q + 1) = (c.rd (0x6100 + k) (q + 1) + 1) % 256))) ∧
    (w1cOf ix sb = some (k, w) → m = .observer → hw = 0 → becomes (.w1cClear m o mask hw) s { c with ans := ⟨.role, 0, []⟩ }) ∧
    (w1cOf ix sb = none → idxExists ix = false → m ≠ .observer → becomes (.w1cClear m o mask hw) s { c with ans := ⟨.noObj, 0, []⟩ })

/-- Arbiters and Crossings, each as its own text says. -/
def Obligations.ArbitersAndCrossings : Prop :=
  Says.Arbiters ∧ Says.Crossings

/-! ## Starts, restarts and the way down (R24–R41, R579, R601–R645) -/

/-- R39, R382, R503, R601, R625–R632, R638, R640, R642, R651: what a start, a reset and the way down leave. In a reset the power die's
channels,
the slices and the log are as they were. -/
def Obligations.Restarts : Prop :=
  ∀ (cause : Fin 7) (ok : Bool × Bool) (us vaux hold : BitVec 16) (below : Word) (rail : Fin 3) (s : State),
    let c := s.chip
    let p := c.power
    let kept (y : State) : Prop := y.pending = s.pending ∧ y.chip.slices = c.slices ∧ y.chip.herd = c.herd ∧
      ∀ k, 8 ≤ k → y.chip.image k = c.image k
    let reset (y : State) : Prop := kept y ∧ y.mem = [] ∧ y.chip.mode = .boot ∧ y.chip.claims = [] ∧ y.rcd.fifo = [] ∧
      y.chip.images = c.images ∧
      (c.linkLost = false → (∀ k, y.chip.ch k = { c.ch k with offTick := none }) ∧ y.chip.trip.asserted = c.trip.asserted)
    let runs (q : Instr) (f : State → Prop) : Prop := ∃ y, exec q s = .next y ∧ f y
    (c.mayStart cause = true → runs (.powerOn cause [] ok) (fun y => kept y ∧ y.mem = [] ∧ y.rcd = s.rcd ∧ y.chip.mode = .boot ∧
      y.chip.up = true ∧ y.chip.power.started = true ∧ y.chip.power.closed = false ∧ y.chip.power.booting = cause.val ∧ y.chip.power.noRail = false ∧
      (∃ r d, ⟨0xA001, cause.val, [r, d], false⟩ ∈ y.chip.port) ∧
      (cause.val = 1 → y.chip.rd 0x1040 2 = (c.rd 0x1040 2 + 1) % 2 ^ 32 ∧
        ((∀ r < 16, (c.ring r).short = false ∧ (c.ring r).hbLost = false) → y.chip.trip.asserted = 0 ∧ y.chip.trip.latched = 0)) ∧
      (cause.val = 3 → y.chip.rd 0x1040 3 = (c.rd 0x1040 3 + 1) % 2 ^ 32 ∧ y.chip.rd 0x1040 2 = c.rd 0x1040 2))) ∧
    (c.mayStart cause = false → exec (.powerOn cause [] ok) s = .next s) ∧
    (p.closed = false → runs .resetN (fun y => reset y ∧ y.chip.up = true ∧ y.chip.power.cause = 0 ∧ y.chip.power.started = false)) ∧
    (p.closed = true → p.dropped = true → exec .resetN s = .next s) ∧
    (p.closed = true → p.dropped = false → yields .resetN s (fun x => x.up = true ∧ x.mode = .boot ∧ x.power.closed = false ∧
      x.power.started = false ∧ x.chan = c.chan ∧ x.trip = c.trip ∧ x.od = c.od)) ∧
    (p.closed = false → runs (.supplyUndervoltage rail) (fun y => reset y ∧ y.chip.power.cause = 0 ∧ y.chip.power.noRail = true)) ∧
    (p.closed = true → becomes (.supplyUndervoltage rail) s { c with power := { p with noRail := true } }) ∧
    (c.up = false → becomes (.vauxDrop vaux hold) s { c with power := { p with dropped := true } }) ∧
    (c.up = true → p.started = false → becomes (.vauxDrop vaux hold) s
      { c with mode := .shutdown, up := false, power := { p with closed := true, dropped := true } }) ∧
    (c.up = true → p.started = true → p.cause = 1 → becomes (.vauxDrop vaux hold) s c) ∧
    (c.up = true → p.started = true → p.cause ≠ 1 → runs (.vauxDrop vaux hold) (fun y => kept y ∧ y.chip.images = c.images ∧ y.mem = s.mem ∧
      y.chip.mode = .shutdown ∧
      y.chip.power.cause = 1 ∧ y.chip.power.dropped = true ∧ y.rcd.flushing = true ∧ y.rcd.flushPrio = 1 ∧ y.rcd.fifo = s.rcd.fifo ∧
      ⟨0xA030, 0, le 2 vaux.toNat ++ le 2 hold.toNat, false⟩ ∈ y.chip.port ∧
      ∀ m g, y.chip.page? m = some g → g.grant = false)) ∧
    (c.mode = .shutdown → c.up = true → p.cause ≠ 0 → runs (.closingRecord us vaux hold) (fun y => kept y ∧ y.chip.images = c.images ∧ y.mem = [] ∧
      y.chip.mode = .shutdown ∧ y.chip.up = false ∧ y.chip.power.closed = true ∧ y.chip.power.cause = p.cause ∧ y.chip.claims = [] ∧
      y.chip.power.holdup = some hold.toNat ∧ y.rcd.fifo = [] ∧ ∃ q, y.rcd.closedSeq = some q ∧ q < y.rcd.nextSeq)) ∧
    (c.mode ≠ .shutdown ∨ c.up = false ∨ p.cause = 0 → exec (.closingRecord us vaux hold) s = .next s) ∧
    (p.closed = true → p.dropped = true → becomes (.vauxReturn below) s { c with
      up := true, mode := .boot, power := { p with
        closed := false, cause := 0, started := false, from_ := 6, below := some below.toNat } }) ∧
    (p.closed = false ∨ p.dropped = false → becomes (.vauxReturn below) s c)

/-! ## Reads, writes, sessions (R417, R422, R464, R530–R542, R547, R570–R574, R581, R660) -/

/-- R547, R548, R570, R573: a write to a setting whose checks pass is staged in the claim that holds its group, renews the lease and
changes no value in force; a write whose checks fail is answered with the status of the first failing step. AUTO_ACTIVATE,
IMAGE_ACTIVATE and IMAGE_ERASE are such writes; a resident slot's are refused. -/
def Sys2Proof.Says.StagedWrites : Prop :=
  ∀ (m : Master) (o : ObjRef) (val : List Byte) (slot : Fin 32) (e : Entry) (s : State),
    let c := s.chip
    let i := o.idx.toNat
    let j := o.sub.toNat
    let staged (g a b v : Nat) : Chip :=
      { c.toShadow a b with
        claims := c.claims.map (fun (q : Claim) =>
          if bit q.groups g then { q with staged := Map.insert (okey a b) v q.staged, left := q.lease } else q)
        ans := { status := .ok } }
    (c.up = false → exec (.settingWrite m o val) s = .next s) ∧
    (c.up = true → c.power.recovery = false →
      (c.writeStatus m i j val = .ok → entryOf i j = some e → e.acc = .rws → isAction i j = false → residentSlot i j = false →
        i ≠ 0x2000 ∨ j ≠ 8 → i ≠ 0x2100 ∨ j ≠ 1 → (∀ lo hi, e.ty ≠ .dom lo hi) →
        becomes (.settingWrite m o val) s (staged e.grp i j (ofLE val))) ∧
      (c.writeStatus m i j val = .ok → entryOf i j = some e → e.acc = .rws → isAction i j = false → residentSlot i j = false →
        i ≠ 0x2000 → i ≠ 0x2100 → (∃ lo hi, e.ty = .dom lo hi) →
        yields (.settingWrite m o val) s (fun x => x.ans.status = .ok ∧ x.od = c.od ∧ x.dom = c.dom ∧
          x.claims = c.claims.map (fun (q : Claim) =>
            if bit q.groups e.grp then { q with stagedDom := Map.insert (okey i j) val q.stagedDom, left := q.lease } else q))) ∧
      (c.writeStatus m i j val ≠ .ok → residentSlot i j = false → isProcess i j = false → i ≠ 0x2000 ∨ j ≠ 8 →
        becomes (.settingWrite m o val) s (c.answer (c.writeStatus m i j val))) ∧
      (i = 0x2100 → j = 1 → c.writeStatus m i j val = .ok → ofLE val ≠ c.rd i j → c.mode ≠ .discover → c.mode ≠ .ready →
        becomes (.settingWrite m o val) s (c.answer .state)) ∧
      (mayWrite m = true → c.ownerStatus m 3 false = .ok → becomes (.autoActivate m) s (staged 3 0x2000 4 1)) ∧
      (mayWrite m = true → 8 ≤ slot.val → c.ownerStatus m 8 false = .ok →
        becomes (.imageActivate m slot 1#8) s (staged 8 (0x2E10 + slot.val) 9 1) ∧
        becomes (.imageErase m slot 1#8) s (staged 8 (0x2E10 + slot.val) 10 1)) ∧
      (mayWrite m = true → slot.val < 8 → ∀ v, becomes (.imageActivate m slot v) s (c.answer .access) ∧
        becomes (.imageErase m slot v) s (c.answer .access)))

/-- DefaultStaging and StagedWrites, each as its own text says. -/
def Obligations.StagedSettings : Prop :=
  Says.DefaultStaging ∧ Says.StagedWrites

/-- R538, R581: a request on an open session counts in 2C1s:04 and in the port's frame counters. A new SEQ is performed once and its
answer stored, 16 at the most; a stored SEQ is answered from the store, counts in 2C1s:05 and changes nothing else; a SEQ below the
oldest stored one is answered STALE. Without a session nothing happens. -/
def Sys2Proof.Says.Requests : Prop :=
  ∀ (k : Fin 8) (seq off : Word) (staged : Bool) (items : List ObjRef) (ws : List WItem) (o : ObjRef) (count period : BitVec 16)
    (bytes : List Byte) (s : State),
    let c := s.chip
    let x := c.sess k
    let n := seq.toNat
    let i := o.idx.toNat
    let j := o.sub.toNat
    let p := 0x2C20 + x.port
    let counted : Chip := ((c.inc 32 (0x2C10 + k.val) 4).inc 32 p 8).inc 32 p 9
    let on : State := { s with chip := counted }
    ∀ q ∈ ([(.sweramRead k seq staged items, on.readMessage x.master staged items), (.sweramWrite k seq ws, on.writeMessage x.master ws),
        (.segread k seq o off count, on.segRead x.master i j off.toNat count.toNat),
        (.segwrite k seq o off bytes, on.segWrite x.master i j off.toNat bytes),
        (.subscribe k seq period items, { s with chip := counted.subscribe k period.toNat (refs items) }),
        (.sweramEcho k seq bytes, { s with chip := if bytes.length > 64 then counted.answer .tooBig else counted.answer .ok 0 bytes })] :
        List (Instr × State)),
      (c.netUp = false ∨ c.lock.supFault = true ∨ x.role = 0 → exec q.1 s = .next s) ∧
      (c.netUp = true → c.lock.supFault = false → x.role ≠ 0 →
        counted.rd (0x2C10 + k.val) 4 = (c.rd (0x2C10 + k.val) 4 + 1) % 2 ^ 32 ∧
        counted.rd p 8 = (c.rd p 8 + 1) % 2 ^ 32 ∧ counted.rd p 9 = (c.rd p 9 + 1) % 2 ^ 32 ∧
        sameObjs c counted [(0x2C10 + k.val, 4), (p, 8), (p, 9)] ∧ counted = { c with od := counted.od } ∧
        (∀ a, x.store.find? (fun y => y.1 == n) = some a →
          becomes q.1 s { counted.inc 32 (0x2C10 + k.val) 5 with ans := a.2 }) ∧
        ((∀ y ∈ x.store, y.1 ≠ n) → (∃ a, x.store.head? = some a ∧ n < a.1) → becomes q.1 s (counted.answer .stale)) ∧
        ((∀ y ∈ x.store, y.1 ≠ n) → (∀ a, x.store.head? = some a → a.1 < n) → (q.2.chip.sess k).role ≠ 0 → ∃ y : State,
          exec q.1 s = .next y ∧ y = { q.2 with chip := { q.2.chip with sessions := y.chip.sessions } } ∧
          (∀ h : Fin 8, h ≠ k → y.chip.sess h = q.2.chip.sess h) ∧
          (let z := q.2.chip.sess k
           let all := z.store ++ [(n, q.2.chip.ans)]
           y.chip.sess k = { z with store := all.drop (all.length - 16) })))

/-- R535–R537, R540, R547: what the messages do. A READ of one value that fits is answered with it; a WRITE takes effect whole or not at
all, but for events and for a latch clear, whose named sources are each treated on their own; SEGREAD answers up to 1,024 bytes from an
offset; SEGWRITE stages the bytes of a segment that follows what is staged; SUBSCRIBE replaces the session's subscription, and no item
cancels it; ECHO answers its payload. -/
def Sys2Proof.Says.Messages : Prop :=
  ∀ (m : Master) (o : ObjRef) (w : WItem) (ws : List WItem) (k off count period : Nat) (items : List (Nat × Nat)) (bytes : List Byte)
    (e : Entry) (s : State),
    let c := s.chip
    let i := o.idx.toNat
    let j := o.sub.toNat
    let plain : Prop := c.power.recovery = false ∧ readStatus i j = .ok ∧ (i < 0x2231 ∨ 0x2235 < i) ∧ (i < 0x2D20 ∨ 0x2D23 < i) ∧
      (i < 0x4800 ∨ 0x4BFF < i) ∧ (i < 0x5100 ∨ 0x58FF < i)
    (plain → (s.bytesOf i j).length ≤ 1024 → s.readMessage m false [o] =
      { s with chip := c.answer .ok 0 (le 2 i ++ le 1 j ++ [0#8, 0#8, 0#8] ++ le 2 (s.bytesOf i j).length ++ s.bytesOf i j) }) ∧
    (plain → ∀ v, c.stagedBytes m i j = some v → v.length ≤ 1024 →
      s.readMessage m true [o] = { s with chip := c.answer .ok 0 (le 2 i ++ le 1 j ++ [0#8, 0#8, 0#8] ++ le 2 v.length ++ v) }) ∧
    (∀ t, s.writeItems m (w :: ws) = (t, none) → s.writeMessage m (w :: ws) = t) ∧
    (∀ t u, s.writeItems m (w :: ws) = (t, some u) → let y := s.writeMessage m (w :: ws)
      y.chip.ans.status = t.chip.ans.status ∧ t.chip.ans.status ≠ .ok ∧
      (clearsLatches u = false → y = { s with chip := { c with port := y.chip.port, ans := y.chip.ans } } ∧
        ∃ es, y.chip.port = c.port ++ es) ∧
      (clearsLatches u = true → let z := s.write m 0x2300 6 u.val
        y = { z with chip := { z.chip with ans := y.chip.ans } })) ∧
    (plain → s.segRead m i j off count = { s with chip := c.answer .ok 0 (le 2 i ++ le 1 j ++ [0#8] ++ le 4 off ++
      le 2 (((s.bytesOf i j).drop off).take (min count 1024)).length ++ ((s.bytesOf i j).drop off).take (min count 1024)) }) ∧
    (mayWrite m = true → c.power.recovery = false → idxExists i = true → entryOf i j = some e → e.acc = .rws →
      c.ownerStatus m e.grp false = .ok → ∀ lo hi, e.ty = .dom lo hi →
      let old := if off = 0 then [] else ((c.claimOf e.grp).bind (fun x => x.bytes i j)).getD []
      (bytes.length ≤ 1024 → old.length + bytes.length ≤ hi → off = old.length →
        s.segWrite m i j off bytes = { s with chip := { c.toShadow i j with
          claims := c.claims.map (fun (q : Claim) =>
            if bit q.groups e.grp then { q with stagedDom := Map.insert (okey i j) (old ++ bytes) q.stagedDom, left := q.lease } else q)
          ans := { status := .ok } } }) ∧
      (bytes.length ≤ 1024 → old.length + bytes.length ≤ hi → off ≠ old.length →
        s.segWrite m i j off bytes = { s with chip := c.answer .segment })) ∧
    (let y := c.subscribe k period items
     (items = [] → (y.sess k).period = 0 ∧ (y.sess k).items = [] ∧ y.ans.status = .ok) ∧
     (items ≠ [] → items.length ≤ 64 → (items.map (fun x => itemSize x.1 x.2)).foldl (· + ·) 0 ≤ 1180 → period ≠ 0 →
       (y.sess k).period = period ∧ (y.sess k).items = items ∧ y.ans.status = .ok) ∧
     (items ≠ [] → 64 < items.length → y = c.answer .tooBig))

/-- Requests and Messages, each as its own text says. -/
def Obligations.RequestsAndMessages : Prop :=
  Says.Requests ∧ Says.Messages

/-- R464, R530–R532, R540, R581: a stream; the opening and the idle end of a session; a link change. -/
def Sys2Proof.Says.Sessions : Prop :=
  ∀ (k j : Fin 8) (p : Fin 2) (q : Fin 4) (print : BitVec 256) (up : Bool) (s : State),
    let c := s.chip
    let x := c.sess k
    let b := be 32 print.toNat
    let shown := if Map.read [] c.parents p.val == b then 4 else c.roleOf b
    (c.netUp = true → x.role ≠ 0 → x.period ≠ 0 → yields (.stream k) s (fun y => y.ans.status = .ok ∧ y.ans.detail = 0 ∧
      (∃ r, y.ans.bytes = le 8 c.ticks ++ r) ∧ (x.items = [] → y.ans.bytes = le 8 c.ticks) ∧
      y.rd (0x2C20 + x.port) 9 = (c.rd (0x2C20 + x.port) 9 + 1) % 2 ^ 32 ∧ sameObjs c y [(0x2C20 + x.port, 9)] ∧
      y = { c with od := y.od, ans := y.ans })) ∧
    (c.netUp = false ∨ x.role = 0 ∨ x.period = 0 → exec (.stream k) s = .next s) ∧
    (c.netUp = true → becomes (.dtlsHandshake p false print) s (c.post 0x8002 0xFF [1#8])) ∧
    (c.netUp = true → c.roleOf b = 0 → becomes (.dtlsHandshake p true print) s (c.post 0x8002 0xFF [2#8])) ∧
    (c.netUp = true → c.roleOf b ≠ 0 → (∀ h : Fin 8, (c.sess h).role ≠ 0) → becomes (.dtlsHandshake p true print) s (c.post 0x8002 0xFF [1#8])) ∧
    (c.netUp = true → c.roleOf b ≠ 0 → x.role = 0 → (∀ h : Fin 8, h < k → (c.sess h).role ≠ 0) →
      yields (.dtlsHandshake p true print) s (fun y =>
        y.sess k = { role := c.roleOf b, parent := Map.read [] c.parents p.val == b, port := p, print := b } ∧
        (j ≠ k → y.sess j = c.sess j) ∧ y.rd (0x2C10 + k.val) 1 = shown ∧ y.rd (0x2C10 + k.val) 2 = p.val ∧
        y.rd (0x2C10 + k.val) 3 = ofLE (b.take 8) ∧ y.rd (0x2C10 + k.val) 4 = 0 ∧ y.rd (0x2C10 + k.val) 5 = 0 ∧
        y.rd 0x2C00 1 = (c.rd 0x2C00 1 + 1) % 256 ∧ y.port = c.port ++ [⟨0x8001, k.val, le 1 shown ++ le 1 p.val ++ b.take 8, false⟩] ∧
        y = { c with od := y.od, sessions := y.sessions, port := y.port })) ∧
    (c.up = true → x.role ≠ 0 → yields (.sessionIdle k) s (fun y => (y.sess k).role = 0 ∧ (j ≠ k → y.sess j = c.sess j) ∧
      y.rd (0x2C10 + k.val) 1 = 0 ∧ y.rd (0x2C10 + k.val) 2 = 0xFF ∧ y.rd (0x2C10 + k.val) 3 = 0 ∧
      y.rd 0x2C00 1 = c.rd 0x2C00 1 - 1 ∧ y.port = c.port ++ [⟨0x8002, k.val, [3#8], false⟩] ∧
      sameObjs c y [(0x2C10 + k.val, 1), (0x2C10 + k.val, 2), (0x2C10 + k.val, 3), (0x2C00, 1)] ∧
      y = { c with od := y.od, sessions := y.sessions, port := y.port })) ∧
    (c.up = false ∨ x.role = 0 → exec (.sessionIdle k) s = .next s) ∧
    (yields (.ethernetLinkChange q up) s (fun y => y.rd (0x2C20 + q.val) 1 = (if up then 1 else 0) ∧
      sameObjs c y [(0x2C20 + q.val, 1)] ∧ y = { c with od := y.od }))

/-- R541, R542: the CAN client. A request leaves its port's server queue; an expedited download to a setting is a write of it; segments
are gathered until the last; an upload answers up to 56 bytes (log entry 30) and keeps the rest; a time-out aborts the transfer. -/
def Sys2Proof.Says.CanClient : Prop :=
  ∀ (o : ObjRef) (bytes : List Byte) (e : Entry) (s : State),
    let c := s.chip
    let p := c.rd 0x2C40 3
    let i := o.idx.toNat
    let j := o.sub.toNat
    let c' : Chip := c.setCan p { c.can p with usdo := (c.can p).usdo.drop 1 }
    let s' : State := { s with chip := c' }
    c.netUp = true → c.lock.supFault = false → c.power.recovery = false → p < 4 →
    (bytes.length ≤ 4096 → c.writeStatus c.canClient i j bytes = .ok → entryOf i j = some e → e.acc = .rws → isAction i j = false →
      residentSlot i j = false → i ≠ 0x2000 ∨ j ≠ 8 → i ≠ 0x2100 ∨ j ≠ 1 → (∀ lo hi, e.ty ≠ .dom lo hi) →
      becomes (.usdoDownload o bytes false true) s { c' with
        usdo := none
        claims := c.claims.map (fun (q : Claim) =>
          if bit q.groups e.grp then { q with staged := Map.insert (okey i j) (ofLE bytes) q.staged, left := q.lease } else q)
        ans := { status := .ok } }) ∧
    (c.writeStatus c.canClient i j bytes = .notOwner → bytes.length ≤ 4096 → residentSlot i j = false → isProcess i j = false →
      i ≠ 0x2000 ∨ j ≠ 8 → becomes (.usdoDownload o bytes false true) s { c' with
        usdo := none, ans := { status := .notOwner, bytes := le 4 0x08000021 } }) ∧
    (c.usdo = none → bytes.length ≤ 4096 → becomes (.usdoDownload o bytes true false) s { c' with
      usdo := some ⟨i, j, false, bytes, bytes.length⟩, ans := { status := .ok } }) ∧
    (c.usdo = none → readStatus i j = .ok → (i < 0x2231 ∨ 0x2235 < i) → (i < 0x2D20 ∨ 0x2D23 < i) → (i < 0x4800 ∨ 0x4BFF < i) →
      (i < 0x5100 ∨ 0x58FF < i) →
      let v := s'.bytesOf i j
      (v.length ≤ 56 → becomes (.usdoUpload o) s { c' with ans := { status := .ok, bytes := v } }) ∧
      (56 < v.length → v.length ≤ 4096 → becomes (.usdoUpload o) s { c' with
        usdo := some ⟨i, j, true, v, 56⟩, ans := { status := .ok, bytes := v.take 56 } }) ∧
      (4096 < v.length → becomes (.usdoUpload o) s { c' with ans := { status := .tooBig, bytes := le 4 0x06070012 } })) ∧
    (c.usdo.isSome = true → becomes .usdoTimeout s { c with usdo := none, ans := { status := .refused, bytes := le 4 0x05040000 } }) ∧
    (c.usdo.isSome = false → exec .usdoTimeout s = .next s)

/-- Sessions and CanClient, each as its own text says. -/
def Obligations.MasterSessions : Prop :=
  Says.Sessions ∧ Says.CanClient

/-! ## Semaphores (R543–R552) -/

/-- R544–R546, R549–R551: a claim of free groups is granted under one new claim id; one of an owned group is refused with BUSY and the
owner's code; releasing, aborting and renewing act on the claim of that id of that master, and any other id is answered STALE. -/
def Obligations.Semaphores : Prop :=
  ∀ (m : Master) (groups gs : BitVec 9) (lease id : BitVec 16) (q : Claim) (s : State),
    let c := s.chip
    let g := groups.toNat
    let ms := 100 * (if lease.toNat = 0 then 50 else lease.toNat)
    let claims : List (Instr × Bool) := [(.claimForEdit m groups lease, true), (.claimForCommand m groups lease, false)]
    let ops : List Instr := [.releaseToCheck m id gs, .semaphoreAbort m id gs, .semaphoreRenew m id gs]
    c.up = true → c.power.recovery = false → mayWrite m = true →
    (∀ p ∈ claims,
      (g ≠ 0 → lease.toNat ≤ 600 → (∀ x ∈ c.claims, x.groups &&& g = 0) → becomes p.1 s { c with
        claims := c.claims ++ [{ id := c.nextClaim, owner := m, edit := p.2, groups := g, run := .run, lease := ms, left := ms }]
        nextClaim := c.nextClaim % 65535 + 1
        port := c.port ++ [⟨0x8003, masterCode m, le 2 g ++ [if p.2 then 1#8 else 2#8] ++ le 2 c.nextClaim, false⟩]
        ans := { status := .ok } }) ∧
      (g ≠ 0 → lease.toNat ≤ 600 → c.claims.find? (fun x => x.groups &&& g != 0) = some q → becomes p.1 s { c with
        port := c.port ++ [⟨0x8004, masterCode m, le 2 g ++ le 1 (masterCode q.owner), false⟩]
        ans := { status := .busy } }) ∧
      (g = 0 ∨ 600 < lease.toNat → becomes p.1 s (c.answer .range))) ∧
    (∀ p ∈ ops, c.claimOfId m id.toNat = none → becomes p s (c.answer .stale)) ∧
    (c.claimOfId m id.toNat = some q →
      (q.edit = false → becomes (.releaseToCheck m id gs) s { c with
        claims := c.claims.filter (fun x => x.id ≠ q.id)
        port := c.port ++ [⟨0x8005, masterCode m, le 2 q.groups ++ le 2 (q.staged.length + q.stagedDom.length), false⟩]
        ans := { status := .ok } }) ∧
      (q.edit = true → q.run = .hold ∨ q.run = .edit → becomes (.releaseToCheck m id gs) s { c with
        claims := c.claims.map (fun x => if x.id = q.id then { q with run := .check, left := 0 } else x)
        port := c.port ++ [⟨0x8005, masterCode m, le 2 q.groups ++ le 2 (q.staged.length + q.stagedDom.length), false⟩]
        ans := { status := .ok } }) ∧
      (q.edit = true → q.run = .check → becomes (.releaseToCheck m id gs) s (c.answer .busy)) ∧
      (q.edit = false → q.next ≠ .commit → becomes (.semaphoreAbort m id gs) s { c with
        claims := c.claims.filter (fun x => x.id ≠ q.id)
        port := c.port ++ [⟨0x8008, masterCode m, le 2 q.groups ++ [2#8], false⟩]
        ans := { status := .ok } }) ∧
      (q.edit = true → q.next ≠ .commit → yields (.semaphoreAbort m id gs) s (fun x =>
        x.claims = c.claims.map (fun y => if y.id = q.id then { y with staged := [], stagedDom := [], next := .rollback } else y) ∧
        x.port = c.port ++ [⟨0x8008, masterCode m, le 2 q.groups ++ [2#8], false⟩] ∧ x.ans.status = .ok ∧
        x = { c with od := x.od, claims := x.claims, port := x.port, ans := x.ans })) ∧
      (q.run ≠ .check → becomes (.semaphoreRenew m id gs) s { c with
        claims := c.claims.map (fun x => if x.id = q.id then { q with left := q.lease } else x)
        ans := { status := .ok } }) ∧
      (q.run = .check → becomes (.semaphoreRenew m id gs) s (c.answer .state)))

/-- R546, R549, R550: the functions of a new edit claim enter HOLD at a tick edge and EDIT at the next; a claim whose CHECK finds no
failure waits for its commit, and another is rolled back with 0x8007 and the first failing group and object; a lease that runs out
rolls an edit claim back and frees a command claim. -/
def Obligations.ClaimTimes : Prop :=
  ∀ (id : BitVec 16) (q : Claim) (s : State),
    let c := s.chip
    c.up = true →
    (yields .holdEntry s (fun x => x.claims = c.claims.map (fun y =>
        if y.edit && y.run == .run && y.next == .stay then { y with run := .hold } else y) ∧
      x.trip = c.trip ∧ x.mode = c.mode ∧ ((∀ y ∈ c.claims, bit y.groups 3 = false ∧ bit y.groups 4 = false) →
        x = { c with claims := x.claims }))) ∧
    becomes .editEntry s { c with claims := c.claims.map (fun y => if y.run == .hold && y.next == .stay then { y with run := .edit } else y) } ∧
    (c.claims.find? (fun y => y.id == id.toNat && y.edit && y.run == .check && y.next == .stay) = some q →
      (c.checkClaim q = none → yields (.checkComplete id) s (fun x =>
        x.claims = c.claims.map (fun y => if y.id = q.id then { q with next := .commit } else y) ∧
        ∀ h, h < 9 → bit q.groups h = true → x.rd (0x2010 + h) 7 = 0 ∧ x.rd (0x2010 + h) 8 = 0)) ∧
      (∀ h r o, c.checkClaim q = some (h, r, o) → yields (.checkComplete id) s (fun x =>
        x.claims = c.claims.map (fun y => if y.id = q.id then { y with staged := [], stagedDom := [], next := .rollback } else y) ∧
        x.rd (0x2010 + h) 7 = r ∧ x.rd (0x2010 + h) 8 = o ∧
        x.port.getLast? = some ⟨0x8007, masterCode q.owner, le 1 h ++ le 1 r ++ le 4 o, false⟩))) ∧
    (c.claims.find? (fun y => y.id == id.toNat && y.run != .check && y.next == .stay) = some q →
      (q.edit = false → becomes (.leaseExpiry id) s { c with claims := c.claims.filter (fun x => x.id ≠ q.id) }) ∧
      (q.edit = true → yields (.leaseExpiry id) s (fun x =>
        x.claims = c.claims.map (fun y => if y.id = q.id then { y with staged := [], stagedDom := [], next := .rollback } else y) ∧
        x.port = c.port ++ [⟨0x8008, masterCode q.owner, le 2 q.groups ++ [1#8], false⟩] ∧
        x = { c with od := x.od, claims := x.claims, port := x.port })))

/-! ## CAN ports (R585–R597) -/

/-- R587–R590: a frame received counts in 2D1p:13 and enters the receive ring, or, with 1,024 entries in use, is dropped and counted
in 2D1p:15; the filter program disposes of an entry, the resident one giving an ordinary frame 0xF, the unsorted queue. A read of
a queue delivers its oldest entries, up to 12, which only a master frees. -/
def Obligations.CanReceive : Prop :=
  ∀ (p : Fin 4) (q : Fin 9) (m : Master) (f : CanFrame) (s : State),
    let c := s.chip
    let i := 0x2D10 + p.val
    let k := c.canImage p
    let t := Map.read {} c.tines (96 + p.val)
    let e := canEntry f (c.can p).dropped (c.rd 0x2200 3) c.now
    let counted (x : Chip) : Prop := x.rd i 0x13 = (c.rd i 0x13 + 1) % 2 ^ 32 ∧ x.mode = c.mode ∧ x.trip = c.trip
    (c.netUp = false ∨ c.canOff p = true ∨ c.busOff p = true → exec (.canFrameReceived p f) s = .next s) ∧
    (c.netUp = true → c.canOff p = false → c.busOff p = false → f.fdf = true → c.pd p 1 = 1 → yields (.canFrameReceived p f) s (fun x =>
      x.rd i 0x11 = min 0xFFFF (c.rd i 0x11 + 1) ∧ x.rd i 0x13 = c.rd i 0x13 ∧ x.cans = c.cans ∧ x.tines = c.tines)) ∧
    (c.netUp = true → c.canOff p = false → c.busOff p = false → f.fdf = false ∨ c.pd p 1 ≠ 1 →
      (1024 ≤ (c.can p).used → yields (.canFrameReceived p f) s (fun x => counted x ∧ x.rd i 0x15 = (c.rd i 0x15 + 1) % 2 ^ 32 ∧
        (x.can p).ring = (c.can p).ring ∧ (x.can p).dropped = true ∧ bit (x.canStatus p) 2 = true ∧
        ((c.can p).dropped = false → ∃ d, ⟨0x8043, p.val, d, false⟩ ∈ x.port))) ∧
      ((c.can p).used < 1024 → t.stopped = false → t.run = true → yields (.canFrameReceived p f) s (fun x => counted x ∧
        (x.can p).ring = (c.can p).ring ++ [e] ∧ (x.can p).dropped = false ∧ (x.can p).queues = (c.can p).queues ∧
        x.tines = c.tines)) ∧
      ((c.can p).used < 1024 → t.stopped = false → t.run = false → k ≠ 6 → yields (.canFrameReceived p f) s (fun x => counted x ∧
        (x.can p).ring = (c.can p).ring ++ [e] ∧ (let y := Map.read {} x.tines (96 + p.val)
          y.run = true ∧ y.job.image = k ∧ y.job.pc = leAt (Map.read (imageDefault k) c.images k) 28 4))) ∧
      ((c.can p).used < 1024 → t.stopped = false → t.run = false → k = 6 → (c.can p).ring = [] → c.residentDisp p e = 0xF →
        ((c.can p).queue 8).length < c.pd p 0x26 → yields (.canFrameReceived p f) s (fun x => counted x ∧
          (x.can p).ring = [] ∧ (x.can p).queue 8 = (c.can p).queue 8 ++ [splice e 7 [0x0F#8]] ∧ (x.can p).usdo = (c.can p).usdo)) ∧
      ((c.can p).used < 1024 → t.stopped = false → t.run = false → k = 6 → (c.can p).ring = [] → c.residentDisp p e = 1 →
        yields (.canFrameReceived p f) s (fun x => counted x ∧ (x.can p).ring = [] ∧ (x.can p).queues = (c.can p).queues ∧
          (x.can p).usdo = (c.can p).usdo ++ [splice e 7 [1#8]]))) ∧
    (yields (.hostQueueRead m p q) s (fun x => x.ans = ⟨.ok, 0, (((c.can p).queue q).take 12).flatMap (fun b => b)⟩ ∧
      (x.can p).queue q = (if mayWrite m then ((c.can p).queue q).drop 12 else (c.can p).queue q) ∧
      (∀ r, r ≠ q.val → (x.can p).queue r = (c.can p).queue r) ∧ (mayWrite m = false → x = { c with ans := x.ans }) ∧
      x = { c with cans := x.cans, ans := x.ans }))

/-- R591–R593: a record written to a free mailbox is queued, and the port offers its lowest pending one; the refusals in their order; a
cancel withdraws a pending mailbox, and marks one in its attempt; what ends or moves the attempt. -/
def Obligations.Mailboxes : Prop :=
  ∀ (m : Master) (p : Fin 4) (box : Fin 22) (bs : List Byte) (mask : Word) (a : Nat) (s : State),
    let c := s.chip
    let n := box.val + 10
    let b := c.boxOf p n
    let d := c.boxOf p a
    let others (x : Chip) (k : Nat) : Prop := ∀ j, j ≠ k → x.boxOf p j = c.boxOf p j
    (mayWrite m = false → becomes (.mailboxWrite m p box bs) s (c.answer .role) ∧ becomes (.mailboxCancel m p mask) s (c.answer .role)) ∧
    (mayWrite m = true → bs.length ≠ 72 → becomes (.mailboxWrite m p box bs) s (c.answer .type)) ∧
    (mayWrite m = true → bs.length = 72 → recordOk (c.pd p 1) bs = false → becomes (.mailboxWrite m p box bs) s (c.answer .range)) ∧
    (mayWrite m = true → bs.length = 72 → recordOk (c.pd p 1) bs = true → b.state = 1 ∨ b.state = 2 →
      becomes (.mailboxWrite m p box bs) s (c.answer .busy)) ∧
    (mayWrite m = true → bs.length = 72 → recordOk (c.pd p 1) bs = true → b.state ≠ 1 → b.state ≠ 2 →
      (c.canOff p = true ∨ c.canListens p = true → becomes (.mailboxWrite m p box bs) s (c.answer .state)) ∧
      (c.canOff p = false → c.canListens p = false → yields (.mailboxWrite m p box bs) s (fun x =>
        x.boxOf p n = { state := 1, data := bs } ∧ others x n ∧ x.rd (0x2D40 + p.val) (n + 1) = 1 ∧ x.ans.status = .ok ∧
        (∀ k, (c.can p).attempt = some k → (x.can p).attempt = some k) ∧
        ((c.can p).attempt = none → c.netUp = true → c.busOff p = false → ∃ k, (x.can p).attempt = some k ∧ (x.boxOf p k).state = 1 ∧
          ∀ j, j < k → (x.boxOf p j).state ≠ 1) ∧
        sameObjs c x [(0x2D40 + p.val, n + 1)] ∧ x = { c with od := x.od, cans := x.cans, ans := x.ans }))) ∧
    (mayWrite m = true → yields (.mailboxCancel m p mask) s (fun x => x.ans.status = .ok ∧ (x.can p).attempt = (c.can p).attempt ∧
      x = { c with od := x.od, cans := x.cans, ans := x.ans } ∧
      ∀ k, k < 32 → let y := c.boxOf p k
        (k < 10 ∨ bit mask.toNat k = false → x.boxOf p k = y) ∧
        (10 ≤ k → bit mask.toNat k = true → y.next = none → x.boxOf p k =
          (if y.state = 1 ∧ (c.can p).attempt ≠ some k then { y with state := 4, cancel := false }
           else if y.state = 1 ∨ y.state = 2 then { y with cancel := true } else y)))) ∧
    ((c.can p).attempt = none → ∀ i ∈ ([.arbitrationWon p, .arbitrationLost p, .canTxComplete p, .canAckError p] : List Instr),
      exec i s = .next s) ∧
    ((c.can p).attempt = some a → a < 32 →
      (d.state = 1 → yields (.arbitrationWon p) s (fun x => x.boxOf p a = { d with state := 2 } ∧ others x a ∧
        x.rd (0x2D40 + p.val) (a + 1) = 2 ∧ sameObjs c x [(0x2D40 + p.val, a + 1)] ∧ (x.can p).attempt = some a)) ∧
      (d.next = none → yields (.arbitrationLost p) s (fun x =>
        x.boxOf p a = (if d.cancel then { d with state := 4, cancel := false } else { d with state := 1 }) ∧ others x a ∧
        sameObjs c x [(0x2D40 + p.val, a + 1)] ∧ x.rd (0x2D40 + p.val) (a + 1) = (if d.cancel then 4 else 1))))

/-- R592–R597: the end of a transmission; acknowledgement errors, which count 8 while the port is not error-passive, and set LONE at
the retry limit; bus errors; recovery from bus-off; and the process-data set, in nine classical frames or one CAN FD frame. -/
def Obligations.CanErrors : Prop :=
  ∀ (p : Fin 4) (a tx rx : Nat) (s : State),
    let c := s.chip
    let i := 0x2D10 + p.val
    let d := c.boxOf p a
    let others (x : Chip) : Prop := ∀ j, j ≠ a → x.boxOf p j = c.boxOf p j
    let state (t r : Nat) : Nat := if 255 < t then 2 else if 128 ≤ t ∨ 128 ≤ r then 1 else 0
    let run := min 255 (c.pd p 0x17 + 1)
    ((c.can p).attempt = some a → a < 32 → d.next = none →
      yields (.canTxComplete p) s (fun x => x.boxOf p a = { d with state := if d.cancel then 5 else 3, cancel := false } ∧ others x ∧
        x.rd i 0x14 = (c.rd i 0x14 + 1) % 2 ^ 32 ∧ x.rd i 0x10 = c.rd i 0x10 - 1 ∧ x.rd i 0x17 = 0 ∧ x.rdBit i 0x12 0 = false ∧
        (c.rd i 0x0F < 2 → x.rd i 0x0F = state (c.rd i 0x10 - 1) (c.rd i 0x11))) ∧
      yields (.canAckError p) s (fun x => others x ∧ x.rd i 0x17 = run ∧ x.rd i 0x14 = c.rd i 0x14 ∧
        x.rd i 0x10 = (if c.rd i 0x0F = 1 then c.rd i 0x10 else (c.rd i 0x10 + 8) % 2 ^ 16) ∧
        (c.rdBit i 0x12 0 = false → c.pd p 0x0C ≤ run → x.rdBit i 0x12 0 = true ∧ ⟨0x8044, p.val, le 1 run, false⟩ ∈ x.port ∧
          (c.pd p 0x0D = 1 → x.canSingle p = true)) ∧
        (x.boxOf p a).state = (if d.cancel then 4 else if bit (leAt d.data 5 1) 0 || x.canSingle p then 6 else 1))) ∧
    (c.canOff p = true ∨ c.busOff p = true → exec (.canErrorFrame p tx rx) s = .next s) ∧
    (c.canOff p = false → c.busOff p = false → yields (.canErrorFrame p tx rx) s (fun x =>
      x.rd i 0x10 = min 0xFFFF (c.rd i 0x10 + tx) ∧ x.rd i 0x11 = min 0xFFFF (c.rd i 0x11 + rx) ∧
      (c.rd i 0x0F < 2 → x.rd i 0x0F = state (x.rd i 0x10) (x.rd i 0x11)) ∧
      (tx = 0 → x.cans = c.cans) ∧ ((c.can p).attempt = none → x.cans = c.cans))) ∧
    (c.busOff p = true → yields (.busOffRecovery p) s (fun x => x.rd i 0x0F = 0 ∧ x.rd i 0x10 = 0 ∧ x.rd i 0x11 = 0 ∧
      (∀ j, x.boxOf p j = c.boxOf p j) ∧ x.port = c.port ++ [⟨0x8042, p.val, [0#8, 0#8, 0#8, 0#8], false⟩] ∧
      sameObjs c x [(i, 0x0F), (i, 0x10), (i, 0x11)] ∧ x = { c with od := x.od, cans := x.cans, port := x.port })) ∧
    (c.busOff p = false → exec (.busOffRecovery p) s = .next s) ∧
    (c.netUp = false → becomes (.processDataSet p) s c) ∧
    (c.rd i 0x18 = 1 → c.canOff p = false → c.netUp = true →
      (let queued (x : Chip) (j : Nat) (rec : List Byte) : Prop :=
         let y := c.boxOf p j
         if y.state = 2 ∨ (y.state = 1 ∧ (c.can p).attempt = some j) then x.boxOf p j = { y with cancel := true, next := some rec }
         else x.boxOf p j = { state := 1, data := rec }
       let unsent := ((List.range 10).drop 1).filter (fun j => (c.boxOf p j).state == 1 || (c.boxOf p j).state == 2)
       (c.rd i 0x19 ≠ 1 → yields (.processDataSet p) s (fun x =>
         (∀ k, k < 9 → queued x (k + 1) (deviceRecord (c.rd i 0x1A + k) false false (c.pdFrame k))) ∧
         (unsent = [] → x.port = c.port ∧ x.rd i 0x1C = c.rd i 0x1C) ∧
         (unsent ≠ [] → x.port = c.port ++ [⟨0x8047, p.val, le 4 unsent.length, false⟩] ∧
           x.rd i 0x1C = (c.rd i 0x1C + unsent.length) % 2 ^ 32) ∧
         (∀ j, 10 ≤ j ∨ j = 0 → x.boxOf p j = c.boxOf p j))) ∧
       (c.rd i 0x19 = 1 → 2 ≤ c.pd p 1 → yields (.processDataSet p) s (fun x =>
         queued x 1 (deviceRecord (c.rd i 0x1A) true (c.pd p 1 == 3) c.pdFdFrame) ∧
         (∀ j, 10 ≤ j ∨ j = 0 → x.boxOf p j = c.boxOf p j)))))

/-! ## Section time (R501–R527) -/

/-- R507–R509, R511, R512, R515, R516: a sample of a domain. One whose residual exceeds the jump threshold is discarded and counted, as a
residual past the lock threshold too, and the third in a row faults the domain; an accepted one updates the domain's figures, its state by
the counts of residuals, and the rate
within ±200 ppm. An announce of a new grandmaster leads through ACQUIRING, or to FAULTED where its time jumps; without announces a
domain is IDLE. -/
def Obligations.TimeDomains : Prop :=
  ∀ (d : Fin 2) (offset residual ppb ask utc diff : Int) (path : Nat) (gm : BitVec 64) (cls src fl : Byte) (arb : Bool) (s : State),
    let c := s.chip
    let i := 0x2210 + d.val
    let z := c.dmn d
    let sample : Instr := .ptpSyncSample d offset residual ppb path ask
    let msg : Instr := .announceReceived d gm cls src arb utc fl diff
    let old := c.grandmaster d
    let st := c.dState d
    let off := c.ptpOffset d offset
    let near := decide (off.natAbs ≤ c.rd 0x2200 7)
    let within := decide (residual.natAbs ≤ c.rd 0x2200 8)
    let good := if within then z.good + 1 else 0
    let bad := if within then 0 else z.bad + 1
    (st = 0 ∨ c.ptpOn d = false ∨ c.netUp = false → exec sample s = .next s) ∧
    (st ≠ 0 → c.ptpOn d = true → c.netUp = true →
      (c.rd 0x2200 6 < residual.natAbs → z.streak < 2 → st = 2 → c.rd 0x2200 9 ≤ z.bad + 1 → yields sample s (fun x =>
        x.rd 0x2200 0x12 = (c.rd 0x2200 0x12 + 1) % 2 ^ 32 ∧ x.dState d = 1 ∧ ⟨0x7002, d.val, [1#8], false⟩ ∈ x.port ∧
        ⟨0x7010, d.val, le 8 (ofInt 64 residual), false⟩ ∈ x.port)) ∧
      (c.rd 0x2200 6 < residual.natAbs → z.streak < 2 → st ≠ 2 ∨ z.bad + 1 < c.rd 0x2200 9 → yields sample s (fun x =>
        x.rd 0x2200 0x12 = (c.rd 0x2200 0x12 + 1) % 2 ^ 32 ∧
        x.dmn d = { z with streak := z.streak + 1, good := 0, bad := z.bad + 1, near := 0 } ∧
        x.port = c.port ++ [⟨0x7010, d.val, le 8 (ofInt 64 residual), false⟩] ∧ sameObjs c x [(0x2200, 0x12)] ∧
        x = { c with od := x.od, time := x.time, port := x.port })) ∧
      (c.rd 0x2200 6 < residual.natAbs → 2 ≤ z.streak → yields sample s (fun x => x.dState d = 3 ∧
        x.rd i 0x0A = old ∧ x.rd i 0x0B = (c.rd i 0x0B + 1) % 2 ^ 32 ∧
        ⟨0x7004, d.val, le 8 old ++ le 8 (ofInt 64 residual), false⟩ ∈ x.port)) ∧
      (residual.natAbs ≤ c.rd 0x2200 6 → c.time.pend = none → yields sample s (fun x =>
        x.rdI 64 i 5 = satInt 64 off ∧ x.rdI 32 i 6 = satInt 32 ppb ∧ x.rd i 7 = min (c.ptpPath d path) 0xFFFFFFFF ∧
        x.dmn d = { z with streak := 0, good := good, bad := bad, near := if near then z.near + 1 else 0 } ∧
        x.dState d = (if st = 1 ∧ c.rd 0x2200 9 ≤ good then 2 else if st = 2 ∧ c.rd 0x2200 9 ≤ bad then 1
          else if st = 3 ∧ near = true ∧ 15 ≤ z.near then 2 else st) ∧
        (x.time.sel = some d.val → -200000 ≤ c.rate → c.rate ≤ 200000 → -200000 ≤ x.rate ∧ x.rate ≤ 200000)))) ∧
    (c.ptpOn d = false ∨ c.netUp = false ∨ (arb = true ∧ c.rd i 0x0D = 0) → exec msg s = .next s) ∧
    (c.ptpOn d = true → c.netUp = true → arb = false ∨ c.rd i 0x0D ≠ 0 →
      yields msg s (fun x => x.rd i 8 = gm.toNat ∧ x.rd i 9 = cls.toNat ∧ (x.dmn d).utc = utc ∧ (x.dmn d).flags = fl ∧
        (x.dmn d).timeSource = src.toNat ∧ (old = gm.toNat → st ≠ 0 → x.dState d = st ∧ x.time = { c.time with dom := x.time.dom }) ∧
        (old ≠ 0 → old ≠ gm.toNat → ⟨0x700B, d.val, le 8 old ++ le 8 gm.toNat, false⟩ ∈ x.port ∧
          x.dState d = (if c.rd 0x2200 6 < diff.natAbs ∨ st = 3 then 3 else 1)) ∧
        (old = 0 → st = 0 → x.dState d = 1))) ∧
    (st = 0 ∨ st = 3 → exec (.announceTimeout d) s = .next s) ∧
    (st ≠ 0 → st ≠ 3 → yields (.announceTimeout d) s (fun x => x.dState d = 0 ∧ x.rd i 8 = 0 ∧ x.rd i 9 = 248 ∧ x.dmn d = {} ∧
      (st = 2 → ⟨0x7002, d.val, [2#8], false⟩ ∈ x.port)))

/-- R517, R520–R524, R527: a re-anchor is accepted, or refused with the code of R659 and 0x7009; PPS, captures and pulses; what goes downward:
the advertisement of an interval, the answer to a delay request, the class at the end of the holdover period, the reference message. -/
def Obligations.TimeServices : Prop :=
  ∀ (m : Master) (v : Byte) (n : Fin 5) (k : Fin 4) (d : Fin 2) (rising : Bool) (sub : Nat) (ident rx : BitVec 64) (s : State),
    let c := s.chip
    let dm := v.toNat - 1
    let i := 0x2231 + n.val
    let j := 0x2231 + k.val
    let p := 2 + d.val
    let ref (q : Nat) : List Byte := le 1 (c.rd 0x2241 5) ++ le 1 (c.rd 0x2200 3) ++ be 6 (c.can q).refSent
    let captured := c.rd i 1 = 3 ∨ c.rd i 1 = (if rising then 1 else 2)
    (c.actionGuard m 5 = .ok → v = 1#8 ∨ v = 2#8 →
      (c.anchorRefusal dm = 0 → becomes (.reAnchor m v) s { c with
        clk := { c.clk with step := some (c.dOffset dm) }, time := { c.time with pend := some (dm, masterCode m) }
        claims := (c.renew 5).claims, ans := { status := .ok } }) ∧
      (c.anchorRefusal dm ≠ 0 → becomes (.reAnchor m v) s ((c.answer .refused (c.anchorRefusal dm)).post 0x7009 (masterCode m)
        (le 1 (c.anchorRefusal dm))))) ∧
    (c.actionGuard m 5 = .ok → v ≠ 1#8 → v ≠ 2#8 → becomes (.reAnchor m v) s (c.answer .range)) ∧
    (c.up = true → c.ppsDriven = true → becomes .ppsOutEdge s
      { c with time := { c.time with pps := some (c.now / 1000000000 * 1000000000, c.now / 1000000000 * 1000000000 + c.rd 0x2230 1 * 1000000) } }) ∧
    (c.up = false ∨ c.ppsDriven = false → exec .ppsOutEdge s = .next s) ∧
    (c.up = true → captured → (c.captures n).length < 16 → yields (.trigCapture n rising sub) s (fun x =>
      x.captures n = c.captures n ++ [(c.now + sub, c.rd 0x2200 3)] ∧ x.rd i 5 = (c.captures n).length + 1 ∧
      sameObjs c x [(i, 5)] ∧ x = { c with od := x.od, time := x.time })) ∧
    (c.up = true → captured → 16 ≤ (c.captures n).length → yields (.trigCapture n rising sub) s (fun x =>
      x.rd i 7 = (c.rd i 7 + 1) % 2 ^ 32 ∧ x.port = c.port ++ [⟨0x700D, n.val, le 4 (x.rd i 7), false⟩] ∧
      sameObjs c x [(i, 7)] ∧ x = { c with od := x.od, port := x.port })) ∧
    (c.up = false ∨ ¬ captured → exec (.trigCapture n rising sub) s = .next s) ∧
    (c.captures n = [] → becomes (.captureRead m n) s (c.answer .ok)) ∧
    (∀ (x : Nat × Nat) (xs : List (Nat × Nat)), c.captures n = x :: xs → yields (.captureRead m n) s (fun y => y.captures n = xs ∧
      y.rd i 5 = xs.length ∧
      y.ans = ⟨.ok, 0, le 8 x.1 ++ le 1 x.2⟩ ∧ sameObjs c y [(i, 5)] ∧ y = { c with od := y.od, time := y.time, ans := y.ans })) ∧
    (c.up = true → c.rd j 1 = 4 → (let t := c.rd j 2
      (c.now < t + c.periodNs → t < c.now + c.periodNs → Map.read 0 c.time.fired k ≠ t + 1 → yields (.trigPulse k) s (fun x =>
        Map.read (0, 0) x.time.pulse k = (t + 1, t + c.rd j 4) ∧ Map.read 0 x.time.fired k = t + 1 ∧
        x = { c with time := { c.time with pulse := x.time.pulse, fired := x.time.fired } })) ∧
      (Map.read 0 c.time.fired k = t + 1 → exec (.trigPulse k) s = .next s))) ∧
    (c.up = true → c.rd j 1 = 5 → 0 < c.rd j 3 → c.rd j 2 ≤ c.now → yields (.trigPulse k) s (fun x =>
      (let t := c.now - (c.now - c.rd j 2) % c.rd j 3
       Map.read (0, 0) x.time.pulse k = (t + 1, t + c.rd j 4)) ∧
      x = { c with time := { c.time with pulse := x.time.pulse } })) ∧
    (c.netUp = true → c.rd (0x2220 + p) 1 = 1 →
      yields (.dPortSyncInterval d) s (fun x => Map.read {} x.time.adv d = c.advert p ∧ x.rd (0x2220 + p) 9 = 6 ∧
        sameObjs c x [(0x2220 + p, 9)] ∧ x = { c with od := x.od, time := { c.time with adv := x.time.adv } }) ∧
      yields (.delayRequest d ident rx) s (fun x => x = { c with time := { c.time with delays := x.time.delays } } ∧
        Map.read {} x.time.delays d = ⟨ident.toNat, rx.toNat - c.rd (0x2220 + p) 0x0A, c.rd (0x2220 + p) 3 == 1⟩)) ∧
    (c.rd 0x2200 3 = 2 → yields .holdoverClassPeriodExpiry s (fun x => x.rd 0x2240 4 = 187 ∧ sameObjs c x [(0x2240, 4)] ∧
      x = { c with od := x.od })) ∧
    (c.rd 0x2200 3 ≠ 2 → exec .holdoverClassPeriodExpiry s = .next s) ∧
    (c.netUp = false → becomes .timeReferenceMessage s c) ∧
    (c.netUp = true → c.rd 0x2241 1 ≠ 0 → yields .timeReferenceMessage s (fun x => x.rd 0x2241 5 = (c.rd 0x2241 5 + 1) % 64 ∧
      ∀ q : Fin 4, (bit (c.rd 0x2241 1) q = false → x.can q = c.can q) ∧
        (bit (c.rd 0x2241 1) q = true → c.canOff q = false → (c.boxOf q 0).state ≠ 1 → (c.boxOf q 0).state ≠ 2 →
          x.boxOf q 0 = { state := 1, data := deviceRecord (c.rd 0x2241 2) false false (ref q) })))

/-! ## The device tree (R557–R563) and the event recorder (R601–R621) -/

/-- R557–R561, R563, R581: DISCOVER and HELLO; a child takes the slot of its serial number or the first free one, is accepted or refused,
keeps its slot when it is lost; a summary is kept whole with its age; a link delay is half the median of ten round trips. -/
def Obligations.DeviceTree : Prop :=
  ∀ (d p : Fin 2) (serial : BitVec 64) (print : BitVec 256) (hs : Bool) (role : Fin 4) (k : Fin 32) (bytes : List Byte)
    (trips : List Nat) (s : State),
    let c := s.chip
    let q := 0x2C22 + d.val
    let n := serial.toNat
    let i := 0x2C90 + k.val
    let served := c.netUp = true ∧ c.treePort d = true
    let sorted := sortBy (fun a b => decide (a ≤ b)) trips
    (c.netUp = true → yields .discoverBroadcast s (fun x =>
      x.rd q 9 = (if bit (c.rd 0x2C80 1) d then (c.rd q 9 + 1) % 2 ^ 32 else c.rd q 9) ∧
      sameObjs c x [(0x2C22, 9), (0x2C23, 9)] ∧ x = { c with od := x.od })) ∧
    (c.netUp = true → yields (.discoverMessage p serial print) s (fun x =>
      x.rd (0x2C20 + p.val) 8 = (c.rd (0x2C20 + p.val) 8 + 1) % 2 ^ 32 ∧ x.rd (0x2C20 + p.val) 9 = (c.rd (0x2C20 + p.val) 9 + 1) % 2 ^ 32 ∧
      Map.read [] x.parents p = be 32 print.toNat ∧ sameObjs c x [(0x2C20 + p.val, 8), (0x2C20 + p.val, 9)] ∧
      x = { c with od := x.od, parents := x.parents })) ∧
    (¬ served → exec (.hello d serial hs role) s = .next s) ∧
    (served → c.childSlot n = some k.val → c.childState k = 0 → yields (.hello d serial hs role) s (fun x =>
      (x.child k).serial = n ∧ x.rd i 3 = 2 + d.val ∧ x.rd q 8 = (c.rd q 8 + 1) % 2 ^ 32 ∧
      (∀ j, j < 32 → j ≠ k.val → x.childState j = c.childState j ∧ x.child j = c.child j) ∧
      x.childState k = (if c.accepts n && hs then 2 else 6) ∧
      x.port = c.port ++ [⟨0x8020, 2 + d.val, le 8 n, false⟩, if c.accepts n && hs then ⟨0x8021, k.val, le 8 n ++ le 1 role, false⟩
        else ⟨0x8024, 2 + d.val, le 8 n ++ [if c.accepts n then 2#8 else 1#8], false⟩])) ∧
    (served → c.childSlot n = some k.val → c.childUp k = true → yields (.hello d serial hs role) s (fun x =>
      x.rd i 3 = 2 + d.val ∧ x.rd q 8 = (c.rd q 8 + 1) % 2 ^ 32 ∧ sameObjs c x [(i, 3), (q, 8)] ∧ x = { c with od := x.od })) ∧
    (c.netUp = true → c.childUp k = true →
      yields (.childLost k) s (fun x => x.childState k = 5 ∧ x.child k = c.child k ∧
        (∀ j, j < 32 → j ≠ k.val → x.childState j = c.childState j) ∧
        x.port = c.port ++ [⟨0x8022, k.val, le 8 (c.child k).serial, false⟩] ∧
        sameObjs c x [(i, 2), (0x2C80, 2)] ∧ x = { c with od := x.od, port := x.port }) ∧
      (trips.length = 10 → yields (.linkDelayEcho k trips) s (fun x =>
        x.rd i 4 = min 0xFFFFFFFF ((sorted.getD 4 0 + sorted.getD 5 0) / 4) ∧ sameObjs c x [(i, 4)] ∧ x = { c with od := x.od })) ∧
      (bytes.length = 80 → yields (.childSummary k bytes) s (fun x => x.rdDom i 6 = bytes ∧
        (x.child k) = { c.child k with age := leAt bytes 16 4 + c.rd i 4, at_ := c.mono, heard := true } ∧
        x = { c with od := x.od, dom := x.dom, children := x.children })) ∧
      (bytes.length ≠ 80 → exec (.childSummary k bytes) s = .next s)) ∧
    (c.up = false ∨ c.childUp k = false → ∀ x ∈ ([.childLost k, .linkDelayEcho k trips, .childSummary k bytes] : List Instr),
      exec x s = .next s) ∧
    (c.netUp = false → ∀ x ∈ ([.linkDelayEcho k trips, .childSummary k bytes] : List Instr), exec x s = .next s)

/-- R601, R605, R611–R613: the oldest event at the port takes the next SEQ. It becomes a record at the end of the FIFO, or a repeat of the
last one, or, beyond 384 slots with an empty bucket, is suppressed and counts into LOST. -/
def Sys2Proof.Says.EventIngest : Prop :=
  ∀ (e : Event) (es : List Event) (s : State),
    let c := s.chip
    let r := s.rcd
    let i := c.rowOf e.code 255 0
    let row := c.rowWord i
    let runs (f : State → Prop) : Prop := ∃ t, exec .eventIngest s = .next t ∧ t.pending = s.pending ∧ t.mem = s.mem ∧
      t.rcd.log = r.log ∧ t.chip.mode = c.mode ∧ f t
    (c.port = [] → exec .eventIngest s = .next s) ∧
    (c.port = e :: es →
      (r.merges e row = false → r.fill ≤ 384 → runs (fun t => t.rcd.nextSeq = r.nextSeq + 1 ∧ es <+: t.chip.port ∧
        t.rcd.pendingLost = 0 ∧ t.rcd.last = some r.nextSeq ∧ ∃ x, t.rcd.fifo = r.fifo ++ [x] ∧ x.r.seq = r.nextSeq ∧
          x.r.code = e.code ∧ x.r.src = e.src ∧ x.r.detail = (e.detail.take 460).take 12 ∧ x.r.optime = c.rd 0x1040 1 ∧
          x.r.tick = c.clk.subSec ∧ x.r.pcycle = c.rd 0x1040 2 ∧ x.r.stime = c.now ∧ x.r.lost = min r.pendingLost 0xFFFFFFFF ∧
          x.r.repeats = 0 ∧ x.r.slots ≤ 8 ∧ x.written = false)) ∧
      (r.merges e row = true → (∀ g, r.gone = some g → r.last = some g.r.seq) → runs (fun t => t.rcd.nextSeq = r.nextSeq + 1 ∧ t.chip.port = es ∧
        t.chip.rd 0x2B00 9 = (c.rd 0x2B00 9 + 1) % 2 ^ 32 ∧ sameObjs c t.chip [(0x2B00, 9)] ∧
        t.rcd.fifo.map (fun x => x.r.seq) = r.fifo.map (fun x => x.r.seq) ∧ ∃ x y, r.lastRec = some x ∧ t.rcd.lastRec = some y ∧
          y = { x with repeats := x.repeats + 1, lastOpt := c.rd 0x1040 1, lastTick := c.clk.subSec, ver := (x.ver + 2) % 65536 })) ∧
      (r.merges e row = false → 384 < r.fill → bit row 25 = false → bits row 15 8 * 1000 < Map.read 0 r.spent i + 1000 →
        runs (fun t => t.rcd = { r with nextSeq := r.nextSeq + 1, pendingLost := r.pendingLost + 1, supp := r.supp + 1, trig := none } ∧
          t.chip.port = es ∧ t.chip.rd 0x2B00 8 = (c.rd 0x2B00 8 + 1) % 2 ^ 32 ∧ sameObjs c t.chip [(0x2B00, 8)])))

/-- R437, R614–R620: flushing writes the unwritten records into the log and changes no record, and waits while a request of a better class
is due at the bank of the open sector or its sectors find no room among the writes in flight; its completion lets closed sectors leave the
FIFO and shows the log state; a release frees whole
sectors, oldest first, and is refused where none qualifies; a free sector is not read. -/
def Sys2Proof.Says.EventLog : Prop :=
  ∀ (m : Master) (us : BitVec 16) (seq : BitVec 64) (k : Fin 2048) (i : Fin 64) (x : FifoRec) (s : State),
    let c := s.chip
    let r := s.rcd
    let runs (q : Instr) (f : State → Prop) : Prop := ∃ t, exec q s = .next t ∧ t.pending = s.pending ∧ t.mem = s.mem ∧
      t.rcd.nextSeq = r.nextSeq ∧ f t
    let free := r.freeSectors
    (exec .flushPeriod s = .next { s with rcd := { r with flushing := true } }) ∧
    (r.full = 2 → c.mode ≠ .shutdown → exec .logFlush s = .next s) ∧
    (r.full ≠ 2 → runs .logFlush (fun t => t.chip = { c with pager := { c.pager with logW := t.chip.pager.logW } } ∧
      t.rcd.fifo.map (fun y => y.r) = r.fifo.map (fun y => y.r) ∧
      t.rcd.flushing = true)) ∧
    (r.full ≠ 2 → s.logWaits = true → exec .logFlush s = .next { s with rcd := { r with flushing := true } }) ∧
    (r.full ≠ 2 → s.logWaits = false → r.fifo = [x] → x.written = false → x.at_ / 64 = r.open_ → r.gone = none → c.pager.logW = [] →
      c.roomFor [MramArea.log.sector r.open_] = false → exec .logFlush s = .next { s with rcd := { r with flushing := true } }) ∧
    (r.full ≠ 2 → s.logWaits = false → r.fifo = [x] → x.written = false → x.at_ / 64 = r.open_ → r.gone = none → c.pager.logW = [] →
      c.roomFor [MramArea.log.sector r.open_] = true → runs .logFlush (fun t => t.chip.pager.logW = [r.open_] ∧
      t.rcd.fifo = [{ x with written := true }] ∧ Map.read [] t.rcd.log x.at_ = x.r.header ∧
      (∀ j, j < x.r.snaps.length → Map.read [] t.rcd.log (x.at_ + 1 + j) = x.r.snaps.getD j []) ∧
      ∀ a, a < x.at_ ∨ x.at_ + x.r.slots ≤ a → Map.read [] t.rcd.log a = Map.read [] r.log a)) ∧
    runs (.logFlushComplete us) (fun t => t.chip.pager.logW = [] ∧ t.rcd.fifo = r.fifo.filter (fun y => !(y.written && y.at_ / 64 != r.open_)) ∧
      t.rcd.flushing = false ∧ t.rcd.log = r.log ∧ t.chip.rd 0x2B00 0x0B = (c.rd 0x2B00 0x0B + 1) % 2 ^ 32 ∧
      t.chip.rd 0x2B00 0x0C = us.toNat ∧ t.rcd.full = (if free ≤ 9 then 2 else if free ≤ c.rd 0x2B00 5 then 1 else 0) ∧
      (free ≤ 9 → r.full ≠ 2 → ∃ b, ⟨0x9002, 0, b, false⟩ ∈ t.chip.port)) ∧
    (c.actionGuard m 6 ≠ .ok → becomes (.logRelease m seq) s (c.answer (c.actionGuard m 6))) ∧
    (c.actionGuard m 6 = .ok → r.oldest = r.open_ → becomes (.logRelease m seq) s (c.answer .refused)) ∧
    (c.actionGuard m 6 = .ok → r.oldest ≠ r.open_ → r.closing ≠ some r.oldest →
      (∀ q ∈ sectorSeqs r.log r.oldest 0 64, q ≤ seq.toNat) → runs (.logRelease m seq) (fun t => t.chip.ans.status = .ok ∧
        (∃ b, ⟨0x9003, masterCode m, b, false⟩ ∈ t.chip.port) ∧ t.rcd.fifo = r.fifo ∧
        (∀ j, j < 64 → Map.read [] t.rcd.log (64 * r.oldest + j) = []) ∧
        ∀ a, Map.read [] t.rcd.log a = [] ∨ Map.read [] t.rcd.log a = Map.read [] r.log a)) ∧
    ((∀ j, j < 64 → s.logSlot k.val j = []) → becomes (.logSectorRead m k i) s (c.answer .refused 1)) ∧
    ((∃ j, j < 64 ∧ s.logSlot k.val j ≠ []) → becomes (.logSectorRead m k i) s (c.answer .ok 0 (fit 64 (s.logSlot k.val i.val))))

/-- EventIngest and EventLog, each as its own text says. -/
def Obligations.EventRecorder : Prop :=
  Says.EventIngest ∧ Says.EventLog

/-! ## The block as a whole -/

/-- One step runs the command at the front of the queue with the queue's rest; an empty queue idles (log entry 20). -/
def Obligations.QueueStep : Prop :=
  ∀ (c : Instr) (cs : List Instr) (s : State),
    (s.pending = c :: cs → step s = exec c { s with pending := cs }) ∧ (s.pending = [] → step s = .next s)

/-- No command stops the block: each answers a next state, and leaves the commands that wait. -/
def Obligations.EveryCommandAnswers : Prop := ∀ (c : Instr) (s : State), ∃ t : State, exec c s = .next t ∧ t.pending = s.pending

/-- R28, R36, R225, R356, R382, R543, R601: at the first power-on the device is in BOOT, its AON domain is cleared with COLD set, no trip
source is asserted or latched, no channel conducts, no claim and no session is open, every object reads its default, and the
invariant holds. -/
def Obligations.ResetState : Prop :=
  let s := State.reset
  let c := s.chip
  s.pending = [] ∧ s.mem = [] ∧ s.inv = true ∧ c.mode = .boot ∧ c.up = true ∧ c.adopt.cold = true ∧ c.adopt.safeHold = false ∧
  c.trip.asserted = 0 ∧ c.trip.latched = 0 ∧ (∀ k, (c.ch k).state = .off ∧ (c.ch k).cmd = false) ∧ c.claims = [] ∧
  (∀ k, (c.sess k).role = 0) ∧ (∀ i j, c.rd i j = dflt (okey i j)) ∧ c.port = [] ∧ s.rcd.fifo = [] ∧ c.pages = []

/-- Every step keeps memory in its canonical form (addresses rising, no byte that reads as an unlisted one) and the SEQs of the event
FIFO rising, below the next SEQ (R601). -/
def Obligations.StepKeepsInvariant : Prop := ∀ s t : State, s.inv = true → step s = .next t → t.inv = true

/-- R392, R393: every instruction word fits 32 bits, and decoding it on the Tine of its command, with the result that its ECC check finds,
gives the instruction back with every operand; the register number 9 of MTS is MTS_EMERG's. -/
def Obligations.TineWordsRoundTrip : Prop :=
  ∀ (i : Instr) (w : Nat), tineEncode i = some w → (∀ t a, i ≠ .mts t 9 a) → w < 2 ^ 32 ∧ ∃ t ecc, tineDecode t w ecc = some i

/-- R392, R393: words written out from the encoding, and opcodes that name no instruction. -/
def Obligations.TineWords : Prop :=
  ∀ t : TineId,
    tineDecode t 0b00000000001000100001100000000000 = some (.add t 1 2 3) ∧
    tineDecode t 0b00000100001000101111111111111111 = some (.addi t 1 2 0xFFFF) ∧
    tineDecode t 0b00110000101001100000000000001000 = some (.ldw t 5 6 8 .clean) ∧
    tineDecode t 0b01100000001000101111111111111110 = some (.beq t 1 2 0xFFFE) ∧
    tineDecode t 0b10000000010010001101000100000011 = some (.vfma t 1 2 3 4 true false) ∧
    tineDecode t 0b11010100000001000010100000000001 = some (.rcommit t 4 5 true) ∧
    tineDecode t 0b11100100000001110000000000001001 = some (.mtsEmerg t 7) ∧
    tineDecode t 0b11111100000000000000000001000010 = some (.fault t 0x42) ∧
    tineDecode t 0b01010100000000000000000000000000 = none ∧ tineDecode t 0b00000000000000000000000000010101 = none

/-- R551: an operation 3, 4 or 5 whose claim id no claim of the master in force has is refused with STALE, and changes nothing. -/
def Obligations.StaleClaims : Prop :=
  ∀ (m : Master) (id : BitVec 16) (gs : BitVec 9) (s : State),
    s.chip.up = true → s.chip.power.recovery = false → mayWrite m = true →
    (∀ q ∈ s.chip.claims, q.id = id.toNat → q.owner ≠ m ∨ q.live = false ∨ q.next = .rollback) →
    ∀ c ∈ ([.releaseToCheck m id gs, .semaphoreAbort m id gs, .semaphoreRenew m id gs] : List Instr),
      becomes c s (s.chip.answer .stale)

/-- R525: an announce received on a D port is ignored, counted in 222p:0C, and recorded once per foreign identity as event 0x700F. -/
def Obligations.ForeignAnnounces : Prop :=
  ∀ (d : Fin 2) (ident : BitVec 64) (s : State),
    let c := s.chip
    let p := 2 + d.val
    (c.netUp = false → becomes (.foreignAnnounce d ident) s c) ∧
    (c.netUp = true → yields (.foreignAnnounce d ident) s (fun x =>
      x.rd (0x2220 + p) 0x0C = (c.rd (0x2220 + p) 0x0C + 1) % 2 ^ 32 ∧ sameObjs c x [(0x2220 + p, 0x0C)] ∧
      x = { c with od := x.od, time := { c.time with foreign := x.time.foreign }, port := x.port } ∧
      (∀ y, y ∈ x.time.foreign ↔ y ∈ c.time.foreign ∨ y = (d.val, ident.toNat)) ∧
      ((d.val, ident.toNat) ∈ c.time.foreign → x.port = c.port) ∧
      ((d.val, ident.toNat) ∉ c.time.foreign → x.port = c.port ++ [⟨0x700F, p, le 8 ident.toNat, false⟩])))

end
end

