-- ==== Sys2Proof/Laws/Map.lean ====
section
/-!
SUPPORT. Sys2Proof/Laws/Map.lean: the laws of sparse tables and memory: a read after a write, writes elsewhere, and the
canonical form kept by every operation.
-/

namespace Sys2Proof.Machine

variable {α : Type}

@[simp] theorem Map.read_nil (d : α) (k : Nat) : Map.read d [] k = d := rfl

@[simp] theorem Map.read_insert_same (d : α) (m : Map α) (k : Nat) (v : α) : Map.read d (Map.insert k v m) k = v := by
  induction m with
  | nil => simp [Map.insert, Map.read]
  | cons x m ih =>
    obtain ⟨k', v'⟩ := x
    simp only [Map.insert]
    split
    · simp [Map.read]
    · split
      · simp [Map.read]
      · simp [Map.read, *]

theorem Map.read_insert_ne (d : α) (m : Map α) {k j : Nat} (v : α) (h : j ≠ k) :
    Map.read d (Map.insert k v m) j = Map.read d m j := by
  induction m with
  | nil => simp [Map.insert, Map.read, h.symm]
  | cons x m ih =>
    obtain ⟨k', v'⟩ := x
    simp only [Map.insert]
    split
    · rename_i e; subst e; simp [Map.read, h.symm]
    · split
      · simp [Map.read, h.symm]
      · simp [Map.read, ih]

@[simp] theorem Map.read_erase_same (d : α) (m : Map α) (k : Nat) : Map.read d (Map.erase k m) k = d := by
  induction m with
  | nil => rfl
  | cons x m ih =>
    obtain ⟨k', v'⟩ := x
    simp only [Map.erase]
    split <;> simp [Map.read, *]

theorem Map.read_erase_ne (d : α) (m : Map α) {k j : Nat} (h : j ≠ k) :
    Map.read d (Map.erase k m) j = Map.read d m j := by
  induction m with
  | nil => rfl
  | cons x m ih =>
    obtain ⟨k', v'⟩ := x
    simp only [Map.erase]
    split
    · rename_i e; subst e; simp [Map.read, ih, h.symm]
    · simp [Map.read, ih]

@[simp] theorem Map.read_write_same [DecidableEq α] (d : α) (m : Map α) (k : Nat) (v : α) :
    Map.read d (Map.write d m k v) k = v := by
  unfold Map.write; split <;> simp_all

/-- A write leaves other keys alone, whatever default either of them has. -/
theorem Map.read_write_ne [DecidableEq α] (d d' : α) (m : Map α) {k j : Nat} (v : α) (h : j ≠ k) :
    Map.read d' (Map.write d m k v) j = Map.read d' m j := by
  unfold Map.write; split
  · exact Map.read_erase_ne d' m h
  · exact Map.read_insert_ne d' m v h

theorem Map.read_write [DecidableEq α] (d : α) (m : Map α) (k j : Nat) (v : α) :
    Map.read d (Map.write d m k v) j = if j = k then v else Map.read d m j := by
  split
  · subst_vars; simp
  · exact Map.read_write_ne d d m v ‹_›

/-! ## The canonical form -/

/-- A lower bound that the new key exceeds is kept by an insertion. -/
theorem Map.wfAbove_insert [DecidableEq α] (d : α) (k : Nat) (v : α) (hv : v ≠ d) :
    ∀ (m : Map α) (lo : Option Nat), (∀ l, lo = some l → l < k) → Map.wfAbove d lo m = true →
      Map.wfAbove d lo (Map.insert k v m) = true
  | [], lo, hl, _ => by cases lo <;> simp_all [Map.insert, Map.wfAbove]
  | (k', v') :: m, lo, hl, h => by
    simp only [Map.wfAbove, Bool.and_eq_true, decide_eq_true_eq] at h
    obtain ⟨⟨h1, h2⟩, h3⟩ := h
    simp only [Map.insert]
    split
    · rename_i e; subst e
      simp only [Map.wfAbove, Bool.and_eq_true, decide_eq_true_eq]
      exact ⟨⟨h1, hv⟩, h3⟩
    · split
      · simp only [Map.wfAbove, Bool.and_eq_true, decide_eq_true_eq]
        refine ⟨⟨?_, hv⟩, ⟨‹_›, h2⟩, h3⟩
        cases lo <;> simp_all
      · simp only [Map.wfAbove, Bool.and_eq_true, decide_eq_true_eq]
        refine ⟨⟨h1, h2⟩, Map.wfAbove_insert d k v hv m (some k') ?_ h3⟩
        intro l hl'; cases hl'; omega

/-- The bound may be lowered. -/
theorem Map.wfAbove_mono [DecidableEq α] (d : α) (m : Map α) (lo lo' : Option Nat)
    (h : ∀ l', lo' = some l' → ∃ l, lo = some l ∧ l' ≤ l) (hw : Map.wfAbove d lo m = true) :
    Map.wfAbove d lo' m = true := by
  cases m with
  | nil => cases lo' <;> rfl
  | cons x m =>
    obtain ⟨k, v⟩ := x
    simp only [Map.wfAbove, Bool.and_eq_true, decide_eq_true_eq] at hw ⊢
    refine ⟨⟨?_, hw.1.2⟩, hw.2⟩
    cases lo' with
    | none => rfl
    | some l' =>
      obtain ⟨l, rfl, hle⟩ := h l' rfl
      have := hw.1.1
      simp only [decide_eq_true_eq] at this ⊢
      omega

theorem Map.wfAbove_erase [DecidableEq α] (d : α) (k : Nat) :
    ∀ (m : Map α) (lo : Option Nat), Map.wfAbove d lo m = true → Map.wfAbove d lo (Map.erase k m) = true
  | [], lo, h => h
  | (k', v') :: m, lo, h => by
    simp only [Map.wfAbove, Bool.and_eq_true, decide_eq_true_eq] at h
    obtain ⟨⟨h1, h2⟩, h3⟩ := h
    simp only [Map.erase]
    split
    · refine Map.wfAbove_erase d k m lo (Map.wfAbove_mono d m (some k') lo ?_ h3)
      intro l hl; subst hl
      exact ⟨k', rfl, Nat.le_of_lt (by simpa using h1)⟩
    · simp only [Map.wfAbove, Bool.and_eq_true, decide_eq_true_eq]
      exact ⟨⟨h1, h2⟩, Map.wfAbove_erase d k m (some k') h3⟩

/-- A write keeps the canonical form. -/
theorem Map.wf_write [DecidableEq α] (d : α) (m : Map α) (k : Nat) (v : α) (h : Map.wf d m = true) :
    Map.wf d (Map.write d m k v) = true := by
  unfold Map.write Map.wf at *
  split
  · exact Map.wfAbove_erase d k m none h
  · exact Map.wfAbove_insert d k v ‹_› m none (by simp) h

/-! ## Memory -/

theorem Memory.wf_setByte (m : Memory) (a : Nat) (b : BitVec 8) (h : Memory.wf m = true) :
    Memory.wf (Memory.setByte m a b) = true := Map.wf_write _ _ _ _ h

theorem Memory.wf_store (bs : List (BitVec 8)) : ∀ (m : Memory) (a : Nat), Memory.wf m = true →
    Memory.wf (Memory.store m a bs) = true := by
  induction bs with
  | nil => intro m a h; exact h
  | cons b bs ih => intro m a h; exact ih _ _ (Memory.wf_setByte m a b h)

@[simp] theorem Memory.byte_setByte_same (m : Memory) (a : Nat) (b : BitVec 8) :
    Memory.byte (Memory.setByte m a b) a = b := Map.read_write_same _ _ _ _

theorem Memory.byte_setByte_ne (m : Memory) {a c : Nat} (b : BitVec 8) (h : c ≠ a) :
    Memory.byte (Memory.setByte m a b) c = Memory.byte m c := Map.read_write_ne _ _ _ _ h

/-- A store leaves every byte outside it alone. -/
theorem Memory.byte_store_ne (bs : List (BitVec 8)) : ∀ (m : Memory) (a c : Nat),
    c < a ∨ a + bs.length ≤ c → Memory.byte (Memory.store m a bs) c = Memory.byte m c := by
  induction bs with
  | nil => intro m a c _; rfl
  | cons b bs ih =>
    intro m a c h
    simp only [List.length_cons] at h
    rw [Memory.store, ih _ _ _ (by omega), Memory.byte_setByte_ne _ _ (by omega)]

/-- Every byte of a store reads back. -/
theorem Memory.byte_store (bs : List (BitVec 8)) : ∀ (m : Memory) (a i : Nat) (h : i < bs.length),
    Memory.byte (Memory.store m a bs) (a + i) = bs[i] := by
  induction bs with
  | nil => intro m a i h; simp at h
  | cons b bs ih =>
    intro m a i h
    cases i with
    | zero => rw [Memory.store, Memory.byte_store_ne _ _ _ _ (by omega)]; simp
    | succ i =>
      have := ih (Memory.setByte m a b) (a + 1) i (by simpa using h)
      rw [Memory.store, show a + (i + 1) = a + 1 + i by omega, this]; simp

end Sys2Proof.Machine
end

