-- ==== Sys2Proof/Laws/State.lean ====
section
/-!
SUPPORT. Sys2Proof/Laws/State.lean: what each plain update of the state leaves alone, one lemma per field and update, and
what each reads back.
-/

namespace Sys2Proof.Machine

variable (s : Chip)

/-! ### wr -/

@[simp] theorem Chip.wr_fresh (i j v : Nat) : (s.wr i j v).fresh = s.fresh := rfl
@[simp] theorem Chip.wr_ans (i j v : Nat) : (s.wr i j v).ans = s.ans := rfl
@[simp] theorem Chip.wr_dom (i j v : Nat) : (s.wr i j v).dom = s.dom := rfl
@[simp] theorem Chip.wr_mode (i j v : Nat) : (s.wr i j v).mode = s.mode := rfl
@[simp] theorem Chip.wr_trans (i j v : Nat) : (s.wr i j v).trans = s.trans := rfl
@[simp] theorem Chip.wr_readyTick (i j v : Nat) : (s.wr i j v).readyTick = s.readyTick := rfl
@[simp] theorem Chip.wr_actReq (i j v : Nat) : (s.wr i j v).actReq = s.actReq := rfl
@[simp] theorem Chip.wr_actAns (i j v : Nat) : (s.wr i j v).actAns = s.actAns := rfl
@[simp] theorem Chip.wr_clk (i j v : Nat) : (s.wr i j v).clk = s.clk := rfl
@[simp] theorem Chip.wr_up (i j v : Nat) : (s.wr i j v).up = s.up := rfl
@[simp] theorem Chip.wr_link (i j v : Nat) : (s.wr i j v).link = s.link := rfl
@[simp] theorem Chip.wr_trip (i j v : Nat) : (s.wr i j v).trip = s.trip := rfl
@[simp] theorem Chip.wr_chan (i j v : Nat) : (s.wr i j v).chan = s.chan := rfl
@[simp] theorem Chip.wr_group (i j v : Nat) : (s.wr i j v).group = s.group := rfl
@[simp] theorem Chip.wr_adopt (i j v : Nat) : (s.wr i j v).adopt = s.adopt := rfl
@[simp] theorem Chip.wr_strs (i j v : Nat) : (s.wr i j v).strs = s.strs := rfl
@[simp] theorem Chip.wr_swi (i j v : Nat) : (s.wr i j v).swi = s.swi := rfl
@[simp] theorem Chip.wr_claims (i j v : Nat) : (s.wr i j v).claims = s.claims := rfl
@[simp] theorem Chip.wr_nextClaim (i j v : Nat) : (s.wr i j v).nextClaim = s.nextClaim := rfl
@[simp] theorem Chip.wr_port (i j v : Nat) : (s.wr i j v).port = s.port := rfl
@[simp] theorem Chip.wr_slices (i j v : Nat) : (s.wr i j v).slices = s.slices := rfl
@[simp] theorem Chip.wr_rings (i j v : Nat) : (s.wr i j v).rings = s.rings := rfl
@[simp] theorem Chip.wr_herd (i j v : Nat) : (s.wr i j v).herd = s.herd := rfl
@[simp] theorem Chip.wr_sched (i j v : Nat) : (s.wr i j v).sched = s.sched := rfl
@[simp] theorem Chip.wr_front (i j v : Nat) : (s.wr i j v).front = s.front := rfl
@[simp] theorem Chip.wr_slotData (i j v : Nat) : (s.wr i j v).slotData = s.slotData := rfl
@[simp] theorem Chip.wr_slotPub (i j v : Nat) : (s.wr i j v).slotPub = s.slotPub := rfl
@[simp] theorem Chip.wr_slotOld (i j v : Nat) : (s.wr i j v).slotOld = s.slotOld := rfl
@[simp] theorem Chip.wr_burstData (i j v : Nat) : (s.wr i j v).burstData = s.burstData := rfl
@[simp] theorem Chip.wr_duty (i j v : Nat) : (s.wr i j v).duty = s.duty := rfl
@[simp] theorem Chip.wr_suspects (i j v : Nat) : (s.wr i j v).suspects = s.suspects := rfl
@[simp] theorem Chip.wr_settling (i j v : Nat) : (s.wr i j v).settling = s.settling := rfl
@[simp] theorem Chip.wr_acting (i j v : Nat) : (s.wr i j v).acting = s.acting := rfl
@[simp] theorem Chip.wr_prot (i j v : Nat) : (s.wr i j v).prot = s.prot := rfl
@[simp] theorem Chip.wr_protOld (i j v : Nat) : (s.wr i j v).protOld = s.protOld := rfl
@[simp] theorem Chip.wr_tHist (i j v : Nat) : (s.wr i j v).tHist = s.tHist := rfl
@[simp] theorem Chip.wr_fast (i j v : Nat) : (s.wr i j v).fast = s.fast := rfl
@[simp] theorem Chip.wr_fastOld (i j v : Nat) : (s.wr i j v).fastOld = s.fastOld := rfl
@[simp] theorem Chip.wr_elemOld (i j v : Nat) : (s.wr i j v).elemOld = s.elemOld := rfl
@[simp] theorem Chip.wr_pub (i j v : Nat) : (s.wr i j v).pub = s.pub := rfl
@[simp] theorem Chip.wr_pubOld (i j v : Nat) : (s.wr i j v).pubOld = s.pubOld := rfl
@[simp] theorem Chip.wr_limOld (i j v : Nat) : (s.wr i j v).limOld = s.limOld := rfl
@[simp] theorem Chip.wr_flagsOld (i j v : Nat) : (s.wr i j v).flagsOld = s.flagsOld := rfl
@[simp] theorem Chip.wr_elem (i j v : Nat) : (s.wr i j v).elem = s.elem := rfl
@[simp] theorem Chip.wr_estr (i j v : Nat) : (s.wr i j v).estr = s.estr := rfl
@[simp] theorem Chip.wr_pager (i j v : Nat) : (s.wr i j v).pager = s.pager := rfl
@[simp] theorem Chip.wr_tines (i j v : Nat) : (s.wr i j v).tines = s.tines := rfl
@[simp] theorem Chip.wr_images (i j v : Nat) : (s.wr i j v).images = s.images := rfl
@[simp] theorem Chip.wr_kernels (i j v : Nat) : (s.wr i j v).kernels = s.kernels := rfl
@[simp] theorem Chip.wr_cans (i j v : Nat) : (s.wr i j v).cans = s.cans := rfl
@[simp] theorem Chip.wr_release (i j v : Nat) : (s.wr i j v).release = s.release := rfl
@[simp] theorem Chip.wr_profPend (i j v : Nat) : (s.wr i j v).profPend = s.profPend := rfl
@[simp] theorem Chip.wr_profPendDom (i j v : Nat) : (s.wr i j v).profPendDom = s.profPendDom := rfl
@[simp] theorem Chip.wr_newQ (i j v : Nat) : (s.wr i j v).newQ = s.newQ := rfl
@[simp] theorem Chip.wr_power (i j v : Nat) : (s.wr i j v).power = s.power := rfl
@[simp] theorem Chip.wr_lock (i j v : Nat) : (s.wr i j v).lock = s.lock := rfl
@[simp] theorem Chip.wr_regions (i j v : Nat) : (s.wr i j v).regions = s.regions := rfl
@[simp] theorem Chip.wr_arbLast (i j v : Nat) : (s.wr i j v).arbLast = s.arbLast := rfl
@[simp] theorem Chip.wr_bleats (i j v : Nat) : (s.wr i j v).bleats = s.bleats := rfl
@[simp] theorem Chip.wr_pulses (i j v : Nat) : (s.wr i j v).pulses = s.pulses := rfl
@[simp] theorem Chip.wr_gens (i j v : Nat) : (s.wr i j v).gens = s.gens := rfl
@[simp] theorem Chip.wr_reload (i j v : Nat) : (s.wr i j v).reload = s.reload := rfl
@[simp] theorem Chip.wr_time (i j v : Nat) : (s.wr i j v).time = s.time := rfl
@[simp] theorem Chip.wr_sessions (i j v : Nat) : (s.wr i j v).sessions = s.sessions := rfl
@[simp] theorem Chip.wr_parents (i j v : Nat) : (s.wr i j v).parents = s.parents := rfl
@[simp] theorem Chip.wr_children (i j v : Nat) : (s.wr i j v).children = s.children := rfl
@[simp] theorem Chip.wr_usdo (i j v : Nat) : (s.wr i j v).usdo = s.usdo := rfl
@[simp] theorem Chip.wr_rdDom (i j v : Nat) (i' j' : Nat) : (s.wr i j v).rdDom i' j' = s.rdDom i' j' := rfl
@[simp] theorem Chip.wr_ch (i j v : Nat) (q : Nat) : (s.wr i j v).ch q = s.ch q := rfl
@[simp] theorem Chip.wr_grp (i j v : Nat) (q : Nat) : (s.wr i j v).grp q = s.grp q := rfl
@[simp] theorem Chip.wr_st (i j v : Nat) (q : Nat) : (s.wr i j v).st q = s.st q := rfl
@[simp] theorem Chip.wr_ring (i j v : Nat) (q : Nat) : (s.wr i j v).ring q = s.ring q := rfl
@[simp] theorem Chip.wr_slice (i j v : Nat) (q : Nat) : (s.wr i j v).slice q = s.slice q := rfl
@[simp] theorem Chip.wr_hrd (i j v : Nat) (q : Nat) : (s.wr i j v).hrd q = s.hrd q := rfl
@[simp] theorem Chip.wr_sus (i j v : Nat) (q : Nat) : (s.wr i j v).sus q = s.sus q := rfl

/-! ### wrI -/

@[simp] theorem Chip.wrI_fresh (b i j : Nat) (v : Int) : (s.wrI b i j v).fresh = s.fresh := rfl
@[simp] theorem Chip.wrI_ans (b i j : Nat) (v : Int) : (s.wrI b i j v).ans = s.ans := rfl
@[simp] theorem Chip.wrI_dom (b i j : Nat) (v : Int) : (s.wrI b i j v).dom = s.dom := rfl
@[simp] theorem Chip.wrI_mode (b i j : Nat) (v : Int) : (s.wrI b i j v).mode = s.mode := rfl
@[simp] theorem Chip.wrI_trans (b i j : Nat) (v : Int) : (s.wrI b i j v).trans = s.trans := rfl
@[simp] theorem Chip.wrI_readyTick (b i j : Nat) (v : Int) : (s.wrI b i j v).readyTick = s.readyTick := rfl
@[simp] theorem Chip.wrI_actReq (b i j : Nat) (v : Int) : (s.wrI b i j v).actReq = s.actReq := rfl
@[simp] theorem Chip.wrI_actAns (b i j : Nat) (v : Int) : (s.wrI b i j v).actAns = s.actAns := rfl
@[simp] theorem Chip.wrI_clk (b i j : Nat) (v : Int) : (s.wrI b i j v).clk = s.clk := rfl
@[simp] theorem Chip.wrI_up (b i j : Nat) (v : Int) : (s.wrI b i j v).up = s.up := rfl
@[simp] theorem Chip.wrI_link (b i j : Nat) (v : Int) : (s.wrI b i j v).link = s.link := rfl
@[simp] theorem Chip.wrI_trip (b i j : Nat) (v : Int) : (s.wrI b i j v).trip = s.trip := rfl
@[simp] theorem Chip.wrI_chan (b i j : Nat) (v : Int) : (s.wrI b i j v).chan = s.chan := rfl
@[simp] theorem Chip.wrI_group (b i j : Nat) (v : Int) : (s.wrI b i j v).group = s.group := rfl
@[simp] theorem Chip.wrI_adopt (b i j : Nat) (v : Int) : (s.wrI b i j v).adopt = s.adopt := rfl
@[simp] theorem Chip.wrI_strs (b i j : Nat) (v : Int) : (s.wrI b i j v).strs = s.strs := rfl
@[simp] theorem Chip.wrI_swi (b i j : Nat) (v : Int) : (s.wrI b i j v).swi = s.swi := rfl
@[simp] theorem Chip.wrI_claims (b i j : Nat) (v : Int) : (s.wrI b i j v).claims = s.claims := rfl
@[simp] theorem Chip.wrI_nextClaim (b i j : Nat) (v : Int) : (s.wrI b i j v).nextClaim = s.nextClaim := rfl
@[simp] theorem Chip.wrI_port (b i j : Nat) (v : Int) : (s.wrI b i j v).port = s.port := rfl
@[simp] theorem Chip.wrI_slices (b i j : Nat) (v : Int) : (s.wrI b i j v).slices = s.slices := rfl
@[simp] theorem Chip.wrI_rings (b i j : Nat) (v : Int) : (s.wrI b i j v).rings = s.rings := rfl
@[simp] theorem Chip.wrI_herd (b i j : Nat) (v : Int) : (s.wrI b i j v).herd = s.herd := rfl
@[simp] theorem Chip.wrI_sched (b i j : Nat) (v : Int) : (s.wrI b i j v).sched = s.sched := rfl
@[simp] theorem Chip.wrI_front (b i j : Nat) (v : Int) : (s.wrI b i j v).front = s.front := rfl
@[simp] theorem Chip.wrI_slotData (b i j : Nat) (v : Int) : (s.wrI b i j v).slotData = s.slotData := rfl
@[simp] theorem Chip.wrI_slotPub (b i j : Nat) (v : Int) : (s.wrI b i j v).slotPub = s.slotPub := rfl
@[simp] theorem Chip.wrI_slotOld (b i j : Nat) (v : Int) : (s.wrI b i j v).slotOld = s.slotOld := rfl
@[simp] theorem Chip.wrI_burstData (b i j : Nat) (v : Int) : (s.wrI b i j v).burstData = s.burstData := rfl
@[simp] theorem Chip.wrI_duty (b i j : Nat) (v : Int) : (s.wrI b i j v).duty = s.duty := rfl
@[simp] theorem Chip.wrI_suspects (b i j : Nat) (v : Int) : (s.wrI b i j v).suspects = s.suspects := rfl
@[simp] theorem Chip.wrI_settling (b i j : Nat) (v : Int) : (s.wrI b i j v).settling = s.settling := rfl
@[simp] theorem Chip.wrI_acting (b i j : Nat) (v : Int) : (s.wrI b i j v).acting = s.acting := rfl
@[simp] theorem Chip.wrI_prot (b i j : Nat) (v : Int) : (s.wrI b i j v).prot = s.prot := rfl
@[simp] theorem Chip.wrI_protOld (b i j : Nat) (v : Int) : (s.wrI b i j v).protOld = s.protOld := rfl
@[simp] theorem Chip.wrI_tHist (b i j : Nat) (v : Int) : (s.wrI b i j v).tHist = s.tHist := rfl
@[simp] theorem Chip.wrI_fast (b i j : Nat) (v : Int) : (s.wrI b i j v).fast = s.fast := rfl
@[simp] theorem Chip.wrI_fastOld (b i j : Nat) (v : Int) : (s.wrI b i j v).fastOld = s.fastOld := rfl
@[simp] theorem Chip.wrI_elemOld (b i j : Nat) (v : Int) : (s.wrI b i j v).elemOld = s.elemOld := rfl
@[simp] theorem Chip.wrI_pub (b i j : Nat) (v : Int) : (s.wrI b i j v).pub = s.pub := rfl
@[simp] theorem Chip.wrI_pubOld (b i j : Nat) (v : Int) : (s.wrI b i j v).pubOld = s.pubOld := rfl
@[simp] theorem Chip.wrI_limOld (b i j : Nat) (v : Int) : (s.wrI b i j v).limOld = s.limOld := rfl
@[simp] theorem Chip.wrI_flagsOld (b i j : Nat) (v : Int) : (s.wrI b i j v).flagsOld = s.flagsOld := rfl
@[simp] theorem Chip.wrI_elem (b i j : Nat) (v : Int) : (s.wrI b i j v).elem = s.elem := rfl
@[simp] theorem Chip.wrI_estr (b i j : Nat) (v : Int) : (s.wrI b i j v).estr = s.estr := rfl
@[simp] theorem Chip.wrI_pager (b i j : Nat) (v : Int) : (s.wrI b i j v).pager = s.pager := rfl
@[simp] theorem Chip.wrI_tines (b i j : Nat) (v : Int) : (s.wrI b i j v).tines = s.tines := rfl
@[simp] theorem Chip.wrI_images (b i j : Nat) (v : Int) : (s.wrI b i j v).images = s.images := rfl
@[simp] theorem Chip.wrI_kernels (b i j : Nat) (v : Int) : (s.wrI b i j v).kernels = s.kernels := rfl
@[simp] theorem Chip.wrI_cans (b i j : Nat) (v : Int) : (s.wrI b i j v).cans = s.cans := rfl
@[simp] theorem Chip.wrI_release (b i j : Nat) (v : Int) : (s.wrI b i j v).release = s.release := rfl
@[simp] theorem Chip.wrI_profPend (b i j : Nat) (v : Int) : (s.wrI b i j v).profPend = s.profPend := rfl
@[simp] theorem Chip.wrI_profPendDom (b i j : Nat) (v : Int) : (s.wrI b i j v).profPendDom = s.profPendDom := rfl
@[simp] theorem Chip.wrI_newQ (b i j : Nat) (v : Int) : (s.wrI b i j v).newQ = s.newQ := rfl
@[simp] theorem Chip.wrI_power (b i j : Nat) (v : Int) : (s.wrI b i j v).power = s.power := rfl
@[simp] theorem Chip.wrI_lock (b i j : Nat) (v : Int) : (s.wrI b i j v).lock = s.lock := rfl
@[simp] theorem Chip.wrI_regions (b i j : Nat) (v : Int) : (s.wrI b i j v).regions = s.regions := rfl
@[simp] theorem Chip.wrI_arbLast (b i j : Nat) (v : Int) : (s.wrI b i j v).arbLast = s.arbLast := rfl
@[simp] theorem Chip.wrI_bleats (b i j : Nat) (v : Int) : (s.wrI b i j v).bleats = s.bleats := rfl
@[simp] theorem Chip.wrI_pulses (b i j : Nat) (v : Int) : (s.wrI b i j v).pulses = s.pulses := rfl
@[simp] theorem Chip.wrI_gens (b i j : Nat) (v : Int) : (s.wrI b i j v).gens = s.gens := rfl
@[simp] theorem Chip.wrI_reload (b i j : Nat) (v : Int) : (s.wrI b i j v).reload = s.reload := rfl
@[simp] theorem Chip.wrI_time (b i j : Nat) (v : Int) : (s.wrI b i j v).time = s.time := rfl
@[simp] theorem Chip.wrI_sessions (b i j : Nat) (v : Int) : (s.wrI b i j v).sessions = s.sessions := rfl
@[simp] theorem Chip.wrI_parents (b i j : Nat) (v : Int) : (s.wrI b i j v).parents = s.parents := rfl
@[simp] theorem Chip.wrI_children (b i j : Nat) (v : Int) : (s.wrI b i j v).children = s.children := rfl
@[simp] theorem Chip.wrI_usdo (b i j : Nat) (v : Int) : (s.wrI b i j v).usdo = s.usdo := rfl
@[simp] theorem Chip.wrI_rdDom (b i j : Nat) (v : Int) (i' j' : Nat) : (s.wrI b i j v).rdDom i' j' = s.rdDom i' j' := rfl
@[simp] theorem Chip.wrI_ch (b i j : Nat) (v : Int) (q : Nat) : (s.wrI b i j v).ch q = s.ch q := rfl
@[simp] theorem Chip.wrI_grp (b i j : Nat) (v : Int) (q : Nat) : (s.wrI b i j v).grp q = s.grp q := rfl
@[simp] theorem Chip.wrI_st (b i j : Nat) (v : Int) (q : Nat) : (s.wrI b i j v).st q = s.st q := rfl
@[simp] theorem Chip.wrI_ring (b i j : Nat) (v : Int) (q : Nat) : (s.wrI b i j v).ring q = s.ring q := rfl
@[simp] theorem Chip.wrI_slice (b i j : Nat) (v : Int) (q : Nat) : (s.wrI b i j v).slice q = s.slice q := rfl
@[simp] theorem Chip.wrI_hrd (b i j : Nat) (v : Int) (q : Nat) : (s.wrI b i j v).hrd q = s.hrd q := rfl
@[simp] theorem Chip.wrI_sus (b i j : Nat) (v : Int) (q : Nat) : (s.wrI b i j v).sus q = s.sus q := rfl

/-! ### add -/

@[simp] theorem Chip.add_fresh (b i j n : Nat) : (s.add b i j n).fresh = s.fresh := rfl
@[simp] theorem Chip.add_ans (b i j n : Nat) : (s.add b i j n).ans = s.ans := rfl
@[simp] theorem Chip.add_dom (b i j n : Nat) : (s.add b i j n).dom = s.dom := rfl
@[simp] theorem Chip.add_mode (b i j n : Nat) : (s.add b i j n).mode = s.mode := rfl
@[simp] theorem Chip.add_trans (b i j n : Nat) : (s.add b i j n).trans = s.trans := rfl
@[simp] theorem Chip.add_readyTick (b i j n : Nat) : (s.add b i j n).readyTick = s.readyTick := rfl
@[simp] theorem Chip.add_actReq (b i j n : Nat) : (s.add b i j n).actReq = s.actReq := rfl
@[simp] theorem Chip.add_actAns (b i j n : Nat) : (s.add b i j n).actAns = s.actAns := rfl
@[simp] theorem Chip.add_clk (b i j n : Nat) : (s.add b i j n).clk = s.clk := rfl
@[simp] theorem Chip.add_up (b i j n : Nat) : (s.add b i j n).up = s.up := rfl
@[simp] theorem Chip.add_link (b i j n : Nat) : (s.add b i j n).link = s.link := rfl
@[simp] theorem Chip.add_trip (b i j n : Nat) : (s.add b i j n).trip = s.trip := rfl
@[simp] theorem Chip.add_chan (b i j n : Nat) : (s.add b i j n).chan = s.chan := rfl
@[simp] theorem Chip.add_group (b i j n : Nat) : (s.add b i j n).group = s.group := rfl
@[simp] theorem Chip.add_adopt (b i j n : Nat) : (s.add b i j n).adopt = s.adopt := rfl
@[simp] theorem Chip.add_strs (b i j n : Nat) : (s.add b i j n).strs = s.strs := rfl
@[simp] theorem Chip.add_swi (b i j n : Nat) : (s.add b i j n).swi = s.swi := rfl
@[simp] theorem Chip.add_claims (b i j n : Nat) : (s.add b i j n).claims = s.claims := rfl
@[simp] theorem Chip.add_nextClaim (b i j n : Nat) : (s.add b i j n).nextClaim = s.nextClaim := rfl
@[simp] theorem Chip.add_port (b i j n : Nat) : (s.add b i j n).port = s.port := rfl
@[simp] theorem Chip.add_slices (b i j n : Nat) : (s.add b i j n).slices = s.slices := rfl
@[simp] theorem Chip.add_rings (b i j n : Nat) : (s.add b i j n).rings = s.rings := rfl
@[simp] theorem Chip.add_herd (b i j n : Nat) : (s.add b i j n).herd = s.herd := rfl
@[simp] theorem Chip.add_sched (b i j n : Nat) : (s.add b i j n).sched = s.sched := rfl
@[simp] theorem Chip.add_front (b i j n : Nat) : (s.add b i j n).front = s.front := rfl
@[simp] theorem Chip.add_slotData (b i j n : Nat) : (s.add b i j n).slotData = s.slotData := rfl
@[simp] theorem Chip.add_slotPub (b i j n : Nat) : (s.add b i j n).slotPub = s.slotPub := rfl
@[simp] theorem Chip.add_slotOld (b i j n : Nat) : (s.add b i j n).slotOld = s.slotOld := rfl
@[simp] theorem Chip.add_burstData (b i j n : Nat) : (s.add b i j n).burstData = s.burstData := rfl
@[simp] theorem Chip.add_duty (b i j n : Nat) : (s.add b i j n).duty = s.duty := rfl
@[simp] theorem Chip.add_suspects (b i j n : Nat) : (s.add b i j n).suspects = s.suspects := rfl
@[simp] theorem Chip.add_settling (b i j n : Nat) : (s.add b i j n).settling = s.settling := rfl
@[simp] theorem Chip.add_acting (b i j n : Nat) : (s.add b i j n).acting = s.acting := rfl
@[simp] theorem Chip.add_prot (b i j n : Nat) : (s.add b i j n).prot = s.prot := rfl
@[simp] theorem Chip.add_protOld (b i j n : Nat) : (s.add b i j n).protOld = s.protOld := rfl
@[simp] theorem Chip.add_tHist (b i j n : Nat) : (s.add b i j n).tHist = s.tHist := rfl
@[simp] theorem Chip.add_fast (b i j n : Nat) : (s.add b i j n).fast = s.fast := rfl
@[simp] theorem Chip.add_fastOld (b i j n : Nat) : (s.add b i j n).fastOld = s.fastOld := rfl
@[simp] theorem Chip.add_elemOld (b i j n : Nat) : (s.add b i j n).elemOld = s.elemOld := rfl
@[simp] theorem Chip.add_pub (b i j n : Nat) : (s.add b i j n).pub = s.pub := rfl
@[simp] theorem Chip.add_pubOld (b i j n : Nat) : (s.add b i j n).pubOld = s.pubOld := rfl
@[simp] theorem Chip.add_limOld (b i j n : Nat) : (s.add b i j n).limOld = s.limOld := rfl
@[simp] theorem Chip.add_flagsOld (b i j n : Nat) : (s.add b i j n).flagsOld = s.flagsOld := rfl
@[simp] theorem Chip.add_elem (b i j n : Nat) : (s.add b i j n).elem = s.elem := rfl
@[simp] theorem Chip.add_estr (b i j n : Nat) : (s.add b i j n).estr = s.estr := rfl
@[simp] theorem Chip.add_pager (b i j n : Nat) : (s.add b i j n).pager = s.pager := rfl
@[simp] theorem Chip.add_tines (b i j n : Nat) : (s.add b i j n).tines = s.tines := rfl
@[simp] theorem Chip.add_images (b i j n : Nat) : (s.add b i j n).images = s.images := rfl
@[simp] theorem Chip.add_kernels (b i j n : Nat) : (s.add b i j n).kernels = s.kernels := rfl
@[simp] theorem Chip.add_cans (b i j n : Nat) : (s.add b i j n).cans = s.cans := rfl
@[simp] theorem Chip.add_release (b i j n : Nat) : (s.add b i j n).release = s.release := rfl
@[simp] theorem Chip.add_profPend (b i j n : Nat) : (s.add b i j n).profPend = s.profPend := rfl
@[simp] theorem Chip.add_profPendDom (b i j n : Nat) : (s.add b i j n).profPendDom = s.profPendDom := rfl
@[simp] theorem Chip.add_newQ (b i j n : Nat) : (s.add b i j n).newQ = s.newQ := rfl
@[simp] theorem Chip.add_power (b i j n : Nat) : (s.add b i j n).power = s.power := rfl
@[simp] theorem Chip.add_lock (b i j n : Nat) : (s.add b i j n).lock = s.lock := rfl
@[simp] theorem Chip.add_regions (b i j n : Nat) : (s.add b i j n).regions = s.regions := rfl
@[simp] theorem Chip.add_arbLast (b i j n : Nat) : (s.add b i j n).arbLast = s.arbLast := rfl
@[simp] theorem Chip.add_bleats (b i j n : Nat) : (s.add b i j n).bleats = s.bleats := rfl
@[simp] theorem Chip.add_pulses (b i j n : Nat) : (s.add b i j n).pulses = s.pulses := rfl
@[simp] theorem Chip.add_gens (b i j n : Nat) : (s.add b i j n).gens = s.gens := rfl
@[simp] theorem Chip.add_reload (b i j n : Nat) : (s.add b i j n).reload = s.reload := rfl
@[simp] theorem Chip.add_time (b i j n : Nat) : (s.add b i j n).time = s.time := rfl
@[simp] theorem Chip.add_sessions (b i j n : Nat) : (s.add b i j n).sessions = s.sessions := rfl
@[simp] theorem Chip.add_parents (b i j n : Nat) : (s.add b i j n).parents = s.parents := rfl
@[simp] theorem Chip.add_children (b i j n : Nat) : (s.add b i j n).children = s.children := rfl
@[simp] theorem Chip.add_usdo (b i j n : Nat) : (s.add b i j n).usdo = s.usdo := rfl
@[simp] theorem Chip.add_rdDom (b i j n : Nat) (i' j' : Nat) : (s.add b i j n).rdDom i' j' = s.rdDom i' j' := rfl
@[simp] theorem Chip.add_ch (b i j n : Nat) (q : Nat) : (s.add b i j n).ch q = s.ch q := rfl
@[simp] theorem Chip.add_grp (b i j n : Nat) (q : Nat) : (s.add b i j n).grp q = s.grp q := rfl
@[simp] theorem Chip.add_st (b i j n : Nat) (q : Nat) : (s.add b i j n).st q = s.st q := rfl
@[simp] theorem Chip.add_ring (b i j n : Nat) (q : Nat) : (s.add b i j n).ring q = s.ring q := rfl
@[simp] theorem Chip.add_slice (b i j n : Nat) (q : Nat) : (s.add b i j n).slice q = s.slice q := rfl
@[simp] theorem Chip.add_hrd (b i j n : Nat) (q : Nat) : (s.add b i j n).hrd q = s.hrd q := rfl
@[simp] theorem Chip.add_sus (b i j n : Nat) (q : Nat) : (s.add b i j n).sus q = s.sus q := rfl

/-! ### inc -/

@[simp] theorem Chip.inc_fresh (b i j : Nat) : (s.inc b i j).fresh = s.fresh := rfl
@[simp] theorem Chip.inc_ans (b i j : Nat) : (s.inc b i j).ans = s.ans := rfl
@[simp] theorem Chip.inc_dom (b i j : Nat) : (s.inc b i j).dom = s.dom := rfl
@[simp] theorem Chip.inc_mode (b i j : Nat) : (s.inc b i j).mode = s.mode := rfl
@[simp] theorem Chip.inc_trans (b i j : Nat) : (s.inc b i j).trans = s.trans := rfl
@[simp] theorem Chip.inc_readyTick (b i j : Nat) : (s.inc b i j).readyTick = s.readyTick := rfl
@[simp] theorem Chip.inc_actReq (b i j : Nat) : (s.inc b i j).actReq = s.actReq := rfl
@[simp] theorem Chip.inc_actAns (b i j : Nat) : (s.inc b i j).actAns = s.actAns := rfl
@[simp] theorem Chip.inc_clk (b i j : Nat) : (s.inc b i j).clk = s.clk := rfl
@[simp] theorem Chip.inc_up (b i j : Nat) : (s.inc b i j).up = s.up := rfl
@[simp] theorem Chip.inc_link (b i j : Nat) : (s.inc b i j).link = s.link := rfl
@[simp] theorem Chip.inc_trip (b i j : Nat) : (s.inc b i j).trip = s.trip := rfl
@[simp] theorem Chip.inc_chan (b i j : Nat) : (s.inc b i j).chan = s.chan := rfl
@[simp] theorem Chip.inc_group (b i j : Nat) : (s.inc b i j).group = s.group := rfl
@[simp] theorem Chip.inc_adopt (b i j : Nat) : (s.inc b i j).adopt = s.adopt := rfl
@[simp] theorem Chip.inc_strs (b i j : Nat) : (s.inc b i j).strs = s.strs := rfl
@[simp] theorem Chip.inc_swi (b i j : Nat) : (s.inc b i j).swi = s.swi := rfl
@[simp] theorem Chip.inc_claims (b i j : Nat) : (s.inc b i j).claims = s.claims := rfl
@[simp] theorem Chip.inc_nextClaim (b i j : Nat) : (s.inc b i j).nextClaim = s.nextClaim := rfl
@[simp] theorem Chip.inc_port (b i j : Nat) : (s.inc b i j).port = s.port := rfl
@[simp] theorem Chip.inc_slices (b i j : Nat) : (s.inc b i j).slices = s.slices := rfl
@[simp] theorem Chip.inc_rings (b i j : Nat) : (s.inc b i j).rings = s.rings := rfl
@[simp] theorem Chip.inc_herd (b i j : Nat) : (s.inc b i j).herd = s.herd := rfl
@[simp] theorem Chip.inc_sched (b i j : Nat) : (s.inc b i j).sched = s.sched := rfl
@[simp] theorem Chip.inc_front (b i j : Nat) : (s.inc b i j).front = s.front := rfl
@[simp] theorem Chip.inc_slotData (b i j : Nat) : (s.inc b i j).slotData = s.slotData := rfl
@[simp] theorem Chip.inc_slotPub (b i j : Nat) : (s.inc b i j).slotPub = s.slotPub := rfl
@[simp] theorem Chip.inc_slotOld (b i j : Nat) : (s.inc b i j).slotOld = s.slotOld := rfl
@[simp] theorem Chip.inc_burstData (b i j : Nat) : (s.inc b i j).burstData = s.burstData := rfl
@[simp] theorem Chip.inc_duty (b i j : Nat) : (s.inc b i j).duty = s.duty := rfl
@[simp] theorem Chip.inc_suspects (b i j : Nat) : (s.inc b i j).suspects = s.suspects := rfl
@[simp] theorem Chip.inc_settling (b i j : Nat) : (s.inc b i j).settling = s.settling := rfl
@[simp] theorem Chip.inc_acting (b i j : Nat) : (s.inc b i j).acting = s.acting := rfl
@[simp] theorem Chip.inc_prot (b i j : Nat) : (s.inc b i j).prot = s.prot := rfl
@[simp] theorem Chip.inc_protOld (b i j : Nat) : (s.inc b i j).protOld = s.protOld := rfl
@[simp] theorem Chip.inc_tHist (b i j : Nat) : (s.inc b i j).tHist = s.tHist := rfl
@[simp] theorem Chip.inc_fast (b i j : Nat) : (s.inc b i j).fast = s.fast := rfl
@[simp] theorem Chip.inc_fastOld (b i j : Nat) : (s.inc b i j).fastOld = s.fastOld := rfl
@[simp] theorem Chip.inc_elemOld (b i j : Nat) : (s.inc b i j).elemOld = s.elemOld := rfl
@[simp] theorem Chip.inc_pub (b i j : Nat) : (s.inc b i j).pub = s.pub := rfl
@[simp] theorem Chip.inc_pubOld (b i j : Nat) : (s.inc b i j).pubOld = s.pubOld := rfl
@[simp] theorem Chip.inc_limOld (b i j : Nat) : (s.inc b i j).limOld = s.limOld := rfl
@[simp] theorem Chip.inc_flagsOld (b i j : Nat) : (s.inc b i j).flagsOld = s.flagsOld := rfl
@[simp] theorem Chip.inc_elem (b i j : Nat) : (s.inc b i j).elem = s.elem := rfl
@[simp] theorem Chip.inc_estr (b i j : Nat) : (s.inc b i j).estr = s.estr := rfl
@[simp] theorem Chip.inc_pager (b i j : Nat) : (s.inc b i j).pager = s.pager := rfl
@[simp] theorem Chip.inc_tines (b i j : Nat) : (s.inc b i j).tines = s.tines := rfl
@[simp] theorem Chip.inc_images (b i j : Nat) : (s.inc b i j).images = s.images := rfl
@[simp] theorem Chip.inc_kernels (b i j : Nat) : (s.inc b i j).kernels = s.kernels := rfl
@[simp] theorem Chip.inc_cans (b i j : Nat) : (s.inc b i j).cans = s.cans := rfl
@[simp] theorem Chip.inc_release (b i j : Nat) : (s.inc b i j).release = s.release := rfl
@[simp] theorem Chip.inc_profPend (b i j : Nat) : (s.inc b i j).profPend = s.profPend := rfl
@[simp] theorem Chip.inc_profPendDom (b i j : Nat) : (s.inc b i j).profPendDom = s.profPendDom := rfl
@[simp] theorem Chip.inc_newQ (b i j : Nat) : (s.inc b i j).newQ = s.newQ := rfl
@[simp] theorem Chip.inc_power (b i j : Nat) : (s.inc b i j).power = s.power := rfl
@[simp] theorem Chip.inc_lock (b i j : Nat) : (s.inc b i j).lock = s.lock := rfl
@[simp] theorem Chip.inc_regions (b i j : Nat) : (s.inc b i j).regions = s.regions := rfl
@[simp] theorem Chip.inc_arbLast (b i j : Nat) : (s.inc b i j).arbLast = s.arbLast := rfl
@[simp] theorem Chip.inc_bleats (b i j : Nat) : (s.inc b i j).bleats = s.bleats := rfl
@[simp] theorem Chip.inc_pulses (b i j : Nat) : (s.inc b i j).pulses = s.pulses := rfl
@[simp] theorem Chip.inc_gens (b i j : Nat) : (s.inc b i j).gens = s.gens := rfl
@[simp] theorem Chip.inc_reload (b i j : Nat) : (s.inc b i j).reload = s.reload := rfl
@[simp] theorem Chip.inc_time (b i j : Nat) : (s.inc b i j).time = s.time := rfl
@[simp] theorem Chip.inc_sessions (b i j : Nat) : (s.inc b i j).sessions = s.sessions := rfl
@[simp] theorem Chip.inc_parents (b i j : Nat) : (s.inc b i j).parents = s.parents := rfl
@[simp] theorem Chip.inc_children (b i j : Nat) : (s.inc b i j).children = s.children := rfl
@[simp] theorem Chip.inc_usdo (b i j : Nat) : (s.inc b i j).usdo = s.usdo := rfl
@[simp] theorem Chip.inc_rdDom (b i j : Nat) (i' j' : Nat) : (s.inc b i j).rdDom i' j' = s.rdDom i' j' := rfl
@[simp] theorem Chip.inc_ch (b i j : Nat) (q : Nat) : (s.inc b i j).ch q = s.ch q := rfl
@[simp] theorem Chip.inc_grp (b i j : Nat) (q : Nat) : (s.inc b i j).grp q = s.grp q := rfl
@[simp] theorem Chip.inc_st (b i j : Nat) (q : Nat) : (s.inc b i j).st q = s.st q := rfl
@[simp] theorem Chip.inc_ring (b i j : Nat) (q : Nat) : (s.inc b i j).ring q = s.ring q := rfl
@[simp] theorem Chip.inc_slice (b i j : Nat) (q : Nat) : (s.inc b i j).slice q = s.slice q := rfl
@[simp] theorem Chip.inc_hrd (b i j : Nat) (q : Nat) : (s.inc b i j).hrd q = s.hrd q := rfl
@[simp] theorem Chip.inc_sus (b i j : Nat) (q : Nat) : (s.inc b i j).sus q = s.sus q := rfl

/-! ### wrBit -/

@[simp] theorem Chip.wrBit_fresh (i j b : Nat) (v : Bool) : (s.wrBit i j b v).fresh = s.fresh := rfl
@[simp] theorem Chip.wrBit_ans (i j b : Nat) (v : Bool) : (s.wrBit i j b v).ans = s.ans := rfl
@[simp] theorem Chip.wrBit_dom (i j b : Nat) (v : Bool) : (s.wrBit i j b v).dom = s.dom := rfl
@[simp] theorem Chip.wrBit_mode (i j b : Nat) (v : Bool) : (s.wrBit i j b v).mode = s.mode := rfl
@[simp] theorem Chip.wrBit_trans (i j b : Nat) (v : Bool) : (s.wrBit i j b v).trans = s.trans := rfl
@[simp] theorem Chip.wrBit_readyTick (i j b : Nat) (v : Bool) : (s.wrBit i j b v).readyTick = s.readyTick := rfl
@[simp] theorem Chip.wrBit_actReq (i j b : Nat) (v : Bool) : (s.wrBit i j b v).actReq = s.actReq := rfl
@[simp] theorem Chip.wrBit_actAns (i j b : Nat) (v : Bool) : (s.wrBit i j b v).actAns = s.actAns := rfl
@[simp] theorem Chip.wrBit_clk (i j b : Nat) (v : Bool) : (s.wrBit i j b v).clk = s.clk := rfl
@[simp] theorem Chip.wrBit_up (i j b : Nat) (v : Bool) : (s.wrBit i j b v).up = s.up := rfl
@[simp] theorem Chip.wrBit_link (i j b : Nat) (v : Bool) : (s.wrBit i j b v).link = s.link := rfl
@[simp] theorem Chip.wrBit_trip (i j b : Nat) (v : Bool) : (s.wrBit i j b v).trip = s.trip := rfl
@[simp] theorem Chip.wrBit_chan (i j b : Nat) (v : Bool) : (s.wrBit i j b v).chan = s.chan := rfl
@[simp] theorem Chip.wrBit_group (i j b : Nat) (v : Bool) : (s.wrBit i j b v).group = s.group := rfl
@[simp] theorem Chip.wrBit_adopt (i j b : Nat) (v : Bool) : (s.wrBit i j b v).adopt = s.adopt := rfl
@[simp] theorem Chip.wrBit_strs (i j b : Nat) (v : Bool) : (s.wrBit i j b v).strs = s.strs := rfl
@[simp] theorem Chip.wrBit_swi (i j b : Nat) (v : Bool) : (s.wrBit i j b v).swi = s.swi := rfl
@[simp] theorem Chip.wrBit_claims (i j b : Nat) (v : Bool) : (s.wrBit i j b v).claims = s.claims := rfl
@[simp] theorem Chip.wrBit_nextClaim (i j b : Nat) (v : Bool) : (s.wrBit i j b v).nextClaim = s.nextClaim := rfl
@[simp] theorem Chip.wrBit_port (i j b : Nat) (v : Bool) : (s.wrBit i j b v).port = s.port := rfl
@[simp] theorem Chip.wrBit_slices (i j b : Nat) (v : Bool) : (s.wrBit i j b v).slices = s.slices := rfl
@[simp] theorem Chip.wrBit_rings (i j b : Nat) (v : Bool) : (s.wrBit i j b v).rings = s.rings := rfl
@[simp] theorem Chip.wrBit_herd (i j b : Nat) (v : Bool) : (s.wrBit i j b v).herd = s.herd := rfl
@[simp] theorem Chip.wrBit_sched (i j b : Nat) (v : Bool) : (s.wrBit i j b v).sched = s.sched := rfl
@[simp] theorem Chip.wrBit_front (i j b : Nat) (v : Bool) : (s.wrBit i j b v).front = s.front := rfl
@[simp] theorem Chip.wrBit_slotData (i j b : Nat) (v : Bool) : (s.wrBit i j b v).slotData = s.slotData := rfl
@[simp] theorem Chip.wrBit_slotPub (i j b : Nat) (v : Bool) : (s.wrBit i j b v).slotPub = s.slotPub := rfl
@[simp] theorem Chip.wrBit_slotOld (i j b : Nat) (v : Bool) : (s.wrBit i j b v).slotOld = s.slotOld := rfl
@[simp] theorem Chip.wrBit_burstData (i j b : Nat) (v : Bool) : (s.wrBit i j b v).burstData = s.burstData := rfl
@[simp] theorem Chip.wrBit_duty (i j b : Nat) (v : Bool) : (s.wrBit i j b v).duty = s.duty := rfl
@[simp] theorem Chip.wrBit_suspects (i j b : Nat) (v : Bool) : (s.wrBit i j b v).suspects = s.suspects := rfl
@[simp] theorem Chip.wrBit_settling (i j b : Nat) (v : Bool) : (s.wrBit i j b v).settling = s.settling := rfl
@[simp] theorem Chip.wrBit_acting (i j b : Nat) (v : Bool) : (s.wrBit i j b v).acting = s.acting := rfl
@[simp] theorem Chip.wrBit_prot (i j b : Nat) (v : Bool) : (s.wrBit i j b v).prot = s.prot := rfl
@[simp] theorem Chip.wrBit_protOld (i j b : Nat) (v : Bool) : (s.wrBit i j b v).protOld = s.protOld := rfl
@[simp] theorem Chip.wrBit_tHist (i j b : Nat) (v : Bool) : (s.wrBit i j b v).tHist = s.tHist := rfl
@[simp] theorem Chip.wrBit_fast (i j b : Nat) (v : Bool) : (s.wrBit i j b v).fast = s.fast := rfl
@[simp] theorem Chip.wrBit_fastOld (i j b : Nat) (v : Bool) : (s.wrBit i j b v).fastOld = s.fastOld := rfl
@[simp] theorem Chip.wrBit_elemOld (i j b : Nat) (v : Bool) : (s.wrBit i j b v).elemOld = s.elemOld := rfl
@[simp] theorem Chip.wrBit_pub (i j b : Nat) (v : Bool) : (s.wrBit i j b v).pub = s.pub := rfl
@[simp] theorem Chip.wrBit_pubOld (i j b : Nat) (v : Bool) : (s.wrBit i j b v).pubOld = s.pubOld := rfl
@[simp] theorem Chip.wrBit_limOld (i j b : Nat) (v : Bool) : (s.wrBit i j b v).limOld = s.limOld := rfl
@[simp] theorem Chip.wrBit_flagsOld (i j b : Nat) (v : Bool) : (s.wrBit i j b v).flagsOld = s.flagsOld := rfl
@[simp] theorem Chip.wrBit_elem (i j b : Nat) (v : Bool) : (s.wrBit i j b v).elem = s.elem := rfl
@[simp] theorem Chip.wrBit_estr (i j b : Nat) (v : Bool) : (s.wrBit i j b v).estr = s.estr := rfl
@[simp] theorem Chip.wrBit_pager (i j b : Nat) (v : Bool) : (s.wrBit i j b v).pager = s.pager := rfl
@[simp] theorem Chip.wrBit_tines (i j b : Nat) (v : Bool) : (s.wrBit i j b v).tines = s.tines := rfl
@[simp] theorem Chip.wrBit_images (i j b : Nat) (v : Bool) : (s.wrBit i j b v).images = s.images := rfl
@[simp] theorem Chip.wrBit_kernels (i j b : Nat) (v : Bool) : (s.wrBit i j b v).kernels = s.kernels := rfl
@[simp] theorem Chip.wrBit_cans (i j b : Nat) (v : Bool) : (s.wrBit i j b v).cans = s.cans := rfl
@[simp] theorem Chip.wrBit_release (i j b : Nat) (v : Bool) : (s.wrBit i j b v).release = s.release := rfl
@[simp] theorem Chip.wrBit_profPend (i j b : Nat) (v : Bool) : (s.wrBit i j b v).profPend = s.profPend := rfl
@[simp] theorem Chip.wrBit_profPendDom (i j b : Nat) (v : Bool) : (s.wrBit i j b v).profPendDom = s.profPendDom := rfl
@[simp] theorem Chip.wrBit_newQ (i j b : Nat) (v : Bool) : (s.wrBit i j b v).newQ = s.newQ := rfl
@[simp] theorem Chip.wrBit_power (i j b : Nat) (v : Bool) : (s.wrBit i j b v).power = s.power := rfl
@[simp] theorem Chip.wrBit_lock (i j b : Nat) (v : Bool) : (s.wrBit i j b v).lock = s.lock := rfl
@[simp] theorem Chip.wrBit_regions (i j b : Nat) (v : Bool) : (s.wrBit i j b v).regions = s.regions := rfl
@[simp] theorem Chip.wrBit_arbLast (i j b : Nat) (v : Bool) : (s.wrBit i j b v).arbLast = s.arbLast := rfl
@[simp] theorem Chip.wrBit_bleats (i j b : Nat) (v : Bool) : (s.wrBit i j b v).bleats = s.bleats := rfl
@[simp] theorem Chip.wrBit_pulses (i j b : Nat) (v : Bool) : (s.wrBit i j b v).pulses = s.pulses := rfl
@[simp] theorem Chip.wrBit_gens (i j b : Nat) (v : Bool) : (s.wrBit i j b v).gens = s.gens := rfl
@[simp] theorem Chip.wrBit_reload (i j b : Nat) (v : Bool) : (s.wrBit i j b v).reload = s.reload := rfl
@[simp] theorem Chip.wrBit_time (i j b : Nat) (v : Bool) : (s.wrBit i j b v).time = s.time := rfl
@[simp] theorem Chip.wrBit_sessions (i j b : Nat) (v : Bool) : (s.wrBit i j b v).sessions = s.sessions := rfl
@[simp] theorem Chip.wrBit_parents (i j b : Nat) (v : Bool) : (s.wrBit i j b v).parents = s.parents := rfl
@[simp] theorem Chip.wrBit_children (i j b : Nat) (v : Bool) : (s.wrBit i j b v).children = s.children := rfl
@[simp] theorem Chip.wrBit_usdo (i j b : Nat) (v : Bool) : (s.wrBit i j b v).usdo = s.usdo := rfl
@[simp] theorem Chip.wrBit_rdDom (i j b : Nat) (v : Bool) (i' j' : Nat) : (s.wrBit i j b v).rdDom i' j' = s.rdDom i' j' := rfl
@[simp] theorem Chip.wrBit_ch (i j b : Nat) (v : Bool) (q : Nat) : (s.wrBit i j b v).ch q = s.ch q := rfl
@[simp] theorem Chip.wrBit_grp (i j b : Nat) (v : Bool) (q : Nat) : (s.wrBit i j b v).grp q = s.grp q := rfl
@[simp] theorem Chip.wrBit_st (i j b : Nat) (v : Bool) (q : Nat) : (s.wrBit i j b v).st q = s.st q := rfl
@[simp] theorem Chip.wrBit_ring (i j b : Nat) (v : Bool) (q : Nat) : (s.wrBit i j b v).ring q = s.ring q := rfl
@[simp] theorem Chip.wrBit_slice (i j b : Nat) (v : Bool) (q : Nat) : (s.wrBit i j b v).slice q = s.slice q := rfl
@[simp] theorem Chip.wrBit_hrd (i j b : Nat) (v : Bool) (q : Nat) : (s.wrBit i j b v).hrd q = s.hrd q := rfl
@[simp] theorem Chip.wrBit_sus (i j b : Nat) (v : Bool) (q : Nat) : (s.wrBit i j b v).sus q = s.sus q := rfl

/-! ### flag -/

@[simp] theorem Chip.flag_fresh (i j b : Nat) : (s.flag i j b).fresh = s.fresh := by unfold Chip.flag; split <;> rfl
@[simp] theorem Chip.flag_ans (i j b : Nat) : (s.flag i j b).ans = s.ans := by unfold Chip.flag; split <;> rfl
@[simp] theorem Chip.flag_dom (i j b : Nat) : (s.flag i j b).dom = s.dom := by unfold Chip.flag; split <;> rfl
@[simp] theorem Chip.flag_mode (i j b : Nat) : (s.flag i j b).mode = s.mode := by unfold Chip.flag; split <;> rfl
@[simp] theorem Chip.flag_trans (i j b : Nat) : (s.flag i j b).trans = s.trans := by unfold Chip.flag; split <;> rfl
@[simp] theorem Chip.flag_readyTick (i j b : Nat) : (s.flag i j b).readyTick = s.readyTick := by unfold Chip.flag; split <;> rfl
@[simp] theorem Chip.flag_actReq (i j b : Nat) : (s.flag i j b).actReq = s.actReq := by unfold Chip.flag; split <;> rfl
@[simp] theorem Chip.flag_actAns (i j b : Nat) : (s.flag i j b).actAns = s.actAns := by unfold Chip.flag; split <;> rfl
@[simp] theorem Chip.flag_clk (i j b : Nat) : (s.flag i j b).clk = s.clk := by unfold Chip.flag; split <;> rfl
@[simp] theorem Chip.flag_up (i j b : Nat) : (s.flag i j b).up = s.up := by unfold Chip.flag; split <;> rfl
@[simp] theorem Chip.flag_link (i j b : Nat) : (s.flag i j b).link = s.link := by unfold Chip.flag; split <;> rfl
@[simp] theorem Chip.flag_trip (i j b : Nat) : (s.flag i j b).trip = s.trip := by unfold Chip.flag; split <;> rfl
@[simp] theorem Chip.flag_chan (i j b : Nat) : (s.flag i j b).chan = s.chan := by unfold Chip.flag; split <;> rfl
@[simp] theorem Chip.flag_group (i j b : Nat) : (s.flag i j b).group = s.group := by unfold Chip.flag; split <;> rfl
@[simp] theorem Chip.flag_adopt (i j b : Nat) : (s.flag i j b).adopt = s.adopt := by unfold Chip.flag; split <;> rfl
@[simp] theorem Chip.flag_strs (i j b : Nat) : (s.flag i j b).strs = s.strs := by unfold Chip.flag; split <;> rfl
@[simp] theorem Chip.flag_swi (i j b : Nat) : (s.flag i j b).swi = s.swi := by unfold Chip.flag; split <;> rfl
@[simp] theorem Chip.flag_claims (i j b : Nat) : (s.flag i j b).claims = s.claims := by unfold Chip.flag; split <;> rfl
@[simp] theorem Chip.flag_nextClaim (i j b : Nat) : (s.flag i j b).nextClaim = s.nextClaim := by unfold Chip.flag; split <;> rfl
@[simp] theorem Chip.flag_port (i j b : Nat) : (s.flag i j b).port = s.port := by unfold Chip.flag; split <;> rfl
@[simp] theorem Chip.flag_slices (i j b : Nat) : (s.flag i j b).slices = s.slices := by unfold Chip.flag; split <;> rfl
@[simp] theorem Chip.flag_rings (i j b : Nat) : (s.flag i j b).rings = s.rings := by unfold Chip.flag; split <;> rfl
@[simp] theorem Chip.flag_herd (i j b : Nat) : (s.flag i j b).herd = s.herd := by unfold Chip.flag; split <;> rfl
@[simp] theorem Chip.flag_sched (i j b : Nat) : (s.flag i j b).sched = s.sched := by unfold Chip.flag; split <;> rfl
@[simp] theorem Chip.flag_front (i j b : Nat) : (s.flag i j b).front = s.front := by unfold Chip.flag; split <;> rfl
@[simp] theorem Chip.flag_slotData (i j b : Nat) : (s.flag i j b).slotData = s.slotData := by unfold Chip.flag; split <;> rfl
@[simp] theorem Chip.flag_slotPub (i j b : Nat) : (s.flag i j b).slotPub = s.slotPub := by unfold Chip.flag; split <;> rfl
@[simp] theorem Chip.flag_slotOld (i j b : Nat) : (s.flag i j b).slotOld = s.slotOld := by unfold Chip.flag; split <;> rfl
@[simp] theorem Chip.flag_burstData (i j b : Nat) : (s.flag i j b).burstData = s.burstData := by unfold Chip.flag; split <;> rfl
@[simp] theorem Chip.flag_duty (i j b : Nat) : (s.flag i j b).duty = s.duty := by unfold Chip.flag; split <;> rfl
@[simp] theorem Chip.flag_suspects (i j b : Nat) : (s.flag i j b).suspects = s.suspects := by unfold Chip.flag; split <;> rfl
@[simp] theorem Chip.flag_settling (i j b : Nat) : (s.flag i j b).settling = s.settling := by unfold Chip.flag; split <;> rfl
@[simp] theorem Chip.flag_acting (i j b : Nat) : (s.flag i j b).acting = s.acting := by unfold Chip.flag; split <;> rfl
@[simp] theorem Chip.flag_prot (i j b : Nat) : (s.flag i j b).prot = s.prot := by unfold Chip.flag; split <;> rfl
@[simp] theorem Chip.flag_protOld (i j b : Nat) : (s.flag i j b).protOld = s.protOld := by unfold Chip.flag; split <;> rfl
@[simp] theorem Chip.flag_tHist (i j b : Nat) : (s.flag i j b).tHist = s.tHist := by unfold Chip.flag; split <;> rfl
@[simp] theorem Chip.flag_fast (i j b : Nat) : (s.flag i j b).fast = s.fast := by unfold Chip.flag; split <;> rfl
@[simp] theorem Chip.flag_fastOld (i j b : Nat) : (s.flag i j b).fastOld = s.fastOld := by unfold Chip.flag; split <;> rfl
@[simp] theorem Chip.flag_elemOld (i j b : Nat) : (s.flag i j b).elemOld = s.elemOld := by unfold Chip.flag; split <;> rfl
@[simp] theorem Chip.flag_pub (i j b : Nat) : (s.flag i j b).pub = s.pub := by unfold Chip.flag; split <;> rfl
@[simp] theorem Chip.flag_pubOld (i j b : Nat) : (s.flag i j b).pubOld = s.pubOld := by unfold Chip.flag; split <;> rfl
@[simp] theorem Chip.flag_limOld (i j b : Nat) : (s.flag i j b).limOld = s.limOld := by unfold Chip.flag; split <;> rfl
@[simp] theorem Chip.flag_flagsOld (i j b : Nat) : (s.flag i j b).flagsOld = s.flagsOld := by unfold Chip.flag; split <;> rfl
@[simp] theorem Chip.flag_elem (i j b : Nat) : (s.flag i j b).elem = s.elem := by unfold Chip.flag; split <;> rfl
@[simp] theorem Chip.flag_estr (i j b : Nat) : (s.flag i j b).estr = s.estr := by unfold Chip.flag; split <;> rfl
@[simp] theorem Chip.flag_pager (i j b : Nat) : (s.flag i j b).pager = s.pager := by unfold Chip.flag; split <;> rfl
@[simp] theorem Chip.flag_tines (i j b : Nat) : (s.flag i j b).tines = s.tines := by unfold Chip.flag; split <;> rfl
@[simp] theorem Chip.flag_images (i j b : Nat) : (s.flag i j b).images = s.images := by unfold Chip.flag; split <;> rfl
@[simp] theorem Chip.flag_kernels (i j b : Nat) : (s.flag i j b).kernels = s.kernels := by unfold Chip.flag; split <;> rfl
@[simp] theorem Chip.flag_cans (i j b : Nat) : (s.flag i j b).cans = s.cans := by unfold Chip.flag; split <;> rfl
@[simp] theorem Chip.flag_release (i j b : Nat) : (s.flag i j b).release = s.release := by unfold Chip.flag; split <;> rfl
@[simp] theorem Chip.flag_profPend (i j b : Nat) : (s.flag i j b).profPend = s.profPend := by unfold Chip.flag; split <;> rfl
@[simp] theorem Chip.flag_profPendDom (i j b : Nat) : (s.flag i j b).profPendDom = s.profPendDom := by unfold Chip.flag; split <;> rfl
@[simp] theorem Chip.flag_newQ (i j b : Nat) : (s.flag i j b).newQ = s.newQ := by unfold Chip.flag; split <;> rfl
@[simp] theorem Chip.flag_power (i j b : Nat) : (s.flag i j b).power = s.power := by unfold Chip.flag; split <;> rfl
@[simp] theorem Chip.flag_lock (i j b : Nat) : (s.flag i j b).lock = s.lock := by unfold Chip.flag; split <;> rfl
@[simp] theorem Chip.flag_regions (i j b : Nat) : (s.flag i j b).regions = s.regions := by unfold Chip.flag; split <;> rfl
@[simp] theorem Chip.flag_arbLast (i j b : Nat) : (s.flag i j b).arbLast = s.arbLast := by unfold Chip.flag; split <;> rfl
@[simp] theorem Chip.flag_bleats (i j b : Nat) : (s.flag i j b).bleats = s.bleats := by unfold Chip.flag; split <;> rfl
@[simp] theorem Chip.flag_pulses (i j b : Nat) : (s.flag i j b).pulses = s.pulses := by unfold Chip.flag; split <;> rfl
@[simp] theorem Chip.flag_gens (i j b : Nat) : (s.flag i j b).gens = s.gens := by unfold Chip.flag; split <;> rfl
@[simp] theorem Chip.flag_reload (i j b : Nat) : (s.flag i j b).reload = s.reload := by unfold Chip.flag; split <;> rfl
@[simp] theorem Chip.flag_time (i j b : Nat) : (s.flag i j b).time = s.time := by unfold Chip.flag; split <;> rfl
@[simp] theorem Chip.flag_sessions (i j b : Nat) : (s.flag i j b).sessions = s.sessions := by unfold Chip.flag; split <;> rfl
@[simp] theorem Chip.flag_parents (i j b : Nat) : (s.flag i j b).parents = s.parents := by unfold Chip.flag; split <;> rfl
@[simp] theorem Chip.flag_children (i j b : Nat) : (s.flag i j b).children = s.children := by unfold Chip.flag; split <;> rfl
@[simp] theorem Chip.flag_usdo (i j b : Nat) : (s.flag i j b).usdo = s.usdo := by unfold Chip.flag; split <;> rfl
@[simp] theorem Chip.flag_rdDom (i j b : Nat) (i' j' : Nat) : (s.flag i j b).rdDom i' j' = s.rdDom i' j' := by unfold Chip.flag; split <;> rfl
@[simp] theorem Chip.flag_ch (i j b : Nat) (q : Nat) : (s.flag i j b).ch q = s.ch q := by unfold Chip.flag; split <;> rfl
@[simp] theorem Chip.flag_grp (i j b : Nat) (q : Nat) : (s.flag i j b).grp q = s.grp q := by unfold Chip.flag; split <;> rfl
@[simp] theorem Chip.flag_st (i j b : Nat) (q : Nat) : (s.flag i j b).st q = s.st q := by unfold Chip.flag; split <;> rfl
@[simp] theorem Chip.flag_ring (i j b : Nat) (q : Nat) : (s.flag i j b).ring q = s.ring q := by unfold Chip.flag; split <;> rfl
@[simp] theorem Chip.flag_slice (i j b : Nat) (q : Nat) : (s.flag i j b).slice q = s.slice q := by unfold Chip.flag; split <;> rfl
@[simp] theorem Chip.flag_hrd (i j b : Nat) (q : Nat) : (s.flag i j b).hrd q = s.hrd q := by unfold Chip.flag; split <;> rfl
@[simp] theorem Chip.flag_sus (i j b : Nat) (q : Nat) : (s.flag i j b).sus q = s.sus q := by unfold Chip.flag; split <;> rfl

/-! ### wrDom -/

@[simp] theorem Chip.wrDom_fresh (i j : Nat) (v : List Byte) : (s.wrDom i j v).fresh = s.fresh := rfl
@[simp] theorem Chip.wrDom_ans (i j : Nat) (v : List Byte) : (s.wrDom i j v).ans = s.ans := rfl
@[simp] theorem Chip.wrDom_od (i j : Nat) (v : List Byte) : (s.wrDom i j v).od = s.od := rfl
@[simp] theorem Chip.wrDom_mode (i j : Nat) (v : List Byte) : (s.wrDom i j v).mode = s.mode := rfl
@[simp] theorem Chip.wrDom_trans (i j : Nat) (v : List Byte) : (s.wrDom i j v).trans = s.trans := rfl
@[simp] theorem Chip.wrDom_readyTick (i j : Nat) (v : List Byte) : (s.wrDom i j v).readyTick = s.readyTick := rfl
@[simp] theorem Chip.wrDom_actReq (i j : Nat) (v : List Byte) : (s.wrDom i j v).actReq = s.actReq := rfl
@[simp] theorem Chip.wrDom_actAns (i j : Nat) (v : List Byte) : (s.wrDom i j v).actAns = s.actAns := rfl
@[simp] theorem Chip.wrDom_clk (i j : Nat) (v : List Byte) : (s.wrDom i j v).clk = s.clk := rfl
@[simp] theorem Chip.wrDom_up (i j : Nat) (v : List Byte) : (s.wrDom i j v).up = s.up := rfl
@[simp] theorem Chip.wrDom_link (i j : Nat) (v : List Byte) : (s.wrDom i j v).link = s.link := rfl
@[simp] theorem Chip.wrDom_trip (i j : Nat) (v : List Byte) : (s.wrDom i j v).trip = s.trip := rfl
@[simp] theorem Chip.wrDom_chan (i j : Nat) (v : List Byte) : (s.wrDom i j v).chan = s.chan := rfl
@[simp] theorem Chip.wrDom_group (i j : Nat) (v : List Byte) : (s.wrDom i j v).group = s.group := rfl
@[simp] theorem Chip.wrDom_adopt (i j : Nat) (v : List Byte) : (s.wrDom i j v).adopt = s.adopt := rfl
@[simp] theorem Chip.wrDom_strs (i j : Nat) (v : List Byte) : (s.wrDom i j v).strs = s.strs := rfl
@[simp] theorem Chip.wrDom_swi (i j : Nat) (v : List Byte) : (s.wrDom i j v).swi = s.swi := rfl
@[simp] theorem Chip.wrDom_claims (i j : Nat) (v : List Byte) : (s.wrDom i j v).claims = s.claims := rfl
@[simp] theorem Chip.wrDom_nextClaim (i j : Nat) (v : List Byte) : (s.wrDom i j v).nextClaim = s.nextClaim := rfl
@[simp] theorem Chip.wrDom_port (i j : Nat) (v : List Byte) : (s.wrDom i j v).port = s.port := rfl
@[simp] theorem Chip.wrDom_slices (i j : Nat) (v : List Byte) : (s.wrDom i j v).slices = s.slices := rfl
@[simp] theorem Chip.wrDom_rings (i j : Nat) (v : List Byte) : (s.wrDom i j v).rings = s.rings := rfl
@[simp] theorem Chip.wrDom_herd (i j : Nat) (v : List Byte) : (s.wrDom i j v).herd = s.herd := rfl
@[simp] theorem Chip.wrDom_sched (i j : Nat) (v : List Byte) : (s.wrDom i j v).sched = s.sched := rfl
@[simp] theorem Chip.wrDom_front (i j : Nat) (v : List Byte) : (s.wrDom i j v).front = s.front := rfl
@[simp] theorem Chip.wrDom_slotData (i j : Nat) (v : List Byte) : (s.wrDom i j v).slotData = s.slotData := rfl
@[simp] theorem Chip.wrDom_slotPub (i j : Nat) (v : List Byte) : (s.wrDom i j v).slotPub = s.slotPub := rfl
@[simp] theorem Chip.wrDom_slotOld (i j : Nat) (v : List Byte) : (s.wrDom i j v).slotOld = s.slotOld := rfl
@[simp] theorem Chip.wrDom_burstData (i j : Nat) (v : List Byte) : (s.wrDom i j v).burstData = s.burstData := rfl
@[simp] theorem Chip.wrDom_duty (i j : Nat) (v : List Byte) : (s.wrDom i j v).duty = s.duty := rfl
@[simp] theorem Chip.wrDom_suspects (i j : Nat) (v : List Byte) : (s.wrDom i j v).suspects = s.suspects := rfl
@[simp] theorem Chip.wrDom_settling (i j : Nat) (v : List Byte) : (s.wrDom i j v).settling = s.settling := rfl
@[simp] theorem Chip.wrDom_acting (i j : Nat) (v : List Byte) : (s.wrDom i j v).acting = s.acting := rfl
@[simp] theorem Chip.wrDom_prot (i j : Nat) (v : List Byte) : (s.wrDom i j v).prot = s.prot := rfl
@[simp] theorem Chip.wrDom_protOld (i j : Nat) (v : List Byte) : (s.wrDom i j v).protOld = s.protOld := rfl
@[simp] theorem Chip.wrDom_tHist (i j : Nat) (v : List Byte) : (s.wrDom i j v).tHist = s.tHist := rfl
@[simp] theorem Chip.wrDom_fast (i j : Nat) (v : List Byte) : (s.wrDom i j v).fast = s.fast := rfl
@[simp] theorem Chip.wrDom_fastOld (i j : Nat) (v : List Byte) : (s.wrDom i j v).fastOld = s.fastOld := rfl
@[simp] theorem Chip.wrDom_elemOld (i j : Nat) (v : List Byte) : (s.wrDom i j v).elemOld = s.elemOld := rfl
@[simp] theorem Chip.wrDom_pub (i j : Nat) (v : List Byte) : (s.wrDom i j v).pub = s.pub := rfl
@[simp] theorem Chip.wrDom_pubOld (i j : Nat) (v : List Byte) : (s.wrDom i j v).pubOld = s.pubOld := rfl
@[simp] theorem Chip.wrDom_limOld (i j : Nat) (v : List Byte) : (s.wrDom i j v).limOld = s.limOld := rfl
@[simp] theorem Chip.wrDom_flagsOld (i j : Nat) (v : List Byte) : (s.wrDom i j v).flagsOld = s.flagsOld := rfl
@[simp] theorem Chip.wrDom_elem (i j : Nat) (v : List Byte) : (s.wrDom i j v).elem = s.elem := rfl
@[simp] theorem Chip.wrDom_estr (i j : Nat) (v : List Byte) : (s.wrDom i j v).estr = s.estr := rfl
@[simp] theorem Chip.wrDom_pager (i j : Nat) (v : List Byte) : (s.wrDom i j v).pager = s.pager := rfl
@[simp] theorem Chip.wrDom_tines (i j : Nat) (v : List Byte) : (s.wrDom i j v).tines = s.tines := rfl
@[simp] theorem Chip.wrDom_images (i j : Nat) (v : List Byte) : (s.wrDom i j v).images = s.images := rfl
@[simp] theorem Chip.wrDom_kernels (i j : Nat) (v : List Byte) : (s.wrDom i j v).kernels = s.kernels := rfl
@[simp] theorem Chip.wrDom_cans (i j : Nat) (v : List Byte) : (s.wrDom i j v).cans = s.cans := rfl
@[simp] theorem Chip.wrDom_release (i j : Nat) (v : List Byte) : (s.wrDom i j v).release = s.release := rfl
@[simp] theorem Chip.wrDom_profPend (i j : Nat) (v : List Byte) : (s.wrDom i j v).profPend = s.profPend := rfl
@[simp] theorem Chip.wrDom_profPendDom (i j : Nat) (v : List Byte) : (s.wrDom i j v).profPendDom = s.profPendDom := rfl
@[simp] theorem Chip.wrDom_newQ (i j : Nat) (v : List Byte) : (s.wrDom i j v).newQ = s.newQ := rfl
@[simp] theorem Chip.wrDom_power (i j : Nat) (v : List Byte) : (s.wrDom i j v).power = s.power := rfl
@[simp] theorem Chip.wrDom_lock (i j : Nat) (v : List Byte) : (s.wrDom i j v).lock = s.lock := rfl
@[simp] theorem Chip.wrDom_regions (i j : Nat) (v : List Byte) : (s.wrDom i j v).regions = s.regions := rfl
@[simp] theorem Chip.wrDom_arbLast (i j : Nat) (v : List Byte) : (s.wrDom i j v).arbLast = s.arbLast := rfl
@[simp] theorem Chip.wrDom_bleats (i j : Nat) (v : List Byte) : (s.wrDom i j v).bleats = s.bleats := rfl
@[simp] theorem Chip.wrDom_pulses (i j : Nat) (v : List Byte) : (s.wrDom i j v).pulses = s.pulses := rfl
@[simp] theorem Chip.wrDom_gens (i j : Nat) (v : List Byte) : (s.wrDom i j v).gens = s.gens := rfl
@[simp] theorem Chip.wrDom_reload (i j : Nat) (v : List Byte) : (s.wrDom i j v).reload = s.reload := rfl
@[simp] theorem Chip.wrDom_time (i j : Nat) (v : List Byte) : (s.wrDom i j v).time = s.time := rfl
@[simp] theorem Chip.wrDom_sessions (i j : Nat) (v : List Byte) : (s.wrDom i j v).sessions = s.sessions := rfl
@[simp] theorem Chip.wrDom_parents (i j : Nat) (v : List Byte) : (s.wrDom i j v).parents = s.parents := rfl
@[simp] theorem Chip.wrDom_children (i j : Nat) (v : List Byte) : (s.wrDom i j v).children = s.children := rfl
@[simp] theorem Chip.wrDom_usdo (i j : Nat) (v : List Byte) : (s.wrDom i j v).usdo = s.usdo := rfl
@[simp] theorem Chip.wrDom_rd (i j : Nat) (v : List Byte) (i' j' : Nat) : (s.wrDom i j v).rd i' j' = s.rd i' j' := rfl
@[simp] theorem Chip.wrDom_rdBit (i j : Nat) (v : List Byte) (i' j' b' : Nat) : (s.wrDom i j v).rdBit i' j' b' = s.rdBit i' j' b' := rfl
@[simp] theorem Chip.wrDom_ch (i j : Nat) (v : List Byte) (q : Nat) : (s.wrDom i j v).ch q = s.ch q := rfl
@[simp] theorem Chip.wrDom_grp (i j : Nat) (v : List Byte) (q : Nat) : (s.wrDom i j v).grp q = s.grp q := rfl
@[simp] theorem Chip.wrDom_st (i j : Nat) (v : List Byte) (q : Nat) : (s.wrDom i j v).st q = s.st q := rfl
@[simp] theorem Chip.wrDom_ring (i j : Nat) (v : List Byte) (q : Nat) : (s.wrDom i j v).ring q = s.ring q := rfl
@[simp] theorem Chip.wrDom_slice (i j : Nat) (v : List Byte) (q : Nat) : (s.wrDom i j v).slice q = s.slice q := rfl
@[simp] theorem Chip.wrDom_hrd (i j : Nat) (v : List Byte) (q : Nat) : (s.wrDom i j v).hrd q = s.hrd q := rfl
@[simp] theorem Chip.wrDom_sus (i j : Nat) (v : List Byte) (q : Nat) : (s.wrDom i j v).sus q = s.sus q := rfl

/-! ### post -/

@[simp] theorem Chip.post_fresh (c r : Nat) (d : List Byte) : (s.post c r d).fresh = s.fresh := rfl
@[simp] theorem Chip.post_ans (c r : Nat) (d : List Byte) : (s.post c r d).ans = s.ans := rfl
@[simp] theorem Chip.post_od (c r : Nat) (d : List Byte) : (s.post c r d).od = s.od := rfl
@[simp] theorem Chip.post_dom (c r : Nat) (d : List Byte) : (s.post c r d).dom = s.dom := rfl
@[simp] theorem Chip.post_mode (c r : Nat) (d : List Byte) : (s.post c r d).mode = s.mode := rfl
@[simp] theorem Chip.post_trans (c r : Nat) (d : List Byte) : (s.post c r d).trans = s.trans := rfl
@[simp] theorem Chip.post_readyTick (c r : Nat) (d : List Byte) : (s.post c r d).readyTick = s.readyTick := rfl
@[simp] theorem Chip.post_actReq (c r : Nat) (d : List Byte) : (s.post c r d).actReq = s.actReq := rfl
@[simp] theorem Chip.post_actAns (c r : Nat) (d : List Byte) : (s.post c r d).actAns = s.actAns := rfl
@[simp] theorem Chip.post_clk (c r : Nat) (d : List Byte) : (s.post c r d).clk = s.clk := rfl
@[simp] theorem Chip.post_up (c r : Nat) (d : List Byte) : (s.post c r d).up = s.up := rfl
@[simp] theorem Chip.post_link (c r : Nat) (d : List Byte) : (s.post c r d).link = s.link := rfl
@[simp] theorem Chip.post_trip (c r : Nat) (d : List Byte) : (s.post c r d).trip = s.trip := rfl
@[simp] theorem Chip.post_chan (c r : Nat) (d : List Byte) : (s.post c r d).chan = s.chan := rfl
@[simp] theorem Chip.post_group (c r : Nat) (d : List Byte) : (s.post c r d).group = s.group := rfl
@[simp] theorem Chip.post_adopt (c r : Nat) (d : List Byte) : (s.post c r d).adopt = s.adopt := rfl
@[simp] theorem Chip.post_strs (c r : Nat) (d : List Byte) : (s.post c r d).strs = s.strs := rfl
@[simp] theorem Chip.post_swi (c r : Nat) (d : List Byte) : (s.post c r d).swi = s.swi := rfl
@[simp] theorem Chip.post_claims (c r : Nat) (d : List Byte) : (s.post c r d).claims = s.claims := rfl
@[simp] theorem Chip.post_nextClaim (c r : Nat) (d : List Byte) : (s.post c r d).nextClaim = s.nextClaim := rfl
@[simp] theorem Chip.post_slices (c r : Nat) (d : List Byte) : (s.post c r d).slices = s.slices := rfl
@[simp] theorem Chip.post_rings (c r : Nat) (d : List Byte) : (s.post c r d).rings = s.rings := rfl
@[simp] theorem Chip.post_herd (c r : Nat) (d : List Byte) : (s.post c r d).herd = s.herd := rfl
@[simp] theorem Chip.post_sched (c r : Nat) (d : List Byte) : (s.post c r d).sched = s.sched := rfl
@[simp] theorem Chip.post_front (c r : Nat) (d : List Byte) : (s.post c r d).front = s.front := rfl
@[simp] theorem Chip.post_slotData (c r : Nat) (d : List Byte) : (s.post c r d).slotData = s.slotData := rfl
@[simp] theorem Chip.post_slotPub (c r : Nat) (d : List Byte) : (s.post c r d).slotPub = s.slotPub := rfl
@[simp] theorem Chip.post_slotOld (c r : Nat) (d : List Byte) : (s.post c r d).slotOld = s.slotOld := rfl
@[simp] theorem Chip.post_burstData (c r : Nat) (d : List Byte) : (s.post c r d).burstData = s.burstData := rfl
@[simp] theorem Chip.post_duty (c r : Nat) (d : List Byte) : (s.post c r d).duty = s.duty := rfl
@[simp] theorem Chip.post_suspects (c r : Nat) (d : List Byte) : (s.post c r d).suspects = s.suspects := rfl
@[simp] theorem Chip.post_settling (c r : Nat) (d : List Byte) : (s.post c r d).settling = s.settling := rfl
@[simp] theorem Chip.post_acting (c r : Nat) (d : List Byte) : (s.post c r d).acting = s.acting := rfl
@[simp] theorem Chip.post_prot (c r : Nat) (d : List Byte) : (s.post c r d).prot = s.prot := rfl
@[simp] theorem Chip.post_protOld (c r : Nat) (d : List Byte) : (s.post c r d).protOld = s.protOld := rfl
@[simp] theorem Chip.post_tHist (c r : Nat) (d : List Byte) : (s.post c r d).tHist = s.tHist := rfl
@[simp] theorem Chip.post_fast (c r : Nat) (d : List Byte) : (s.post c r d).fast = s.fast := rfl
@[simp] theorem Chip.post_fastOld (c r : Nat) (d : List Byte) : (s.post c r d).fastOld = s.fastOld := rfl
@[simp] theorem Chip.post_elemOld (c r : Nat) (d : List Byte) : (s.post c r d).elemOld = s.elemOld := rfl
@[simp] theorem Chip.post_pub (c r : Nat) (d : List Byte) : (s.post c r d).pub = s.pub := rfl
@[simp] theorem Chip.post_pubOld (c r : Nat) (d : List Byte) : (s.post c r d).pubOld = s.pubOld := rfl
@[simp] theorem Chip.post_limOld (c r : Nat) (d : List Byte) : (s.post c r d).limOld = s.limOld := rfl
@[simp] theorem Chip.post_flagsOld (c r : Nat) (d : List Byte) : (s.post c r d).flagsOld = s.flagsOld := rfl
@[simp] theorem Chip.post_elem (c r : Nat) (d : List Byte) : (s.post c r d).elem = s.elem := rfl
@[simp] theorem Chip.post_estr (c r : Nat) (d : List Byte) : (s.post c r d).estr = s.estr := rfl
@[simp] theorem Chip.post_pager (c r : Nat) (d : List Byte) : (s.post c r d).pager = s.pager := rfl
@[simp] theorem Chip.post_tines (c r : Nat) (d : List Byte) : (s.post c r d).tines = s.tines := rfl
@[simp] theorem Chip.post_images (c r : Nat) (d : List Byte) : (s.post c r d).images = s.images := rfl
@[simp] theorem Chip.post_kernels (c r : Nat) (d : List Byte) : (s.post c r d).kernels = s.kernels := rfl
@[simp] theorem Chip.post_cans (c r : Nat) (d : List Byte) : (s.post c r d).cans = s.cans := rfl
@[simp] theorem Chip.post_release (c r : Nat) (d : List Byte) : (s.post c r d).release = s.release := rfl
@[simp] theorem Chip.post_profPend (c r : Nat) (d : List Byte) : (s.post c r d).profPend = s.profPend := rfl
@[simp] theorem Chip.post_profPendDom (c r : Nat) (d : List Byte) : (s.post c r d).profPendDom = s.profPendDom := rfl
@[simp] theorem Chip.post_newQ (c r : Nat) (d : List Byte) : (s.post c r d).newQ = s.newQ := rfl
@[simp] theorem Chip.post_power (c r : Nat) (d : List Byte) : (s.post c r d).power = s.power := rfl
@[simp] theorem Chip.post_lock (c r : Nat) (d : List Byte) : (s.post c r d).lock = s.lock := rfl
@[simp] theorem Chip.post_regions (c r : Nat) (d : List Byte) : (s.post c r d).regions = s.regions := rfl
@[simp] theorem Chip.post_arbLast (c r : Nat) (d : List Byte) : (s.post c r d).arbLast = s.arbLast := rfl
@[simp] theorem Chip.post_bleats (c r : Nat) (d : List Byte) : (s.post c r d).bleats = s.bleats := rfl
@[simp] theorem Chip.post_pulses (c r : Nat) (d : List Byte) : (s.post c r d).pulses = s.pulses := rfl
@[simp] theorem Chip.post_gens (c r : Nat) (d : List Byte) : (s.post c r d).gens = s.gens := rfl
@[simp] theorem Chip.post_reload (c r : Nat) (d : List Byte) : (s.post c r d).reload = s.reload := rfl
@[simp] theorem Chip.post_time (c r : Nat) (d : List Byte) : (s.post c r d).time = s.time := rfl
@[simp] theorem Chip.post_sessions (c r : Nat) (d : List Byte) : (s.post c r d).sessions = s.sessions := rfl
@[simp] theorem Chip.post_parents (c r : Nat) (d : List Byte) : (s.post c r d).parents = s.parents := rfl
@[simp] theorem Chip.post_children (c r : Nat) (d : List Byte) : (s.post c r d).children = s.children := rfl
@[simp] theorem Chip.post_usdo (c r : Nat) (d : List Byte) : (s.post c r d).usdo = s.usdo := rfl
@[simp] theorem Chip.post_rd (c r : Nat) (d : List Byte) (i' j' : Nat) : (s.post c r d).rd i' j' = s.rd i' j' := rfl
@[simp] theorem Chip.post_rdBit (c r : Nat) (d : List Byte) (i' j' b' : Nat) : (s.post c r d).rdBit i' j' b' = s.rdBit i' j' b' := rfl
@[simp] theorem Chip.post_rdDom (c r : Nat) (d : List Byte) (i' j' : Nat) : (s.post c r d).rdDom i' j' = s.rdDom i' j' := rfl
@[simp] theorem Chip.post_ch (c r : Nat) (d : List Byte) (q : Nat) : (s.post c r d).ch q = s.ch q := rfl
@[simp] theorem Chip.post_grp (c r : Nat) (d : List Byte) (q : Nat) : (s.post c r d).grp q = s.grp q := rfl
@[simp] theorem Chip.post_st (c r : Nat) (d : List Byte) (q : Nat) : (s.post c r d).st q = s.st q := rfl
@[simp] theorem Chip.post_ring (c r : Nat) (d : List Byte) (q : Nat) : (s.post c r d).ring q = s.ring q := rfl
@[simp] theorem Chip.post_slice (c r : Nat) (d : List Byte) (q : Nat) : (s.post c r d).slice q = s.slice q := rfl
@[simp] theorem Chip.post_hrd (c r : Nat) (d : List Byte) (q : Nat) : (s.post c r d).hrd q = s.hrd q := rfl
@[simp] theorem Chip.post_sus (c r : Nat) (d : List Byte) (q : Nat) : (s.post c r d).sus q = s.sus q := rfl

/-! ### answer -/

@[simp] theorem Chip.answer_fresh (st : Status) (d : Nat) (b : List Byte) : (s.answer st d b).fresh = s.fresh := rfl
@[simp] theorem Chip.answer_od (st : Status) (d : Nat) (b : List Byte) : (s.answer st d b).od = s.od := rfl
@[simp] theorem Chip.answer_dom (st : Status) (d : Nat) (b : List Byte) : (s.answer st d b).dom = s.dom := rfl
@[simp] theorem Chip.answer_mode (st : Status) (d : Nat) (b : List Byte) : (s.answer st d b).mode = s.mode := rfl
@[simp] theorem Chip.answer_trans (st : Status) (d : Nat) (b : List Byte) : (s.answer st d b).trans = s.trans := rfl
@[simp] theorem Chip.answer_readyTick (st : Status) (d : Nat) (b : List Byte) : (s.answer st d b).readyTick = s.readyTick := rfl
@[simp] theorem Chip.answer_actReq (st : Status) (d : Nat) (b : List Byte) : (s.answer st d b).actReq = s.actReq := rfl
@[simp] theorem Chip.answer_actAns (st : Status) (d : Nat) (b : List Byte) : (s.answer st d b).actAns = s.actAns := rfl
@[simp] theorem Chip.answer_clk (st : Status) (d : Nat) (b : List Byte) : (s.answer st d b).clk = s.clk := rfl
@[simp] theorem Chip.answer_up (st : Status) (d : Nat) (b : List Byte) : (s.answer st d b).up = s.up := rfl
@[simp] theorem Chip.answer_link (st : Status) (d : Nat) (b : List Byte) : (s.answer st d b).link = s.link := rfl
@[simp] theorem Chip.answer_trip (st : Status) (d : Nat) (b : List Byte) : (s.answer st d b).trip = s.trip := rfl
@[simp] theorem Chip.answer_chan (st : Status) (d : Nat) (b : List Byte) : (s.answer st d b).chan = s.chan := rfl
@[simp] theorem Chip.answer_group (st : Status) (d : Nat) (b : List Byte) : (s.answer st d b).group = s.group := rfl
@[simp] theorem Chip.answer_adopt (st : Status) (d : Nat) (b : List Byte) : (s.answer st d b).adopt = s.adopt := rfl
@[simp] theorem Chip.answer_strs (st : Status) (d : Nat) (b : List Byte) : (s.answer st d b).strs = s.strs := rfl
@[simp] theorem Chip.answer_swi (st : Status) (d : Nat) (b : List Byte) : (s.answer st d b).swi = s.swi := rfl
@[simp] theorem Chip.answer_claims (st : Status) (d : Nat) (b : List Byte) : (s.answer st d b).claims = s.claims := rfl
@[simp] theorem Chip.answer_nextClaim (st : Status) (d : Nat) (b : List Byte) : (s.answer st d b).nextClaim = s.nextClaim := rfl
@[simp] theorem Chip.answer_port (st : Status) (d : Nat) (b : List Byte) : (s.answer st d b).port = s.port := rfl
@[simp] theorem Chip.answer_slices (st : Status) (d : Nat) (b : List Byte) : (s.answer st d b).slices = s.slices := rfl
@[simp] theorem Chip.answer_rings (st : Status) (d : Nat) (b : List Byte) : (s.answer st d b).rings = s.rings := rfl
@[simp] theorem Chip.answer_herd (st : Status) (d : Nat) (b : List Byte) : (s.answer st d b).herd = s.herd := rfl
@[simp] theorem Chip.answer_sched (st : Status) (d : Nat) (b : List Byte) : (s.answer st d b).sched = s.sched := rfl
@[simp] theorem Chip.answer_front (st : Status) (d : Nat) (b : List Byte) : (s.answer st d b).front = s.front := rfl
@[simp] theorem Chip.answer_slotData (st : Status) (d : Nat) (b : List Byte) : (s.answer st d b).slotData = s.slotData := rfl
@[simp] theorem Chip.answer_slotPub (st : Status) (d : Nat) (b : List Byte) : (s.answer st d b).slotPub = s.slotPub := rfl
@[simp] theorem Chip.answer_slotOld (st : Status) (d : Nat) (b : List Byte) : (s.answer st d b).slotOld = s.slotOld := rfl
@[simp] theorem Chip.answer_burstData (st : Status) (d : Nat) (b : List Byte) : (s.answer st d b).burstData = s.burstData := rfl
@[simp] theorem Chip.answer_duty (st : Status) (d : Nat) (b : List Byte) : (s.answer st d b).duty = s.duty := rfl
@[simp] theorem Chip.answer_suspects (st : Status) (d : Nat) (b : List Byte) : (s.answer st d b).suspects = s.suspects := rfl
@[simp] theorem Chip.answer_settling (st : Status) (d : Nat) (b : List Byte) : (s.answer st d b).settling = s.settling := rfl
@[simp] theorem Chip.answer_acting (st : Status) (d : Nat) (b : List Byte) : (s.answer st d b).acting = s.acting := rfl
@[simp] theorem Chip.answer_prot (st : Status) (d : Nat) (b : List Byte) : (s.answer st d b).prot = s.prot := rfl
@[simp] theorem Chip.answer_protOld (st : Status) (d : Nat) (b : List Byte) : (s.answer st d b).protOld = s.protOld := rfl
@[simp] theorem Chip.answer_tHist (st : Status) (d : Nat) (b : List Byte) : (s.answer st d b).tHist = s.tHist := rfl
@[simp] theorem Chip.answer_fast (st : Status) (d : Nat) (b : List Byte) : (s.answer st d b).fast = s.fast := rfl
@[simp] theorem Chip.answer_fastOld (st : Status) (d : Nat) (b : List Byte) : (s.answer st d b).fastOld = s.fastOld := rfl
@[simp] theorem Chip.answer_elemOld (st : Status) (d : Nat) (b : List Byte) : (s.answer st d b).elemOld = s.elemOld := rfl
@[simp] theorem Chip.answer_pub (st : Status) (d : Nat) (b : List Byte) : (s.answer st d b).pub = s.pub := rfl
@[simp] theorem Chip.answer_pubOld (st : Status) (d : Nat) (b : List Byte) : (s.answer st d b).pubOld = s.pubOld := rfl
@[simp] theorem Chip.answer_limOld (st : Status) (d : Nat) (b : List Byte) : (s.answer st d b).limOld = s.limOld := rfl
@[simp] theorem Chip.answer_flagsOld (st : Status) (d : Nat) (b : List Byte) : (s.answer st d b).flagsOld = s.flagsOld := rfl
@[simp] theorem Chip.answer_elem (st : Status) (d : Nat) (b : List Byte) : (s.answer st d b).elem = s.elem := rfl
@[simp] theorem Chip.answer_estr (st : Status) (d : Nat) (b : List Byte) : (s.answer st d b).estr = s.estr := rfl
@[simp] theorem Chip.answer_pager (st : Status) (d : Nat) (b : List Byte) : (s.answer st d b).pager = s.pager := rfl
@[simp] theorem Chip.answer_tines (st : Status) (d : Nat) (b : List Byte) : (s.answer st d b).tines = s.tines := rfl
@[simp] theorem Chip.answer_images (st : Status) (d : Nat) (b : List Byte) : (s.answer st d b).images = s.images := rfl
@[simp] theorem Chip.answer_kernels (st : Status) (d : Nat) (b : List Byte) : (s.answer st d b).kernels = s.kernels := rfl
@[simp] theorem Chip.answer_cans (st : Status) (d : Nat) (b : List Byte) : (s.answer st d b).cans = s.cans := rfl
@[simp] theorem Chip.answer_release (st : Status) (d : Nat) (b : List Byte) : (s.answer st d b).release = s.release := rfl
@[simp] theorem Chip.answer_profPend (st : Status) (d : Nat) (b : List Byte) : (s.answer st d b).profPend = s.profPend := rfl
@[simp] theorem Chip.answer_profPendDom (st : Status) (d : Nat) (b : List Byte) : (s.answer st d b).profPendDom = s.profPendDom := rfl
@[simp] theorem Chip.answer_newQ (st : Status) (d : Nat) (b : List Byte) : (s.answer st d b).newQ = s.newQ := rfl
@[simp] theorem Chip.answer_power (st : Status) (d : Nat) (b : List Byte) : (s.answer st d b).power = s.power := rfl
@[simp] theorem Chip.answer_lock (st : Status) (d : Nat) (b : List Byte) : (s.answer st d b).lock = s.lock := rfl
@[simp] theorem Chip.answer_regions (st : Status) (d : Nat) (b : List Byte) : (s.answer st d b).regions = s.regions := rfl
@[simp] theorem Chip.answer_arbLast (st : Status) (d : Nat) (b : List Byte) : (s.answer st d b).arbLast = s.arbLast := rfl
@[simp] theorem Chip.answer_bleats (st : Status) (d : Nat) (b : List Byte) : (s.answer st d b).bleats = s.bleats := rfl
@[simp] theorem Chip.answer_pulses (st : Status) (d : Nat) (b : List Byte) : (s.answer st d b).pulses = s.pulses := rfl
@[simp] theorem Chip.answer_gens (st : Status) (d : Nat) (b : List Byte) : (s.answer st d b).gens = s.gens := rfl
@[simp] theorem Chip.answer_reload (st : Status) (d : Nat) (b : List Byte) : (s.answer st d b).reload = s.reload := rfl
@[simp] theorem Chip.answer_time (st : Status) (d : Nat) (b : List Byte) : (s.answer st d b).time = s.time := rfl
@[simp] theorem Chip.answer_sessions (st : Status) (d : Nat) (b : List Byte) : (s.answer st d b).sessions = s.sessions := rfl
@[simp] theorem Chip.answer_parents (st : Status) (d : Nat) (b : List Byte) : (s.answer st d b).parents = s.parents := rfl
@[simp] theorem Chip.answer_children (st : Status) (d : Nat) (b : List Byte) : (s.answer st d b).children = s.children := rfl
@[simp] theorem Chip.answer_usdo (st : Status) (d : Nat) (b : List Byte) : (s.answer st d b).usdo = s.usdo := rfl
@[simp] theorem Chip.answer_rd (st : Status) (d : Nat) (b : List Byte) (i' j' : Nat) : (s.answer st d b).rd i' j' = s.rd i' j' := rfl
@[simp] theorem Chip.answer_rdBit (st : Status) (d : Nat) (b : List Byte) (i' j' b' : Nat) : (s.answer st d b).rdBit i' j' b' = s.rdBit i' j' b' := rfl
@[simp] theorem Chip.answer_rdDom (st : Status) (d : Nat) (b : List Byte) (i' j' : Nat) : (s.answer st d b).rdDom i' j' = s.rdDom i' j' := rfl
@[simp] theorem Chip.answer_ch (st : Status) (d : Nat) (b : List Byte) (q : Nat) : (s.answer st d b).ch q = s.ch q := rfl
@[simp] theorem Chip.answer_grp (st : Status) (d : Nat) (b : List Byte) (q : Nat) : (s.answer st d b).grp q = s.grp q := rfl
@[simp] theorem Chip.answer_st (st : Status) (d : Nat) (b : List Byte) (q : Nat) : (s.answer st d b).st q = s.st q := rfl
@[simp] theorem Chip.answer_ring (st : Status) (d : Nat) (b : List Byte) (q : Nat) : (s.answer st d b).ring q = s.ring q := rfl
@[simp] theorem Chip.answer_slice (st : Status) (d : Nat) (b : List Byte) (q : Nat) : (s.answer st d b).slice q = s.slice q := rfl
@[simp] theorem Chip.answer_hrd (st : Status) (d : Nat) (b : List Byte) (q : Nat) : (s.answer st d b).hrd q = s.hrd q := rfl
@[simp] theorem Chip.answer_sus (st : Status) (d : Nat) (b : List Byte) (q : Nat) : (s.answer st d b).sus q = s.sus q := rfl

/-! ### setCh -/

@[simp] theorem Chip.setCh_fresh (k : Nat) (x : Channel) : (s.setCh k x).fresh = s.fresh := rfl
@[simp] theorem Chip.setCh_ans (k : Nat) (x : Channel) : (s.setCh k x).ans = s.ans := rfl
@[simp] theorem Chip.setCh_od (k : Nat) (x : Channel) : (s.setCh k x).od = s.od := rfl
@[simp] theorem Chip.setCh_dom (k : Nat) (x : Channel) : (s.setCh k x).dom = s.dom := rfl
@[simp] theorem Chip.setCh_mode (k : Nat) (x : Channel) : (s.setCh k x).mode = s.mode := rfl
@[simp] theorem Chip.setCh_trans (k : Nat) (x : Channel) : (s.setCh k x).trans = s.trans := rfl
@[simp] theorem Chip.setCh_readyTick (k : Nat) (x : Channel) : (s.setCh k x).readyTick = s.readyTick := rfl
@[simp] theorem Chip.setCh_actReq (k : Nat) (x : Channel) : (s.setCh k x).actReq = s.actReq := rfl
@[simp] theorem Chip.setCh_actAns (k : Nat) (x : Channel) : (s.setCh k x).actAns = s.actAns := rfl
@[simp] theorem Chip.setCh_clk (k : Nat) (x : Channel) : (s.setCh k x).clk = s.clk := rfl
@[simp] theorem Chip.setCh_up (k : Nat) (x : Channel) : (s.setCh k x).up = s.up := rfl
@[simp] theorem Chip.setCh_link (k : Nat) (x : Channel) : (s.setCh k x).link = s.link := rfl
@[simp] theorem Chip.setCh_trip (k : Nat) (x : Channel) : (s.setCh k x).trip = s.trip := rfl
@[simp] theorem Chip.setCh_group (k : Nat) (x : Channel) : (s.setCh k x).group = s.group := rfl
@[simp] theorem Chip.setCh_adopt (k : Nat) (x : Channel) : (s.setCh k x).adopt = s.adopt := rfl
@[simp] theorem Chip.setCh_strs (k : Nat) (x : Channel) : (s.setCh k x).strs = s.strs := rfl
@[simp] theorem Chip.setCh_swi (k : Nat) (x : Channel) : (s.setCh k x).swi = s.swi := rfl
@[simp] theorem Chip.setCh_claims (k : Nat) (x : Channel) : (s.setCh k x).claims = s.claims := rfl
@[simp] theorem Chip.setCh_nextClaim (k : Nat) (x : Channel) : (s.setCh k x).nextClaim = s.nextClaim := rfl
@[simp] theorem Chip.setCh_port (k : Nat) (x : Channel) : (s.setCh k x).port = s.port := rfl
@[simp] theorem Chip.setCh_slices (k : Nat) (x : Channel) : (s.setCh k x).slices = s.slices := rfl
@[simp] theorem Chip.setCh_rings (k : Nat) (x : Channel) : (s.setCh k x).rings = s.rings := rfl
@[simp] theorem Chip.setCh_herd (k : Nat) (x : Channel) : (s.setCh k x).herd = s.herd := rfl
@[simp] theorem Chip.setCh_sched (k : Nat) (x : Channel) : (s.setCh k x).sched = s.sched := rfl
@[simp] theorem Chip.setCh_front (k : Nat) (x : Channel) : (s.setCh k x).front = s.front := rfl
@[simp] theorem Chip.setCh_slotData (k : Nat) (x : Channel) : (s.setCh k x).slotData = s.slotData := rfl
@[simp] theorem Chip.setCh_slotPub (k : Nat) (x : Channel) : (s.setCh k x).slotPub = s.slotPub := rfl
@[simp] theorem Chip.setCh_slotOld (k : Nat) (x : Channel) : (s.setCh k x).slotOld = s.slotOld := rfl
@[simp] theorem Chip.setCh_burstData (k : Nat) (x : Channel) : (s.setCh k x).burstData = s.burstData := rfl
@[simp] theorem Chip.setCh_duty (k : Nat) (x : Channel) : (s.setCh k x).duty = s.duty := rfl
@[simp] theorem Chip.setCh_suspects (k : Nat) (x : Channel) : (s.setCh k x).suspects = s.suspects := rfl
@[simp] theorem Chip.setCh_settling (k : Nat) (x : Channel) : (s.setCh k x).settling = s.settling := rfl
@[simp] theorem Chip.setCh_acting (k : Nat) (x : Channel) : (s.setCh k x).acting = s.acting := rfl
@[simp] theorem Chip.setCh_prot (k : Nat) (x : Channel) : (s.setCh k x).prot = s.prot := rfl
@[simp] theorem Chip.setCh_protOld (k : Nat) (x : Channel) : (s.setCh k x).protOld = s.protOld := rfl
@[simp] theorem Chip.setCh_tHist (k : Nat) (x : Channel) : (s.setCh k x).tHist = s.tHist := rfl
@[simp] theorem Chip.setCh_fast (k : Nat) (x : Channel) : (s.setCh k x).fast = s.fast := rfl
@[simp] theorem Chip.setCh_fastOld (k : Nat) (x : Channel) : (s.setCh k x).fastOld = s.fastOld := rfl
@[simp] theorem Chip.setCh_elemOld (k : Nat) (x : Channel) : (s.setCh k x).elemOld = s.elemOld := rfl
@[simp] theorem Chip.setCh_pub (k : Nat) (x : Channel) : (s.setCh k x).pub = s.pub := rfl
@[simp] theorem Chip.setCh_pubOld (k : Nat) (x : Channel) : (s.setCh k x).pubOld = s.pubOld := rfl
@[simp] theorem Chip.setCh_limOld (k : Nat) (x : Channel) : (s.setCh k x).limOld = s.limOld := rfl
@[simp] theorem Chip.setCh_flagsOld (k : Nat) (x : Channel) : (s.setCh k x).flagsOld = s.flagsOld := rfl
@[simp] theorem Chip.setCh_elem (k : Nat) (x : Channel) : (s.setCh k x).elem = s.elem := rfl
@[simp] theorem Chip.setCh_estr (k : Nat) (x : Channel) : (s.setCh k x).estr = s.estr := rfl
@[simp] theorem Chip.setCh_pager (k : Nat) (x : Channel) : (s.setCh k x).pager = s.pager := rfl
@[simp] theorem Chip.setCh_tines (k : Nat) (x : Channel) : (s.setCh k x).tines = s.tines := rfl
@[simp] theorem Chip.setCh_images (k : Nat) (x : Channel) : (s.setCh k x).images = s.images := rfl
@[simp] theorem Chip.setCh_kernels (k : Nat) (x : Channel) : (s.setCh k x).kernels = s.kernels := rfl
@[simp] theorem Chip.setCh_cans (k : Nat) (x : Channel) : (s.setCh k x).cans = s.cans := rfl
@[simp] theorem Chip.setCh_release (k : Nat) (x : Channel) : (s.setCh k x).release = s.release := rfl
@[simp] theorem Chip.setCh_profPend (k : Nat) (x : Channel) : (s.setCh k x).profPend = s.profPend := rfl
@[simp] theorem Chip.setCh_profPendDom (k : Nat) (x : Channel) : (s.setCh k x).profPendDom = s.profPendDom := rfl
@[simp] theorem Chip.setCh_newQ (k : Nat) (x : Channel) : (s.setCh k x).newQ = s.newQ := rfl
@[simp] theorem Chip.setCh_power (k : Nat) (x : Channel) : (s.setCh k x).power = s.power := rfl
@[simp] theorem Chip.setCh_lock (k : Nat) (x : Channel) : (s.setCh k x).lock = s.lock := rfl
@[simp] theorem Chip.setCh_regions (k : Nat) (x : Channel) : (s.setCh k x).regions = s.regions := rfl
@[simp] theorem Chip.setCh_arbLast (k : Nat) (x : Channel) : (s.setCh k x).arbLast = s.arbLast := rfl
@[simp] theorem Chip.setCh_bleats (k : Nat) (x : Channel) : (s.setCh k x).bleats = s.bleats := rfl
@[simp] theorem Chip.setCh_pulses (k : Nat) (x : Channel) : (s.setCh k x).pulses = s.pulses := rfl
@[simp] theorem Chip.setCh_gens (k : Nat) (x : Channel) : (s.setCh k x).gens = s.gens := rfl
@[simp] theorem Chip.setCh_reload (k : Nat) (x : Channel) : (s.setCh k x).reload = s.reload := rfl
@[simp] theorem Chip.setCh_time (k : Nat) (x : Channel) : (s.setCh k x).time = s.time := rfl
@[simp] theorem Chip.setCh_sessions (k : Nat) (x : Channel) : (s.setCh k x).sessions = s.sessions := rfl
@[simp] theorem Chip.setCh_parents (k : Nat) (x : Channel) : (s.setCh k x).parents = s.parents := rfl
@[simp] theorem Chip.setCh_children (k : Nat) (x : Channel) : (s.setCh k x).children = s.children := rfl
@[simp] theorem Chip.setCh_usdo (k : Nat) (x : Channel) : (s.setCh k x).usdo = s.usdo := rfl
@[simp] theorem Chip.setCh_rd (k : Nat) (x : Channel) (i' j' : Nat) : (s.setCh k x).rd i' j' = s.rd i' j' := rfl
@[simp] theorem Chip.setCh_rdBit (k : Nat) (x : Channel) (i' j' b' : Nat) : (s.setCh k x).rdBit i' j' b' = s.rdBit i' j' b' := rfl
@[simp] theorem Chip.setCh_rdDom (k : Nat) (x : Channel) (i' j' : Nat) : (s.setCh k x).rdDom i' j' = s.rdDom i' j' := rfl
@[simp] theorem Chip.setCh_grp (k : Nat) (x : Channel) (q : Nat) : (s.setCh k x).grp q = s.grp q := rfl
@[simp] theorem Chip.setCh_st (k : Nat) (x : Channel) (q : Nat) : (s.setCh k x).st q = s.st q := rfl
@[simp] theorem Chip.setCh_ring (k : Nat) (x : Channel) (q : Nat) : (s.setCh k x).ring q = s.ring q := rfl
@[simp] theorem Chip.setCh_slice (k : Nat) (x : Channel) (q : Nat) : (s.setCh k x).slice q = s.slice q := rfl
@[simp] theorem Chip.setCh_hrd (k : Nat) (x : Channel) (q : Nat) : (s.setCh k x).hrd q = s.hrd q := rfl
@[simp] theorem Chip.setCh_sus (k : Nat) (x : Channel) (q : Nat) : (s.setCh k x).sus q = s.sus q := rfl

/-! ### setGrp -/

@[simp] theorem Chip.setGrp_fresh (k : Nat) (x : ChGroup) : (s.setGrp k x).fresh = s.fresh := rfl
@[simp] theorem Chip.setGrp_ans (k : Nat) (x : ChGroup) : (s.setGrp k x).ans = s.ans := rfl
@[simp] theorem Chip.setGrp_od (k : Nat) (x : ChGroup) : (s.setGrp k x).od = s.od := rfl
@[simp] theorem Chip.setGrp_dom (k : Nat) (x : ChGroup) : (s.setGrp k x).dom = s.dom := rfl
@[simp] theorem Chip.setGrp_mode (k : Nat) (x : ChGroup) : (s.setGrp k x).mode = s.mode := rfl
@[simp] theorem Chip.setGrp_trans (k : Nat) (x : ChGroup) : (s.setGrp k x).trans = s.trans := rfl
@[simp] theorem Chip.setGrp_readyTick (k : Nat) (x : ChGroup) : (s.setGrp k x).readyTick = s.readyTick := rfl
@[simp] theorem Chip.setGrp_actReq (k : Nat) (x : ChGroup) : (s.setGrp k x).actReq = s.actReq := rfl
@[simp] theorem Chip.setGrp_actAns (k : Nat) (x : ChGroup) : (s.setGrp k x).actAns = s.actAns := rfl
@[simp] theorem Chip.setGrp_clk (k : Nat) (x : ChGroup) : (s.setGrp k x).clk = s.clk := rfl
@[simp] theorem Chip.setGrp_up (k : Nat) (x : ChGroup) : (s.setGrp k x).up = s.up := rfl
@[simp] theorem Chip.setGrp_link (k : Nat) (x : ChGroup) : (s.setGrp k x).link = s.link := rfl
@[simp] theorem Chip.setGrp_trip (k : Nat) (x : ChGroup) : (s.setGrp k x).trip = s.trip := rfl
@[simp] theorem Chip.setGrp_chan (k : Nat) (x : ChGroup) : (s.setGrp k x).chan = s.chan := rfl
@[simp] theorem Chip.setGrp_adopt (k : Nat) (x : ChGroup) : (s.setGrp k x).adopt = s.adopt := rfl
@[simp] theorem Chip.setGrp_strs (k : Nat) (x : ChGroup) : (s.setGrp k x).strs = s.strs := rfl
@[simp] theorem Chip.setGrp_swi (k : Nat) (x : ChGroup) : (s.setGrp k x).swi = s.swi := rfl
@[simp] theorem Chip.setGrp_claims (k : Nat) (x : ChGroup) : (s.setGrp k x).claims = s.claims := rfl
@[simp] theorem Chip.setGrp_nextClaim (k : Nat) (x : ChGroup) : (s.setGrp k x).nextClaim = s.nextClaim := rfl
@[simp] theorem Chip.setGrp_port (k : Nat) (x : ChGroup) : (s.setGrp k x).port = s.port := rfl
@[simp] theorem Chip.setGrp_slices (k : Nat) (x : ChGroup) : (s.setGrp k x).slices = s.slices := rfl
@[simp] theorem Chip.setGrp_rings (k : Nat) (x : ChGroup) : (s.setGrp k x).rings = s.rings := rfl
@[simp] theorem Chip.setGrp_herd (k : Nat) (x : ChGroup) : (s.setGrp k x).herd = s.herd := rfl
@[simp] theorem Chip.setGrp_sched (k : Nat) (x : ChGroup) : (s.setGrp k x).sched = s.sched := rfl
@[simp] theorem Chip.setGrp_front (k : Nat) (x : ChGroup) : (s.setGrp k x).front = s.front := rfl
@[simp] theorem Chip.setGrp_slotData (k : Nat) (x : ChGroup) : (s.setGrp k x).slotData = s.slotData := rfl
@[simp] theorem Chip.setGrp_slotPub (k : Nat) (x : ChGroup) : (s.setGrp k x).slotPub = s.slotPub := rfl
@[simp] theorem Chip.setGrp_slotOld (k : Nat) (x : ChGroup) : (s.setGrp k x).slotOld = s.slotOld := rfl
@[simp] theorem Chip.setGrp_burstData (k : Nat) (x : ChGroup) : (s.setGrp k x).burstData = s.burstData := rfl
@[simp] theorem Chip.setGrp_duty (k : Nat) (x : ChGroup) : (s.setGrp k x).duty = s.duty := rfl
@[simp] theorem Chip.setGrp_suspects (k : Nat) (x : ChGroup) : (s.setGrp k x).suspects = s.suspects := rfl
@[simp] theorem Chip.setGrp_settling (k : Nat) (x : ChGroup) : (s.setGrp k x).settling = s.settling := rfl
@[simp] theorem Chip.setGrp_acting (k : Nat) (x : ChGroup) : (s.setGrp k x).acting = s.acting := rfl
@[simp] theorem Chip.setGrp_prot (k : Nat) (x : ChGroup) : (s.setGrp k x).prot = s.prot := rfl
@[simp] theorem Chip.setGrp_protOld (k : Nat) (x : ChGroup) : (s.setGrp k x).protOld = s.protOld := rfl
@[simp] theorem Chip.setGrp_tHist (k : Nat) (x : ChGroup) : (s.setGrp k x).tHist = s.tHist := rfl
@[simp] theorem Chip.setGrp_fast (k : Nat) (x : ChGroup) : (s.setGrp k x).fast = s.fast := rfl
@[simp] theorem Chip.setGrp_fastOld (k : Nat) (x : ChGroup) : (s.setGrp k x).fastOld = s.fastOld := rfl
@[simp] theorem Chip.setGrp_elemOld (k : Nat) (x : ChGroup) : (s.setGrp k x).elemOld = s.elemOld := rfl
@[simp] theorem Chip.setGrp_pub (k : Nat) (x : ChGroup) : (s.setGrp k x).pub = s.pub := rfl
@[simp] theorem Chip.setGrp_pubOld (k : Nat) (x : ChGroup) : (s.setGrp k x).pubOld = s.pubOld := rfl
@[simp] theorem Chip.setGrp_limOld (k : Nat) (x : ChGroup) : (s.setGrp k x).limOld = s.limOld := rfl
@[simp] theorem Chip.setGrp_flagsOld (k : Nat) (x : ChGroup) : (s.setGrp k x).flagsOld = s.flagsOld := rfl
@[simp] theorem Chip.setGrp_elem (k : Nat) (x : ChGroup) : (s.setGrp k x).elem = s.elem := rfl
@[simp] theorem Chip.setGrp_estr (k : Nat) (x : ChGroup) : (s.setGrp k x).estr = s.estr := rfl
@[simp] theorem Chip.setGrp_pager (k : Nat) (x : ChGroup) : (s.setGrp k x).pager = s.pager := rfl
@[simp] theorem Chip.setGrp_tines (k : Nat) (x : ChGroup) : (s.setGrp k x).tines = s.tines := rfl
@[simp] theorem Chip.setGrp_images (k : Nat) (x : ChGroup) : (s.setGrp k x).images = s.images := rfl
@[simp] theorem Chip.setGrp_kernels (k : Nat) (x : ChGroup) : (s.setGrp k x).kernels = s.kernels := rfl
@[simp] theorem Chip.setGrp_cans (k : Nat) (x : ChGroup) : (s.setGrp k x).cans = s.cans := rfl
@[simp] theorem Chip.setGrp_release (k : Nat) (x : ChGroup) : (s.setGrp k x).release = s.release := rfl
@[simp] theorem Chip.setGrp_profPend (k : Nat) (x : ChGroup) : (s.setGrp k x).profPend = s.profPend := rfl
@[simp] theorem Chip.setGrp_profPendDom (k : Nat) (x : ChGroup) : (s.setGrp k x).profPendDom = s.profPendDom := rfl
@[simp] theorem Chip.setGrp_newQ (k : Nat) (x : ChGroup) : (s.setGrp k x).newQ = s.newQ := rfl
@[simp] theorem Chip.setGrp_power (k : Nat) (x : ChGroup) : (s.setGrp k x).power = s.power := rfl
@[simp] theorem Chip.setGrp_lock (k : Nat) (x : ChGroup) : (s.setGrp k x).lock = s.lock := rfl
@[simp] theorem Chip.setGrp_regions (k : Nat) (x : ChGroup) : (s.setGrp k x).regions = s.regions := rfl
@[simp] theorem Chip.setGrp_arbLast (k : Nat) (x : ChGroup) : (s.setGrp k x).arbLast = s.arbLast := rfl
@[simp] theorem Chip.setGrp_bleats (k : Nat) (x : ChGroup) : (s.setGrp k x).bleats = s.bleats := rfl
@[simp] theorem Chip.setGrp_pulses (k : Nat) (x : ChGroup) : (s.setGrp k x).pulses = s.pulses := rfl
@[simp] theorem Chip.setGrp_gens (k : Nat) (x : ChGroup) : (s.setGrp k x).gens = s.gens := rfl
@[simp] theorem Chip.setGrp_reload (k : Nat) (x : ChGroup) : (s.setGrp k x).reload = s.reload := rfl
@[simp] theorem Chip.setGrp_time (k : Nat) (x : ChGroup) : (s.setGrp k x).time = s.time := rfl
@[simp] theorem Chip.setGrp_sessions (k : Nat) (x : ChGroup) : (s.setGrp k x).sessions = s.sessions := rfl
@[simp] theorem Chip.setGrp_parents (k : Nat) (x : ChGroup) : (s.setGrp k x).parents = s.parents := rfl
@[simp] theorem Chip.setGrp_children (k : Nat) (x : ChGroup) : (s.setGrp k x).children = s.children := rfl
@[simp] theorem Chip.setGrp_usdo (k : Nat) (x : ChGroup) : (s.setGrp k x).usdo = s.usdo := rfl
@[simp] theorem Chip.setGrp_rd (k : Nat) (x : ChGroup) (i' j' : Nat) : (s.setGrp k x).rd i' j' = s.rd i' j' := rfl
@[simp] theorem Chip.setGrp_rdBit (k : Nat) (x : ChGroup) (i' j' b' : Nat) : (s.setGrp k x).rdBit i' j' b' = s.rdBit i' j' b' := rfl
@[simp] theorem Chip.setGrp_rdDom (k : Nat) (x : ChGroup) (i' j' : Nat) : (s.setGrp k x).rdDom i' j' = s.rdDom i' j' := rfl
@[simp] theorem Chip.setGrp_ch (k : Nat) (x : ChGroup) (q : Nat) : (s.setGrp k x).ch q = s.ch q := rfl
@[simp] theorem Chip.setGrp_st (k : Nat) (x : ChGroup) (q : Nat) : (s.setGrp k x).st q = s.st q := rfl
@[simp] theorem Chip.setGrp_ring (k : Nat) (x : ChGroup) (q : Nat) : (s.setGrp k x).ring q = s.ring q := rfl
@[simp] theorem Chip.setGrp_slice (k : Nat) (x : ChGroup) (q : Nat) : (s.setGrp k x).slice q = s.slice q := rfl
@[simp] theorem Chip.setGrp_hrd (k : Nat) (x : ChGroup) (q : Nat) : (s.setGrp k x).hrd q = s.hrd q := rfl
@[simp] theorem Chip.setGrp_sus (k : Nat) (x : ChGroup) (q : Nat) : (s.setGrp k x).sus q = s.sus q := rfl

/-! ### setSt -/

@[simp] theorem Chip.setSt_fresh (k : Nat) (x : Str) : (s.setSt k x).fresh = s.fresh := rfl
@[simp] theorem Chip.setSt_ans (k : Nat) (x : Str) : (s.setSt k x).ans = s.ans := rfl
@[simp] theorem Chip.setSt_od (k : Nat) (x : Str) : (s.setSt k x).od = s.od := rfl
@[simp] theorem Chip.setSt_dom (k : Nat) (x : Str) : (s.setSt k x).dom = s.dom := rfl
@[simp] theorem Chip.setSt_mode (k : Nat) (x : Str) : (s.setSt k x).mode = s.mode := rfl
@[simp] theorem Chip.setSt_trans (k : Nat) (x : Str) : (s.setSt k x).trans = s.trans := rfl
@[simp] theorem Chip.setSt_readyTick (k : Nat) (x : Str) : (s.setSt k x).readyTick = s.readyTick := rfl
@[simp] theorem Chip.setSt_actReq (k : Nat) (x : Str) : (s.setSt k x).actReq = s.actReq := rfl
@[simp] theorem Chip.setSt_actAns (k : Nat) (x : Str) : (s.setSt k x).actAns = s.actAns := rfl
@[simp] theorem Chip.setSt_clk (k : Nat) (x : Str) : (s.setSt k x).clk = s.clk := rfl
@[simp] theorem Chip.setSt_up (k : Nat) (x : Str) : (s.setSt k x).up = s.up := rfl
@[simp] theorem Chip.setSt_link (k : Nat) (x : Str) : (s.setSt k x).link = s.link := rfl
@[simp] theorem Chip.setSt_trip (k : Nat) (x : Str) : (s.setSt k x).trip = s.trip := rfl
@[simp] theorem Chip.setSt_chan (k : Nat) (x : Str) : (s.setSt k x).chan = s.chan := rfl
@[simp] theorem Chip.setSt_group (k : Nat) (x : Str) : (s.setSt k x).group = s.group := rfl
@[simp] theorem Chip.setSt_adopt (k : Nat) (x : Str) : (s.setSt k x).adopt = s.adopt := rfl
@[simp] theorem Chip.setSt_swi (k : Nat) (x : Str) : (s.setSt k x).swi = s.swi := rfl
@[simp] theorem Chip.setSt_claims (k : Nat) (x : Str) : (s.setSt k x).claims = s.claims := rfl
@[simp] theorem Chip.setSt_nextClaim (k : Nat) (x : Str) : (s.setSt k x).nextClaim = s.nextClaim := rfl
@[simp] theorem Chip.setSt_port (k : Nat) (x : Str) : (s.setSt k x).port = s.port := rfl
@[simp] theorem Chip.setSt_slices (k : Nat) (x : Str) : (s.setSt k x).slices = s.slices := rfl
@[simp] theorem Chip.setSt_rings (k : Nat) (x : Str) : (s.setSt k x).rings = s.rings := rfl
@[simp] theorem Chip.setSt_herd (k : Nat) (x : Str) : (s.setSt k x).herd = s.herd := rfl
@[simp] theorem Chip.setSt_sched (k : Nat) (x : Str) : (s.setSt k x).sched = s.sched := rfl
@[simp] theorem Chip.setSt_front (k : Nat) (x : Str) : (s.setSt k x).front = s.front := rfl
@[simp] theorem Chip.setSt_slotData (k : Nat) (x : Str) : (s.setSt k x).slotData = s.slotData := rfl
@[simp] theorem Chip.setSt_slotPub (k : Nat) (x : Str) : (s.setSt k x).slotPub = s.slotPub := rfl
@[simp] theorem Chip.setSt_slotOld (k : Nat) (x : Str) : (s.setSt k x).slotOld = s.slotOld := rfl
@[simp] theorem Chip.setSt_burstData (k : Nat) (x : Str) : (s.setSt k x).burstData = s.burstData := rfl
@[simp] theorem Chip.setSt_duty (k : Nat) (x : Str) : (s.setSt k x).duty = s.duty := rfl
@[simp] theorem Chip.setSt_suspects (k : Nat) (x : Str) : (s.setSt k x).suspects = s.suspects := rfl
@[simp] theorem Chip.setSt_settling (k : Nat) (x : Str) : (s.setSt k x).settling = s.settling := rfl
@[simp] theorem Chip.setSt_acting (k : Nat) (x : Str) : (s.setSt k x).acting = s.acting := rfl
@[simp] theorem Chip.setSt_prot (k : Nat) (x : Str) : (s.setSt k x).prot = s.prot := rfl
@[simp] theorem Chip.setSt_protOld (k : Nat) (x : Str) : (s.setSt k x).protOld = s.protOld := rfl
@[simp] theorem Chip.setSt_tHist (k : Nat) (x : Str) : (s.setSt k x).tHist = s.tHist := rfl
@[simp] theorem Chip.setSt_fast (k : Nat) (x : Str) : (s.setSt k x).fast = s.fast := rfl
@[simp] theorem Chip.setSt_fastOld (k : Nat) (x : Str) : (s.setSt k x).fastOld = s.fastOld := rfl
@[simp] theorem Chip.setSt_elemOld (k : Nat) (x : Str) : (s.setSt k x).elemOld = s.elemOld := rfl
@[simp] theorem Chip.setSt_pub (k : Nat) (x : Str) : (s.setSt k x).pub = s.pub := rfl
@[simp] theorem Chip.setSt_pubOld (k : Nat) (x : Str) : (s.setSt k x).pubOld = s.pubOld := rfl
@[simp] theorem Chip.setSt_limOld (k : Nat) (x : Str) : (s.setSt k x).limOld = s.limOld := rfl
@[simp] theorem Chip.setSt_flagsOld (k : Nat) (x : Str) : (s.setSt k x).flagsOld = s.flagsOld := rfl
@[simp] theorem Chip.setSt_elem (k : Nat) (x : Str) : (s.setSt k x).elem = s.elem := rfl
@[simp] theorem Chip.setSt_estr (k : Nat) (x : Str) : (s.setSt k x).estr = s.estr := rfl
@[simp] theorem Chip.setSt_pager (k : Nat) (x : Str) : (s.setSt k x).pager = s.pager := rfl
@[simp] theorem Chip.setSt_tines (k : Nat) (x : Str) : (s.setSt k x).tines = s.tines := rfl
@[simp] theorem Chip.setSt_images (k : Nat) (x : Str) : (s.setSt k x).images = s.images := rfl
@[simp] theorem Chip.setSt_kernels (k : Nat) (x : Str) : (s.setSt k x).kernels = s.kernels := rfl
@[simp] theorem Chip.setSt_cans (k : Nat) (x : Str) : (s.setSt k x).cans = s.cans := rfl
@[simp] theorem Chip.setSt_release (k : Nat) (x : Str) : (s.setSt k x).release = s.release := rfl
@[simp] theorem Chip.setSt_profPend (k : Nat) (x : Str) : (s.setSt k x).profPend = s.profPend := rfl
@[simp] theorem Chip.setSt_profPendDom (k : Nat) (x : Str) : (s.setSt k x).profPendDom = s.profPendDom := rfl
@[simp] theorem Chip.setSt_newQ (k : Nat) (x : Str) : (s.setSt k x).newQ = s.newQ := rfl
@[simp] theorem Chip.setSt_power (k : Nat) (x : Str) : (s.setSt k x).power = s.power := rfl
@[simp] theorem Chip.setSt_lock (k : Nat) (x : Str) : (s.setSt k x).lock = s.lock := rfl
@[simp] theorem Chip.setSt_regions (k : Nat) (x : Str) : (s.setSt k x).regions = s.regions := rfl
@[simp] theorem Chip.setSt_arbLast (k : Nat) (x : Str) : (s.setSt k x).arbLast = s.arbLast := rfl
@[simp] theorem Chip.setSt_bleats (k : Nat) (x : Str) : (s.setSt k x).bleats = s.bleats := rfl
@[simp] theorem Chip.setSt_pulses (k : Nat) (x : Str) : (s.setSt k x).pulses = s.pulses := rfl
@[simp] theorem Chip.setSt_gens (k : Nat) (x : Str) : (s.setSt k x).gens = s.gens := rfl
@[simp] theorem Chip.setSt_reload (k : Nat) (x : Str) : (s.setSt k x).reload = s.reload := rfl
@[simp] theorem Chip.setSt_time (k : Nat) (x : Str) : (s.setSt k x).time = s.time := rfl
@[simp] theorem Chip.setSt_sessions (k : Nat) (x : Str) : (s.setSt k x).sessions = s.sessions := rfl
@[simp] theorem Chip.setSt_parents (k : Nat) (x : Str) : (s.setSt k x).parents = s.parents := rfl
@[simp] theorem Chip.setSt_children (k : Nat) (x : Str) : (s.setSt k x).children = s.children := rfl
@[simp] theorem Chip.setSt_usdo (k : Nat) (x : Str) : (s.setSt k x).usdo = s.usdo := rfl
@[simp] theorem Chip.setSt_rd (k : Nat) (x : Str) (i' j' : Nat) : (s.setSt k x).rd i' j' = s.rd i' j' := rfl
@[simp] theorem Chip.setSt_rdBit (k : Nat) (x : Str) (i' j' b' : Nat) : (s.setSt k x).rdBit i' j' b' = s.rdBit i' j' b' := rfl
@[simp] theorem Chip.setSt_rdDom (k : Nat) (x : Str) (i' j' : Nat) : (s.setSt k x).rdDom i' j' = s.rdDom i' j' := rfl
@[simp] theorem Chip.setSt_ch (k : Nat) (x : Str) (q : Nat) : (s.setSt k x).ch q = s.ch q := rfl
@[simp] theorem Chip.setSt_grp (k : Nat) (x : Str) (q : Nat) : (s.setSt k x).grp q = s.grp q := rfl
@[simp] theorem Chip.setSt_ring (k : Nat) (x : Str) (q : Nat) : (s.setSt k x).ring q = s.ring q := rfl
@[simp] theorem Chip.setSt_slice (k : Nat) (x : Str) (q : Nat) : (s.setSt k x).slice q = s.slice q := rfl
@[simp] theorem Chip.setSt_hrd (k : Nat) (x : Str) (q : Nat) : (s.setSt k x).hrd q = s.hrd q := rfl
@[simp] theorem Chip.setSt_sus (k : Nat) (x : Str) (q : Nat) : (s.setSt k x).sus q = s.sus q := rfl

/-! ### setRing -/

@[simp] theorem Chip.setRing_fresh (k : Nat) (x : Ring) : (s.setRing k x).fresh = s.fresh := rfl
@[simp] theorem Chip.setRing_ans (k : Nat) (x : Ring) : (s.setRing k x).ans = s.ans := rfl
@[simp] theorem Chip.setRing_od (k : Nat) (x : Ring) : (s.setRing k x).od = s.od := rfl
@[simp] theorem Chip.setRing_dom (k : Nat) (x : Ring) : (s.setRing k x).dom = s.dom := rfl
@[simp] theorem Chip.setRing_mode (k : Nat) (x : Ring) : (s.setRing k x).mode = s.mode := rfl
@[simp] theorem Chip.setRing_trans (k : Nat) (x : Ring) : (s.setRing k x).trans = s.trans := rfl
@[simp] theorem Chip.setRing_readyTick (k : Nat) (x : Ring) : (s.setRing k x).readyTick = s.readyTick := rfl
@[simp] theorem Chip.setRing_actReq (k : Nat) (x : Ring) : (s.setRing k x).actReq = s.actReq := rfl
@[simp] theorem Chip.setRing_actAns (k : Nat) (x : Ring) : (s.setRing k x).actAns = s.actAns := rfl
@[simp] theorem Chip.setRing_clk (k : Nat) (x : Ring) : (s.setRing k x).clk = s.clk := rfl
@[simp] theorem Chip.setRing_up (k : Nat) (x : Ring) : (s.setRing k x).up = s.up := rfl
@[simp] theorem Chip.setRing_link (k : Nat) (x : Ring) : (s.setRing k x).link = s.link := rfl
@[simp] theorem Chip.setRing_trip (k : Nat) (x : Ring) : (s.setRing k x).trip = s.trip := rfl
@[simp] theorem Chip.setRing_chan (k : Nat) (x : Ring) : (s.setRing k x).chan = s.chan := rfl
@[simp] theorem Chip.setRing_group (k : Nat) (x : Ring) : (s.setRing k x).group = s.group := rfl
@[simp] theorem Chip.setRing_adopt (k : Nat) (x : Ring) : (s.setRing k x).adopt = s.adopt := rfl
@[simp] theorem Chip.setRing_strs (k : Nat) (x : Ring) : (s.setRing k x).strs = s.strs := rfl
@[simp] theorem Chip.setRing_swi (k : Nat) (x : Ring) : (s.setRing k x).swi = s.swi := rfl
@[simp] theorem Chip.setRing_claims (k : Nat) (x : Ring) : (s.setRing k x).claims = s.claims := rfl
@[simp] theorem Chip.setRing_nextClaim (k : Nat) (x : Ring) : (s.setRing k x).nextClaim = s.nextClaim := rfl
@[simp] theorem Chip.setRing_port (k : Nat) (x : Ring) : (s.setRing k x).port = s.port := rfl
@[simp] theorem Chip.setRing_slices (k : Nat) (x : Ring) : (s.setRing k x).slices = s.slices := rfl
@[simp] theorem Chip.setRing_herd (k : Nat) (x : Ring) : (s.setRing k x).herd = s.herd := rfl
@[simp] theorem Chip.setRing_sched (k : Nat) (x : Ring) : (s.setRing k x).sched = s.sched := rfl
@[simp] theorem Chip.setRing_front (k : Nat) (x : Ring) : (s.setRing k x).front = s.front := rfl
@[simp] theorem Chip.setRing_slotData (k : Nat) (x : Ring) : (s.setRing k x).slotData = s.slotData := rfl
@[simp] theorem Chip.setRing_slotPub (k : Nat) (x : Ring) : (s.setRing k x).slotPub = s.slotPub := rfl
@[simp] theorem Chip.setRing_slotOld (k : Nat) (x : Ring) : (s.setRing k x).slotOld = s.slotOld := rfl
@[simp] theorem Chip.setRing_burstData (k : Nat) (x : Ring) : (s.setRing k x).burstData = s.burstData := rfl
@[simp] theorem Chip.setRing_duty (k : Nat) (x : Ring) : (s.setRing k x).duty = s.duty := rfl
@[simp] theorem Chip.setRing_suspects (k : Nat) (x : Ring) : (s.setRing k x).suspects = s.suspects := rfl
@[simp] theorem Chip.setRing_settling (k : Nat) (x : Ring) : (s.setRing k x).settling = s.settling := rfl
@[simp] theorem Chip.setRing_acting (k : Nat) (x : Ring) : (s.setRing k x).acting = s.acting := rfl
@[simp] theorem Chip.setRing_prot (k : Nat) (x : Ring) : (s.setRing k x).prot = s.prot := rfl
@[simp] theorem Chip.setRing_protOld (k : Nat) (x : Ring) : (s.setRing k x).protOld = s.protOld := rfl
@[simp] theorem Chip.setRing_tHist (k : Nat) (x : Ring) : (s.setRing k x).tHist = s.tHist := rfl
@[simp] theorem Chip.setRing_fast (k : Nat) (x : Ring) : (s.setRing k x).fast = s.fast := rfl
@[simp] theorem Chip.setRing_fastOld (k : Nat) (x : Ring) : (s.setRing k x).fastOld = s.fastOld := rfl
@[simp] theorem Chip.setRing_elemOld (k : Nat) (x : Ring) : (s.setRing k x).elemOld = s.elemOld := rfl
@[simp] theorem Chip.setRing_pub (k : Nat) (x : Ring) : (s.setRing k x).pub = s.pub := rfl
@[simp] theorem Chip.setRing_pubOld (k : Nat) (x : Ring) : (s.setRing k x).pubOld = s.pubOld := rfl
@[simp] theorem Chip.setRing_limOld (k : Nat) (x : Ring) : (s.setRing k x).limOld = s.limOld := rfl
@[simp] theorem Chip.setRing_flagsOld (k : Nat) (x : Ring) : (s.setRing k x).flagsOld = s.flagsOld := rfl
@[simp] theorem Chip.setRing_elem (k : Nat) (x : Ring) : (s.setRing k x).elem = s.elem := rfl
@[simp] theorem Chip.setRing_estr (k : Nat) (x : Ring) : (s.setRing k x).estr = s.estr := rfl
@[simp] theorem Chip.setRing_pager (k : Nat) (x : Ring) : (s.setRing k x).pager = s.pager := rfl
@[simp] theorem Chip.setRing_tines (k : Nat) (x : Ring) : (s.setRing k x).tines = s.tines := rfl
@[simp] theorem Chip.setRing_images (k : Nat) (x : Ring) : (s.setRing k x).images = s.images := rfl
@[simp] theorem Chip.setRing_kernels (k : Nat) (x : Ring) : (s.setRing k x).kernels = s.kernels := rfl
@[simp] theorem Chip.setRing_cans (k : Nat) (x : Ring) : (s.setRing k x).cans = s.cans := rfl
@[simp] theorem Chip.setRing_release (k : Nat) (x : Ring) : (s.setRing k x).release = s.release := rfl
@[simp] theorem Chip.setRing_profPend (k : Nat) (x : Ring) : (s.setRing k x).profPend = s.profPend := rfl
@[simp] theorem Chip.setRing_profPendDom (k : Nat) (x : Ring) : (s.setRing k x).profPendDom = s.profPendDom := rfl
@[simp] theorem Chip.setRing_newQ (k : Nat) (x : Ring) : (s.setRing k x).newQ = s.newQ := rfl
@[simp] theorem Chip.setRing_power (k : Nat) (x : Ring) : (s.setRing k x).power = s.power := rfl
@[simp] theorem Chip.setRing_lock (k : Nat) (x : Ring) : (s.setRing k x).lock = s.lock := rfl
@[simp] theorem Chip.setRing_regions (k : Nat) (x : Ring) : (s.setRing k x).regions = s.regions := rfl
@[simp] theorem Chip.setRing_arbLast (k : Nat) (x : Ring) : (s.setRing k x).arbLast = s.arbLast := rfl
@[simp] theorem Chip.setRing_bleats (k : Nat) (x : Ring) : (s.setRing k x).bleats = s.bleats := rfl
@[simp] theorem Chip.setRing_pulses (k : Nat) (x : Ring) : (s.setRing k x).pulses = s.pulses := rfl
@[simp] theorem Chip.setRing_gens (k : Nat) (x : Ring) : (s.setRing k x).gens = s.gens := rfl
@[simp] theorem Chip.setRing_reload (k : Nat) (x : Ring) : (s.setRing k x).reload = s.reload := rfl
@[simp] theorem Chip.setRing_time (k : Nat) (x : Ring) : (s.setRing k x).time = s.time := rfl
@[simp] theorem Chip.setRing_sessions (k : Nat) (x : Ring) : (s.setRing k x).sessions = s.sessions := rfl
@[simp] theorem Chip.setRing_parents (k : Nat) (x : Ring) : (s.setRing k x).parents = s.parents := rfl
@[simp] theorem Chip.setRing_children (k : Nat) (x : Ring) : (s.setRing k x).children = s.children := rfl
@[simp] theorem Chip.setRing_usdo (k : Nat) (x : Ring) : (s.setRing k x).usdo = s.usdo := rfl
@[simp] theorem Chip.setRing_rd (k : Nat) (x : Ring) (i' j' : Nat) : (s.setRing k x).rd i' j' = s.rd i' j' := rfl
@[simp] theorem Chip.setRing_rdBit (k : Nat) (x : Ring) (i' j' b' : Nat) : (s.setRing k x).rdBit i' j' b' = s.rdBit i' j' b' := rfl
@[simp] theorem Chip.setRing_rdDom (k : Nat) (x : Ring) (i' j' : Nat) : (s.setRing k x).rdDom i' j' = s.rdDom i' j' := rfl
@[simp] theorem Chip.setRing_ch (k : Nat) (x : Ring) (q : Nat) : (s.setRing k x).ch q = s.ch q := rfl
@[simp] theorem Chip.setRing_grp (k : Nat) (x : Ring) (q : Nat) : (s.setRing k x).grp q = s.grp q := rfl
@[simp] theorem Chip.setRing_st (k : Nat) (x : Ring) (q : Nat) : (s.setRing k x).st q = s.st q := rfl
@[simp] theorem Chip.setRing_slice (k : Nat) (x : Ring) (q : Nat) : (s.setRing k x).slice q = s.slice q := rfl
@[simp] theorem Chip.setRing_hrd (k : Nat) (x : Ring) (q : Nat) : (s.setRing k x).hrd q = s.hrd q := rfl
@[simp] theorem Chip.setRing_sus (k : Nat) (x : Ring) (q : Nat) : (s.setRing k x).sus q = s.sus q := rfl

/-! ### setSlice -/

@[simp] theorem Chip.setSlice_fresh (k : Nat) (x : Slice) : (s.setSlice k x).fresh = s.fresh := rfl
@[simp] theorem Chip.setSlice_ans (k : Nat) (x : Slice) : (s.setSlice k x).ans = s.ans := rfl
@[simp] theorem Chip.setSlice_od (k : Nat) (x : Slice) : (s.setSlice k x).od = s.od := rfl
@[simp] theorem Chip.setSlice_dom (k : Nat) (x : Slice) : (s.setSlice k x).dom = s.dom := rfl
@[simp] theorem Chip.setSlice_mode (k : Nat) (x : Slice) : (s.setSlice k x).mode = s.mode := rfl
@[simp] theorem Chip.setSlice_trans (k : Nat) (x : Slice) : (s.setSlice k x).trans = s.trans := rfl
@[simp] theorem Chip.setSlice_readyTick (k : Nat) (x : Slice) : (s.setSlice k x).readyTick = s.readyTick := rfl
@[simp] theorem Chip.setSlice_actReq (k : Nat) (x : Slice) : (s.setSlice k x).actReq = s.actReq := rfl
@[simp] theorem Chip.setSlice_actAns (k : Nat) (x : Slice) : (s.setSlice k x).actAns = s.actAns := rfl
@[simp] theorem Chip.setSlice_clk (k : Nat) (x : Slice) : (s.setSlice k x).clk = s.clk := rfl
@[simp] theorem Chip.setSlice_up (k : Nat) (x : Slice) : (s.setSlice k x).up = s.up := rfl
@[simp] theorem Chip.setSlice_link (k : Nat) (x : Slice) : (s.setSlice k x).link = s.link := rfl
@[simp] theorem Chip.setSlice_trip (k : Nat) (x : Slice) : (s.setSlice k x).trip = s.trip := rfl
@[simp] theorem Chip.setSlice_chan (k : Nat) (x : Slice) : (s.setSlice k x).chan = s.chan := rfl
@[simp] theorem Chip.setSlice_group (k : Nat) (x : Slice) : (s.setSlice k x).group = s.group := rfl
@[simp] theorem Chip.setSlice_adopt (k : Nat) (x : Slice) : (s.setSlice k x).adopt = s.adopt := rfl
@[simp] theorem Chip.setSlice_strs (k : Nat) (x : Slice) : (s.setSlice k x).strs = s.strs := rfl
@[simp] theorem Chip.setSlice_swi (k : Nat) (x : Slice) : (s.setSlice k x).swi = s.swi := rfl
@[simp] theorem Chip.setSlice_claims (k : Nat) (x : Slice) : (s.setSlice k x).claims = s.claims := rfl
@[simp] theorem Chip.setSlice_nextClaim (k : Nat) (x : Slice) : (s.setSlice k x).nextClaim = s.nextClaim := rfl
@[simp] theorem Chip.setSlice_port (k : Nat) (x : Slice) : (s.setSlice k x).port = s.port := rfl
@[simp] theorem Chip.setSlice_rings (k : Nat) (x : Slice) : (s.setSlice k x).rings = s.rings := rfl
@[simp] theorem Chip.setSlice_herd (k : Nat) (x : Slice) : (s.setSlice k x).herd = s.herd := rfl
@[simp] theorem Chip.setSlice_sched (k : Nat) (x : Slice) : (s.setSlice k x).sched = s.sched := rfl
@[simp] theorem Chip.setSlice_front (k : Nat) (x : Slice) : (s.setSlice k x).front = s.front := rfl
@[simp] theorem Chip.setSlice_slotData (k : Nat) (x : Slice) : (s.setSlice k x).slotData = s.slotData := rfl
@[simp] theorem Chip.setSlice_slotPub (k : Nat) (x : Slice) : (s.setSlice k x).slotPub = s.slotPub := rfl
@[simp] theorem Chip.setSlice_slotOld (k : Nat) (x : Slice) : (s.setSlice k x).slotOld = s.slotOld := rfl
@[simp] theorem Chip.setSlice_burstData (k : Nat) (x : Slice) : (s.setSlice k x).burstData = s.burstData := rfl
@[simp] theorem Chip.setSlice_duty (k : Nat) (x : Slice) : (s.setSlice k x).duty = s.duty := rfl
@[simp] theorem Chip.setSlice_suspects (k : Nat) (x : Slice) : (s.setSlice k x).suspects = s.suspects := rfl
@[simp] theorem Chip.setSlice_settling (k : Nat) (x : Slice) : (s.setSlice k x).settling = s.settling := rfl
@[simp] theorem Chip.setSlice_acting (k : Nat) (x : Slice) : (s.setSlice k x).acting = s.acting := rfl
@[simp] theorem Chip.setSlice_prot (k : Nat) (x : Slice) : (s.setSlice k x).prot = s.prot := rfl
@[simp] theorem Chip.setSlice_protOld (k : Nat) (x : Slice) : (s.setSlice k x).protOld = s.protOld := rfl
@[simp] theorem Chip.setSlice_tHist (k : Nat) (x : Slice) : (s.setSlice k x).tHist = s.tHist := rfl
@[simp] theorem Chip.setSlice_fast (k : Nat) (x : Slice) : (s.setSlice k x).fast = s.fast := rfl
@[simp] theorem Chip.setSlice_fastOld (k : Nat) (x : Slice) : (s.setSlice k x).fastOld = s.fastOld := rfl
@[simp] theorem Chip.setSlice_elemOld (k : Nat) (x : Slice) : (s.setSlice k x).elemOld = s.elemOld := rfl
@[simp] theorem Chip.setSlice_pub (k : Nat) (x : Slice) : (s.setSlice k x).pub = s.pub := rfl
@[simp] theorem Chip.setSlice_pubOld (k : Nat) (x : Slice) : (s.setSlice k x).pubOld = s.pubOld := rfl
@[simp] theorem Chip.setSlice_limOld (k : Nat) (x : Slice) : (s.setSlice k x).limOld = s.limOld := rfl
@[simp] theorem Chip.setSlice_flagsOld (k : Nat) (x : Slice) : (s.setSlice k x).flagsOld = s.flagsOld := rfl
@[simp] theorem Chip.setSlice_elem (k : Nat) (x : Slice) : (s.setSlice k x).elem = s.elem := rfl
@[simp] theorem Chip.setSlice_estr (k : Nat) (x : Slice) : (s.setSlice k x).estr = s.estr := rfl
@[simp] theorem Chip.setSlice_pager (k : Nat) (x : Slice) : (s.setSlice k x).pager = s.pager := rfl
@[simp] theorem Chip.setSlice_tines (k : Nat) (x : Slice) : (s.setSlice k x).tines = s.tines := rfl
@[simp] theorem Chip.setSlice_images (k : Nat) (x : Slice) : (s.setSlice k x).images = s.images := rfl
@[simp] theorem Chip.setSlice_kernels (k : Nat) (x : Slice) : (s.setSlice k x).kernels = s.kernels := rfl
@[simp] theorem Chip.setSlice_cans (k : Nat) (x : Slice) : (s.setSlice k x).cans = s.cans := rfl
@[simp] theorem Chip.setSlice_release (k : Nat) (x : Slice) : (s.setSlice k x).release = s.release := rfl
@[simp] theorem Chip.setSlice_profPend (k : Nat) (x : Slice) : (s.setSlice k x).profPend = s.profPend := rfl
@[simp] theorem Chip.setSlice_profPendDom (k : Nat) (x : Slice) : (s.setSlice k x).profPendDom = s.profPendDom := rfl
@[simp] theorem Chip.setSlice_newQ (k : Nat) (x : Slice) : (s.setSlice k x).newQ = s.newQ := rfl
@[simp] theorem Chip.setSlice_power (k : Nat) (x : Slice) : (s.setSlice k x).power = s.power := rfl
@[simp] theorem Chip.setSlice_lock (k : Nat) (x : Slice) : (s.setSlice k x).lock = s.lock := rfl
@[simp] theorem Chip.setSlice_regions (k : Nat) (x : Slice) : (s.setSlice k x).regions = s.regions := rfl
@[simp] theorem Chip.setSlice_arbLast (k : Nat) (x : Slice) : (s.setSlice k x).arbLast = s.arbLast := rfl
@[simp] theorem Chip.setSlice_bleats (k : Nat) (x : Slice) : (s.setSlice k x).bleats = s.bleats := rfl
@[simp] theorem Chip.setSlice_pulses (k : Nat) (x : Slice) : (s.setSlice k x).pulses = s.pulses := rfl
@[simp] theorem Chip.setSlice_gens (k : Nat) (x : Slice) : (s.setSlice k x).gens = s.gens := rfl
@[simp] theorem Chip.setSlice_reload (k : Nat) (x : Slice) : (s.setSlice k x).reload = s.reload := rfl
@[simp] theorem Chip.setSlice_time (k : Nat) (x : Slice) : (s.setSlice k x).time = s.time := rfl
@[simp] theorem Chip.setSlice_sessions (k : Nat) (x : Slice) : (s.setSlice k x).sessions = s.sessions := rfl
@[simp] theorem Chip.setSlice_parents (k : Nat) (x : Slice) : (s.setSlice k x).parents = s.parents := rfl
@[simp] theorem Chip.setSlice_children (k : Nat) (x : Slice) : (s.setSlice k x).children = s.children := rfl
@[simp] theorem Chip.setSlice_usdo (k : Nat) (x : Slice) : (s.setSlice k x).usdo = s.usdo := rfl
@[simp] theorem Chip.setSlice_rd (k : Nat) (x : Slice) (i' j' : Nat) : (s.setSlice k x).rd i' j' = s.rd i' j' := rfl
@[simp] theorem Chip.setSlice_rdBit (k : Nat) (x : Slice) (i' j' b' : Nat) : (s.setSlice k x).rdBit i' j' b' = s.rdBit i' j' b' := rfl
@[simp] theorem Chip.setSlice_rdDom (k : Nat) (x : Slice) (i' j' : Nat) : (s.setSlice k x).rdDom i' j' = s.rdDom i' j' := rfl
@[simp] theorem Chip.setSlice_ch (k : Nat) (x : Slice) (q : Nat) : (s.setSlice k x).ch q = s.ch q := rfl
@[simp] theorem Chip.setSlice_grp (k : Nat) (x : Slice) (q : Nat) : (s.setSlice k x).grp q = s.grp q := rfl
@[simp] theorem Chip.setSlice_st (k : Nat) (x : Slice) (q : Nat) : (s.setSlice k x).st q = s.st q := rfl
@[simp] theorem Chip.setSlice_ring (k : Nat) (x : Slice) (q : Nat) : (s.setSlice k x).ring q = s.ring q := rfl
@[simp] theorem Chip.setSlice_hrd (k : Nat) (x : Slice) (q : Nat) : (s.setSlice k x).hrd q = s.hrd q := rfl
@[simp] theorem Chip.setSlice_sus (k : Nat) (x : Slice) (q : Nat) : (s.setSlice k x).sus q = s.sus q := rfl

/-! ### setHrd -/

@[simp] theorem Chip.setHrd_fresh (k : Nat) (x : Herd) : (s.setHrd k x).fresh = s.fresh := rfl
@[simp] theorem Chip.setHrd_ans (k : Nat) (x : Herd) : (s.setHrd k x).ans = s.ans := rfl
@[simp] theorem Chip.setHrd_od (k : Nat) (x : Herd) : (s.setHrd k x).od = s.od := rfl
@[simp] theorem Chip.setHrd_dom (k : Nat) (x : Herd) : (s.setHrd k x).dom = s.dom := rfl
@[simp] theorem Chip.setHrd_mode (k : Nat) (x : Herd) : (s.setHrd k x).mode = s.mode := rfl
@[simp] theorem Chip.setHrd_trans (k : Nat) (x : Herd) : (s.setHrd k x).trans = s.trans := rfl
@[simp] theorem Chip.setHrd_readyTick (k : Nat) (x : Herd) : (s.setHrd k x).readyTick = s.readyTick := rfl
@[simp] theorem Chip.setHrd_actReq (k : Nat) (x : Herd) : (s.setHrd k x).actReq = s.actReq := rfl
@[simp] theorem Chip.setHrd_actAns (k : Nat) (x : Herd) : (s.setHrd k x).actAns = s.actAns := rfl
@[simp] theorem Chip.setHrd_clk (k : Nat) (x : Herd) : (s.setHrd k x).clk = s.clk := rfl
@[simp] theorem Chip.setHrd_up (k : Nat) (x : Herd) : (s.setHrd k x).up = s.up := rfl
@[simp] theorem Chip.setHrd_link (k : Nat) (x : Herd) : (s.setHrd k x).link = s.link := rfl
@[simp] theorem Chip.setHrd_trip (k : Nat) (x : Herd) : (s.setHrd k x).trip = s.trip := rfl
@[simp] theorem Chip.setHrd_chan (k : Nat) (x : Herd) : (s.setHrd k x).chan = s.chan := rfl
@[simp] theorem Chip.setHrd_group (k : Nat) (x : Herd) : (s.setHrd k x).group = s.group := rfl
@[simp] theorem Chip.setHrd_adopt (k : Nat) (x : Herd) : (s.setHrd k x).adopt = s.adopt := rfl
@[simp] theorem Chip.setHrd_strs (k : Nat) (x : Herd) : (s.setHrd k x).strs = s.strs := rfl
@[simp] theorem Chip.setHrd_swi (k : Nat) (x : Herd) : (s.setHrd k x).swi = s.swi := rfl
@[simp] theorem Chip.setHrd_claims (k : Nat) (x : Herd) : (s.setHrd k x).claims = s.claims := rfl
@[simp] theorem Chip.setHrd_nextClaim (k : Nat) (x : Herd) : (s.setHrd k x).nextClaim = s.nextClaim := rfl
@[simp] theorem Chip.setHrd_port (k : Nat) (x : Herd) : (s.setHrd k x).port = s.port := rfl
@[simp] theorem Chip.setHrd_slices (k : Nat) (x : Herd) : (s.setHrd k x).slices = s.slices := rfl
@[simp] theorem Chip.setHrd_rings (k : Nat) (x : Herd) : (s.setHrd k x).rings = s.rings := rfl
@[simp] theorem Chip.setHrd_sched (k : Nat) (x : Herd) : (s.setHrd k x).sched = s.sched := rfl
@[simp] theorem Chip.setHrd_front (k : Nat) (x : Herd) : (s.setHrd k x).front = s.front := rfl
@[simp] theorem Chip.setHrd_slotData (k : Nat) (x : Herd) : (s.setHrd k x).slotData = s.slotData := rfl
@[simp] theorem Chip.setHrd_slotPub (k : Nat) (x : Herd) : (s.setHrd k x).slotPub = s.slotPub := rfl
@[simp] theorem Chip.setHrd_slotOld (k : Nat) (x : Herd) : (s.setHrd k x).slotOld = s.slotOld := rfl
@[simp] theorem Chip.setHrd_burstData (k : Nat) (x : Herd) : (s.setHrd k x).burstData = s.burstData := rfl
@[simp] theorem Chip.setHrd_duty (k : Nat) (x : Herd) : (s.setHrd k x).duty = s.duty := rfl
@[simp] theorem Chip.setHrd_suspects (k : Nat) (x : Herd) : (s.setHrd k x).suspects = s.suspects := rfl
@[simp] theorem Chip.setHrd_settling (k : Nat) (x : Herd) : (s.setHrd k x).settling = s.settling := rfl
@[simp] theorem Chip.setHrd_acting (k : Nat) (x : Herd) : (s.setHrd k x).acting = s.acting := rfl
@[simp] theorem Chip.setHrd_prot (k : Nat) (x : Herd) : (s.setHrd k x).prot = s.prot := rfl
@[simp] theorem Chip.setHrd_protOld (k : Nat) (x : Herd) : (s.setHrd k x).protOld = s.protOld := rfl
@[simp] theorem Chip.setHrd_tHist (k : Nat) (x : Herd) : (s.setHrd k x).tHist = s.tHist := rfl
@[simp] theorem Chip.setHrd_fast (k : Nat) (x : Herd) : (s.setHrd k x).fast = s.fast := rfl
@[simp] theorem Chip.setHrd_fastOld (k : Nat) (x : Herd) : (s.setHrd k x).fastOld = s.fastOld := rfl
@[simp] theorem Chip.setHrd_elemOld (k : Nat) (x : Herd) : (s.setHrd k x).elemOld = s.elemOld := rfl
@[simp] theorem Chip.setHrd_pub (k : Nat) (x : Herd) : (s.setHrd k x).pub = s.pub := rfl
@[simp] theorem Chip.setHrd_pubOld (k : Nat) (x : Herd) : (s.setHrd k x).pubOld = s.pubOld := rfl
@[simp] theorem Chip.setHrd_limOld (k : Nat) (x : Herd) : (s.setHrd k x).limOld = s.limOld := rfl
@[simp] theorem Chip.setHrd_flagsOld (k : Nat) (x : Herd) : (s.setHrd k x).flagsOld = s.flagsOld := rfl
@[simp] theorem Chip.setHrd_elem (k : Nat) (x : Herd) : (s.setHrd k x).elem = s.elem := rfl
@[simp] theorem Chip.setHrd_estr (k : Nat) (x : Herd) : (s.setHrd k x).estr = s.estr := rfl
@[simp] theorem Chip.setHrd_pager (k : Nat) (x : Herd) : (s.setHrd k x).pager = s.pager := rfl
@[simp] theorem Chip.setHrd_tines (k : Nat) (x : Herd) : (s.setHrd k x).tines = s.tines := rfl
@[simp] theorem Chip.setHrd_images (k : Nat) (x : Herd) : (s.setHrd k x).images = s.images := rfl
@[simp] theorem Chip.setHrd_kernels (k : Nat) (x : Herd) : (s.setHrd k x).kernels = s.kernels := rfl
@[simp] theorem Chip.setHrd_cans (k : Nat) (x : Herd) : (s.setHrd k x).cans = s.cans := rfl
@[simp] theorem Chip.setHrd_release (k : Nat) (x : Herd) : (s.setHrd k x).release = s.release := rfl
@[simp] theorem Chip.setHrd_profPend (k : Nat) (x : Herd) : (s.setHrd k x).profPend = s.profPend := rfl
@[simp] theorem Chip.setHrd_profPendDom (k : Nat) (x : Herd) : (s.setHrd k x).profPendDom = s.profPendDom := rfl
@[simp] theorem Chip.setHrd_newQ (k : Nat) (x : Herd) : (s.setHrd k x).newQ = s.newQ := rfl
@[simp] theorem Chip.setHrd_power (k : Nat) (x : Herd) : (s.setHrd k x).power = s.power := rfl
@[simp] theorem Chip.setHrd_lock (k : Nat) (x : Herd) : (s.setHrd k x).lock = s.lock := rfl
@[simp] theorem Chip.setHrd_regions (k : Nat) (x : Herd) : (s.setHrd k x).regions = s.regions := rfl
@[simp] theorem Chip.setHrd_arbLast (k : Nat) (x : Herd) : (s.setHrd k x).arbLast = s.arbLast := rfl
@[simp] theorem Chip.setHrd_bleats (k : Nat) (x : Herd) : (s.setHrd k x).bleats = s.bleats := rfl
@[simp] theorem Chip.setHrd_pulses (k : Nat) (x : Herd) : (s.setHrd k x).pulses = s.pulses := rfl
@[simp] theorem Chip.setHrd_gens (k : Nat) (x : Herd) : (s.setHrd k x).gens = s.gens := rfl
@[simp] theorem Chip.setHrd_reload (k : Nat) (x : Herd) : (s.setHrd k x).reload = s.reload := rfl
@[simp] theorem Chip.setHrd_time (k : Nat) (x : Herd) : (s.setHrd k x).time = s.time := rfl
@[simp] theorem Chip.setHrd_sessions (k : Nat) (x : Herd) : (s.setHrd k x).sessions = s.sessions := rfl
@[simp] theorem Chip.setHrd_parents (k : Nat) (x : Herd) : (s.setHrd k x).parents = s.parents := rfl
@[simp] theorem Chip.setHrd_children (k : Nat) (x : Herd) : (s.setHrd k x).children = s.children := rfl
@[simp] theorem Chip.setHrd_usdo (k : Nat) (x : Herd) : (s.setHrd k x).usdo = s.usdo := rfl
@[simp] theorem Chip.setHrd_rd (k : Nat) (x : Herd) (i' j' : Nat) : (s.setHrd k x).rd i' j' = s.rd i' j' := rfl
@[simp] theorem Chip.setHrd_rdBit (k : Nat) (x : Herd) (i' j' b' : Nat) : (s.setHrd k x).rdBit i' j' b' = s.rdBit i' j' b' := rfl
@[simp] theorem Chip.setHrd_rdDom (k : Nat) (x : Herd) (i' j' : Nat) : (s.setHrd k x).rdDom i' j' = s.rdDom i' j' := rfl
@[simp] theorem Chip.setHrd_ch (k : Nat) (x : Herd) (q : Nat) : (s.setHrd k x).ch q = s.ch q := rfl
@[simp] theorem Chip.setHrd_grp (k : Nat) (x : Herd) (q : Nat) : (s.setHrd k x).grp q = s.grp q := rfl
@[simp] theorem Chip.setHrd_st (k : Nat) (x : Herd) (q : Nat) : (s.setHrd k x).st q = s.st q := rfl
@[simp] theorem Chip.setHrd_ring (k : Nat) (x : Herd) (q : Nat) : (s.setHrd k x).ring q = s.ring q := rfl
@[simp] theorem Chip.setHrd_slice (k : Nat) (x : Herd) (q : Nat) : (s.setHrd k x).slice q = s.slice q := rfl
@[simp] theorem Chip.setHrd_sus (k : Nat) (x : Herd) (q : Nat) : (s.setHrd k x).sus q = s.sus q := rfl

/-! ### setFast -/

@[simp] theorem Chip.setFast_fresh (k : Nat) (x : List Byte) : (s.setFast k x).fresh = s.fresh := rfl
@[simp] theorem Chip.setFast_ans (k : Nat) (x : List Byte) : (s.setFast k x).ans = s.ans := rfl
@[simp] theorem Chip.setFast_od (k : Nat) (x : List Byte) : (s.setFast k x).od = s.od := rfl
@[simp] theorem Chip.setFast_dom (k : Nat) (x : List Byte) : (s.setFast k x).dom = s.dom := rfl
@[simp] theorem Chip.setFast_mode (k : Nat) (x : List Byte) : (s.setFast k x).mode = s.mode := rfl
@[simp] theorem Chip.setFast_trans (k : Nat) (x : List Byte) : (s.setFast k x).trans = s.trans := rfl
@[simp] theorem Chip.setFast_readyTick (k : Nat) (x : List Byte) : (s.setFast k x).readyTick = s.readyTick := rfl
@[simp] theorem Chip.setFast_actReq (k : Nat) (x : List Byte) : (s.setFast k x).actReq = s.actReq := rfl
@[simp] theorem Chip.setFast_actAns (k : Nat) (x : List Byte) : (s.setFast k x).actAns = s.actAns := rfl
@[simp] theorem Chip.setFast_clk (k : Nat) (x : List Byte) : (s.setFast k x).clk = s.clk := rfl
@[simp] theorem Chip.setFast_up (k : Nat) (x : List Byte) : (s.setFast k x).up = s.up := rfl
@[simp] theorem Chip.setFast_link (k : Nat) (x : List Byte) : (s.setFast k x).link = s.link := rfl
@[simp] theorem Chip.setFast_trip (k : Nat) (x : List Byte) : (s.setFast k x).trip = s.trip := rfl
@[simp] theorem Chip.setFast_chan (k : Nat) (x : List Byte) : (s.setFast k x).chan = s.chan := rfl
@[simp] theorem Chip.setFast_group (k : Nat) (x : List Byte) : (s.setFast k x).group = s.group := rfl
@[simp] theorem Chip.setFast_adopt (k : Nat) (x : List Byte) : (s.setFast k x).adopt = s.adopt := rfl
@[simp] theorem Chip.setFast_strs (k : Nat) (x : List Byte) : (s.setFast k x).strs = s.strs := rfl
@[simp] theorem Chip.setFast_swi (k : Nat) (x : List Byte) : (s.setFast k x).swi = s.swi := rfl
@[simp] theorem Chip.setFast_claims (k : Nat) (x : List Byte) : (s.setFast k x).claims = s.claims := rfl
@[simp] theorem Chip.setFast_nextClaim (k : Nat) (x : List Byte) : (s.setFast k x).nextClaim = s.nextClaim := rfl
@[simp] theorem Chip.setFast_port (k : Nat) (x : List Byte) : (s.setFast k x).port = s.port := rfl
@[simp] theorem Chip.setFast_slices (k : Nat) (x : List Byte) : (s.setFast k x).slices = s.slices := rfl
@[simp] theorem Chip.setFast_rings (k : Nat) (x : List Byte) : (s.setFast k x).rings = s.rings := rfl
@[simp] theorem Chip.setFast_herd (k : Nat) (x : List Byte) : (s.setFast k x).herd = s.herd := rfl
@[simp] theorem Chip.setFast_sched (k : Nat) (x : List Byte) : (s.setFast k x).sched = s.sched := rfl
@[simp] theorem Chip.setFast_front (k : Nat) (x : List Byte) : (s.setFast k x).front = s.front := rfl
@[simp] theorem Chip.setFast_slotData (k : Nat) (x : List Byte) : (s.setFast k x).slotData = s.slotData := rfl
@[simp] theorem Chip.setFast_slotPub (k : Nat) (x : List Byte) : (s.setFast k x).slotPub = s.slotPub := rfl
@[simp] theorem Chip.setFast_slotOld (k : Nat) (x : List Byte) : (s.setFast k x).slotOld = s.slotOld := rfl
@[simp] theorem Chip.setFast_burstData (k : Nat) (x : List Byte) : (s.setFast k x).burstData = s.burstData := rfl
@[simp] theorem Chip.setFast_duty (k : Nat) (x : List Byte) : (s.setFast k x).duty = s.duty := rfl
@[simp] theorem Chip.setFast_suspects (k : Nat) (x : List Byte) : (s.setFast k x).suspects = s.suspects := rfl
@[simp] theorem Chip.setFast_settling (k : Nat) (x : List Byte) : (s.setFast k x).settling = s.settling := rfl
@[simp] theorem Chip.setFast_acting (k : Nat) (x : List Byte) : (s.setFast k x).acting = s.acting := rfl
@[simp] theorem Chip.setFast_prot (k : Nat) (x : List Byte) : (s.setFast k x).prot = s.prot := rfl
@[simp] theorem Chip.setFast_protOld (k : Nat) (x : List Byte) : (s.setFast k x).protOld = s.protOld := rfl
@[simp] theorem Chip.setFast_tHist (k : Nat) (x : List Byte) : (s.setFast k x).tHist = s.tHist := rfl
@[simp] theorem Chip.setFast_fastOld (k : Nat) (x : List Byte) : (s.setFast k x).fastOld = s.fastOld := rfl
@[simp] theorem Chip.setFast_elemOld (k : Nat) (x : List Byte) : (s.setFast k x).elemOld = s.elemOld := rfl
@[simp] theorem Chip.setFast_pub (k : Nat) (x : List Byte) : (s.setFast k x).pub = s.pub := rfl
@[simp] theorem Chip.setFast_pubOld (k : Nat) (x : List Byte) : (s.setFast k x).pubOld = s.pubOld := rfl
@[simp] theorem Chip.setFast_limOld (k : Nat) (x : List Byte) : (s.setFast k x).limOld = s.limOld := rfl
@[simp] theorem Chip.setFast_flagsOld (k : Nat) (x : List Byte) : (s.setFast k x).flagsOld = s.flagsOld := rfl
@[simp] theorem Chip.setFast_elem (k : Nat) (x : List Byte) : (s.setFast k x).elem = s.elem := rfl
@[simp] theorem Chip.setFast_estr (k : Nat) (x : List Byte) : (s.setFast k x).estr = s.estr := rfl
@[simp] theorem Chip.setFast_pager (k : Nat) (x : List Byte) : (s.setFast k x).pager = s.pager := rfl
@[simp] theorem Chip.setFast_tines (k : Nat) (x : List Byte) : (s.setFast k x).tines = s.tines := rfl
@[simp] theorem Chip.setFast_images (k : Nat) (x : List Byte) : (s.setFast k x).images = s.images := rfl
@[simp] theorem Chip.setFast_kernels (k : Nat) (x : List Byte) : (s.setFast k x).kernels = s.kernels := rfl
@[simp] theorem Chip.setFast_cans (k : Nat) (x : List Byte) : (s.setFast k x).cans = s.cans := rfl
@[simp] theorem Chip.setFast_release (k : Nat) (x : List Byte) : (s.setFast k x).release = s.release := rfl
@[simp] theorem Chip.setFast_profPend (k : Nat) (x : List Byte) : (s.setFast k x).profPend = s.profPend := rfl
@[simp] theorem Chip.setFast_profPendDom (k : Nat) (x : List Byte) : (s.setFast k x).profPendDom = s.profPendDom := rfl
@[simp] theorem Chip.setFast_newQ (k : Nat) (x : List Byte) : (s.setFast k x).newQ = s.newQ := rfl
@[simp] theorem Chip.setFast_power (k : Nat) (x : List Byte) : (s.setFast k x).power = s.power := rfl
@[simp] theorem Chip.setFast_lock (k : Nat) (x : List Byte) : (s.setFast k x).lock = s.lock := rfl
@[simp] theorem Chip.setFast_regions (k : Nat) (x : List Byte) : (s.setFast k x).regions = s.regions := rfl
@[simp] theorem Chip.setFast_arbLast (k : Nat) (x : List Byte) : (s.setFast k x).arbLast = s.arbLast := rfl
@[simp] theorem Chip.setFast_bleats (k : Nat) (x : List Byte) : (s.setFast k x).bleats = s.bleats := rfl
@[simp] theorem Chip.setFast_pulses (k : Nat) (x : List Byte) : (s.setFast k x).pulses = s.pulses := rfl
@[simp] theorem Chip.setFast_gens (k : Nat) (x : List Byte) : (s.setFast k x).gens = s.gens := rfl
@[simp] theorem Chip.setFast_reload (k : Nat) (x : List Byte) : (s.setFast k x).reload = s.reload := rfl
@[simp] theorem Chip.setFast_time (k : Nat) (x : List Byte) : (s.setFast k x).time = s.time := rfl
@[simp] theorem Chip.setFast_sessions (k : Nat) (x : List Byte) : (s.setFast k x).sessions = s.sessions := rfl
@[simp] theorem Chip.setFast_parents (k : Nat) (x : List Byte) : (s.setFast k x).parents = s.parents := rfl
@[simp] theorem Chip.setFast_children (k : Nat) (x : List Byte) : (s.setFast k x).children = s.children := rfl
@[simp] theorem Chip.setFast_usdo (k : Nat) (x : List Byte) : (s.setFast k x).usdo = s.usdo := rfl
@[simp] theorem Chip.setFast_rd (k : Nat) (x : List Byte) (i' j' : Nat) : (s.setFast k x).rd i' j' = s.rd i' j' := rfl
@[simp] theorem Chip.setFast_rdBit (k : Nat) (x : List Byte) (i' j' b' : Nat) : (s.setFast k x).rdBit i' j' b' = s.rdBit i' j' b' := rfl
@[simp] theorem Chip.setFast_rdDom (k : Nat) (x : List Byte) (i' j' : Nat) : (s.setFast k x).rdDom i' j' = s.rdDom i' j' := rfl
@[simp] theorem Chip.setFast_ch (k : Nat) (x : List Byte) (q : Nat) : (s.setFast k x).ch q = s.ch q := rfl
@[simp] theorem Chip.setFast_grp (k : Nat) (x : List Byte) (q : Nat) : (s.setFast k x).grp q = s.grp q := rfl
@[simp] theorem Chip.setFast_st (k : Nat) (x : List Byte) (q : Nat) : (s.setFast k x).st q = s.st q := rfl
@[simp] theorem Chip.setFast_ring (k : Nat) (x : List Byte) (q : Nat) : (s.setFast k x).ring q = s.ring q := rfl
@[simp] theorem Chip.setFast_slice (k : Nat) (x : List Byte) (q : Nat) : (s.setFast k x).slice q = s.slice q := rfl
@[simp] theorem Chip.setFast_hrd (k : Nat) (x : List Byte) (q : Nat) : (s.setFast k x).hrd q = s.hrd q := rfl
@[simp] theorem Chip.setFast_sus (k : Nat) (x : List Byte) (q : Nat) : (s.setFast k x).sus q = s.sus q := rfl

/-! ### setEl -/

@[simp] theorem Chip.setEl_fresh (k : Nat) (x : Elem) : (s.setEl k x).fresh = s.fresh := rfl
@[simp] theorem Chip.setEl_ans (k : Nat) (x : Elem) : (s.setEl k x).ans = s.ans := rfl
@[simp] theorem Chip.setEl_od (k : Nat) (x : Elem) : (s.setEl k x).od = s.od := rfl
@[simp] theorem Chip.setEl_dom (k : Nat) (x : Elem) : (s.setEl k x).dom = s.dom := rfl
@[simp] theorem Chip.setEl_mode (k : Nat) (x : Elem) : (s.setEl k x).mode = s.mode := rfl
@[simp] theorem Chip.setEl_trans (k : Nat) (x : Elem) : (s.setEl k x).trans = s.trans := rfl
@[simp] theorem Chip.setEl_readyTick (k : Nat) (x : Elem) : (s.setEl k x).readyTick = s.readyTick := rfl
@[simp] theorem Chip.setEl_actReq (k : Nat) (x : Elem) : (s.setEl k x).actReq = s.actReq := rfl
@[simp] theorem Chip.setEl_actAns (k : Nat) (x : Elem) : (s.setEl k x).actAns = s.actAns := rfl
@[simp] theorem Chip.setEl_clk (k : Nat) (x : Elem) : (s.setEl k x).clk = s.clk := rfl
@[simp] theorem Chip.setEl_up (k : Nat) (x : Elem) : (s.setEl k x).up = s.up := rfl
@[simp] theorem Chip.setEl_link (k : Nat) (x : Elem) : (s.setEl k x).link = s.link := rfl
@[simp] theorem Chip.setEl_trip (k : Nat) (x : Elem) : (s.setEl k x).trip = s.trip := rfl
@[simp] theorem Chip.setEl_chan (k : Nat) (x : Elem) : (s.setEl k x).chan = s.chan := rfl
@[simp] theorem Chip.setEl_group (k : Nat) (x : Elem) : (s.setEl k x).group = s.group := rfl
@[simp] theorem Chip.setEl_adopt (k : Nat) (x : Elem) : (s.setEl k x).adopt = s.adopt := rfl
@[simp] theorem Chip.setEl_strs (k : Nat) (x : Elem) : (s.setEl k x).strs = s.strs := rfl
@[simp] theorem Chip.setEl_swi (k : Nat) (x : Elem) : (s.setEl k x).swi = s.swi := rfl
@[simp] theorem Chip.setEl_claims (k : Nat) (x : Elem) : (s.setEl k x).claims = s.claims := rfl
@[simp] theorem Chip.setEl_nextClaim (k : Nat) (x : Elem) : (s.setEl k x).nextClaim = s.nextClaim := rfl
@[simp] theorem Chip.setEl_port (k : Nat) (x : Elem) : (s.setEl k x).port = s.port := rfl
@[simp] theorem Chip.setEl_slices (k : Nat) (x : Elem) : (s.setEl k x).slices = s.slices := rfl
@[simp] theorem Chip.setEl_rings (k : Nat) (x : Elem) : (s.setEl k x).rings = s.rings := rfl
@[simp] theorem Chip.setEl_herd (k : Nat) (x : Elem) : (s.setEl k x).herd = s.herd := rfl
@[simp] theorem Chip.setEl_sched (k : Nat) (x : Elem) : (s.setEl k x).sched = s.sched := rfl
@[simp] theorem Chip.setEl_front (k : Nat) (x : Elem) : (s.setEl k x).front = s.front := rfl
@[simp] theorem Chip.setEl_slotData (k : Nat) (x : Elem) : (s.setEl k x).slotData = s.slotData := rfl
@[simp] theorem Chip.setEl_slotPub (k : Nat) (x : Elem) : (s.setEl k x).slotPub = s.slotPub := rfl
@[simp] theorem Chip.setEl_slotOld (k : Nat) (x : Elem) : (s.setEl k x).slotOld = s.slotOld := rfl
@[simp] theorem Chip.setEl_burstData (k : Nat) (x : Elem) : (s.setEl k x).burstData = s.burstData := rfl
@[simp] theorem Chip.setEl_duty (k : Nat) (x : Elem) : (s.setEl k x).duty = s.duty := rfl
@[simp] theorem Chip.setEl_suspects (k : Nat) (x : Elem) : (s.setEl k x).suspects = s.suspects := rfl
@[simp] theorem Chip.setEl_settling (k : Nat) (x : Elem) : (s.setEl k x).settling = s.settling := rfl
@[simp] theorem Chip.setEl_acting (k : Nat) (x : Elem) : (s.setEl k x).acting = s.acting := rfl
@[simp] theorem Chip.setEl_prot (k : Nat) (x : Elem) : (s.setEl k x).prot = s.prot := rfl
@[simp] theorem Chip.setEl_protOld (k : Nat) (x : Elem) : (s.setEl k x).protOld = s.protOld := rfl
@[simp] theorem Chip.setEl_tHist (k : Nat) (x : Elem) : (s.setEl k x).tHist = s.tHist := rfl
@[simp] theorem Chip.setEl_fast (k : Nat) (x : Elem) : (s.setEl k x).fast = s.fast := rfl
@[simp] theorem Chip.setEl_fastOld (k : Nat) (x : Elem) : (s.setEl k x).fastOld = s.fastOld := rfl
@[simp] theorem Chip.setEl_elemOld (k : Nat) (x : Elem) : (s.setEl k x).elemOld = s.elemOld := rfl
@[simp] theorem Chip.setEl_pub (k : Nat) (x : Elem) : (s.setEl k x).pub = s.pub := rfl
@[simp] theorem Chip.setEl_pubOld (k : Nat) (x : Elem) : (s.setEl k x).pubOld = s.pubOld := rfl
@[simp] theorem Chip.setEl_limOld (k : Nat) (x : Elem) : (s.setEl k x).limOld = s.limOld := rfl
@[simp] theorem Chip.setEl_flagsOld (k : Nat) (x : Elem) : (s.setEl k x).flagsOld = s.flagsOld := rfl
@[simp] theorem Chip.setEl_estr (k : Nat) (x : Elem) : (s.setEl k x).estr = s.estr := rfl
@[simp] theorem Chip.setEl_pager (k : Nat) (x : Elem) : (s.setEl k x).pager = s.pager := rfl
@[simp] theorem Chip.setEl_tines (k : Nat) (x : Elem) : (s.setEl k x).tines = s.tines := rfl
@[simp] theorem Chip.setEl_images (k : Nat) (x : Elem) : (s.setEl k x).images = s.images := rfl
@[simp] theorem Chip.setEl_kernels (k : Nat) (x : Elem) : (s.setEl k x).kernels = s.kernels := rfl
@[simp] theorem Chip.setEl_cans (k : Nat) (x : Elem) : (s.setEl k x).cans = s.cans := rfl
@[simp] theorem Chip.setEl_release (k : Nat) (x : Elem) : (s.setEl k x).release = s.release := rfl
@[simp] theorem Chip.setEl_profPend (k : Nat) (x : Elem) : (s.setEl k x).profPend = s.profPend := rfl
@[simp] theorem Chip.setEl_profPendDom (k : Nat) (x : Elem) : (s.setEl k x).profPendDom = s.profPendDom := rfl
@[simp] theorem Chip.setEl_newQ (k : Nat) (x : Elem) : (s.setEl k x).newQ = s.newQ := rfl
@[simp] theorem Chip.setEl_power (k : Nat) (x : Elem) : (s.setEl k x).power = s.power := rfl
@[simp] theorem Chip.setEl_lock (k : Nat) (x : Elem) : (s.setEl k x).lock = s.lock := rfl
@[simp] theorem Chip.setEl_regions (k : Nat) (x : Elem) : (s.setEl k x).regions = s.regions := rfl
@[simp] theorem Chip.setEl_arbLast (k : Nat) (x : Elem) : (s.setEl k x).arbLast = s.arbLast := rfl
@[simp] theorem Chip.setEl_bleats (k : Nat) (x : Elem) : (s.setEl k x).bleats = s.bleats := rfl
@[simp] theorem Chip.setEl_pulses (k : Nat) (x : Elem) : (s.setEl k x).pulses = s.pulses := rfl
@[simp] theorem Chip.setEl_gens (k : Nat) (x : Elem) : (s.setEl k x).gens = s.gens := rfl
@[simp] theorem Chip.setEl_reload (k : Nat) (x : Elem) : (s.setEl k x).reload = s.reload := rfl
@[simp] theorem Chip.setEl_time (k : Nat) (x : Elem) : (s.setEl k x).time = s.time := rfl
@[simp] theorem Chip.setEl_sessions (k : Nat) (x : Elem) : (s.setEl k x).sessions = s.sessions := rfl
@[simp] theorem Chip.setEl_parents (k : Nat) (x : Elem) : (s.setEl k x).parents = s.parents := rfl
@[simp] theorem Chip.setEl_children (k : Nat) (x : Elem) : (s.setEl k x).children = s.children := rfl
@[simp] theorem Chip.setEl_usdo (k : Nat) (x : Elem) : (s.setEl k x).usdo = s.usdo := rfl
@[simp] theorem Chip.setEl_rd (k : Nat) (x : Elem) (i' j' : Nat) : (s.setEl k x).rd i' j' = s.rd i' j' := rfl
@[simp] theorem Chip.setEl_rdBit (k : Nat) (x : Elem) (i' j' b' : Nat) : (s.setEl k x).rdBit i' j' b' = s.rdBit i' j' b' := rfl
@[simp] theorem Chip.setEl_rdDom (k : Nat) (x : Elem) (i' j' : Nat) : (s.setEl k x).rdDom i' j' = s.rdDom i' j' := rfl
@[simp] theorem Chip.setEl_ch (k : Nat) (x : Elem) (q : Nat) : (s.setEl k x).ch q = s.ch q := rfl
@[simp] theorem Chip.setEl_grp (k : Nat) (x : Elem) (q : Nat) : (s.setEl k x).grp q = s.grp q := rfl
@[simp] theorem Chip.setEl_st (k : Nat) (x : Elem) (q : Nat) : (s.setEl k x).st q = s.st q := rfl
@[simp] theorem Chip.setEl_ring (k : Nat) (x : Elem) (q : Nat) : (s.setEl k x).ring q = s.ring q := rfl
@[simp] theorem Chip.setEl_slice (k : Nat) (x : Elem) (q : Nat) : (s.setEl k x).slice q = s.slice q := rfl
@[simp] theorem Chip.setEl_hrd (k : Nat) (x : Elem) (q : Nat) : (s.setEl k x).hrd q = s.hrd q := rfl
@[simp] theorem Chip.setEl_sus (k : Nat) (x : Elem) (q : Nat) : (s.setEl k x).sus q = s.sus q := rfl

/-! ### setEs -/

@[simp] theorem Chip.setEs_fresh (k : Nat) (x : EStr) : (s.setEs k x).fresh = s.fresh := rfl
@[simp] theorem Chip.setEs_ans (k : Nat) (x : EStr) : (s.setEs k x).ans = s.ans := rfl
@[simp] theorem Chip.setEs_od (k : Nat) (x : EStr) : (s.setEs k x).od = s.od := rfl
@[simp] theorem Chip.setEs_dom (k : Nat) (x : EStr) : (s.setEs k x).dom = s.dom := rfl
@[simp] theorem Chip.setEs_mode (k : Nat) (x : EStr) : (s.setEs k x).mode = s.mode := rfl
@[simp] theorem Chip.setEs_trans (k : Nat) (x : EStr) : (s.setEs k x).trans = s.trans := rfl
@[simp] theorem Chip.setEs_readyTick (k : Nat) (x : EStr) : (s.setEs k x).readyTick = s.readyTick := rfl
@[simp] theorem Chip.setEs_actReq (k : Nat) (x : EStr) : (s.setEs k x).actReq = s.actReq := rfl
@[simp] theorem Chip.setEs_actAns (k : Nat) (x : EStr) : (s.setEs k x).actAns = s.actAns := rfl
@[simp] theorem Chip.setEs_clk (k : Nat) (x : EStr) : (s.setEs k x).clk = s.clk := rfl
@[simp] theorem Chip.setEs_up (k : Nat) (x : EStr) : (s.setEs k x).up = s.up := rfl
@[simp] theorem Chip.setEs_link (k : Nat) (x : EStr) : (s.setEs k x).link = s.link := rfl
@[simp] theorem Chip.setEs_trip (k : Nat) (x : EStr) : (s.setEs k x).trip = s.trip := rfl
@[simp] theorem Chip.setEs_chan (k : Nat) (x : EStr) : (s.setEs k x).chan = s.chan := rfl
@[simp] theorem Chip.setEs_group (k : Nat) (x : EStr) : (s.setEs k x).group = s.group := rfl
@[simp] theorem Chip.setEs_adopt (k : Nat) (x : EStr) : (s.setEs k x).adopt = s.adopt := rfl
@[simp] theorem Chip.setEs_strs (k : Nat) (x : EStr) : (s.setEs k x).strs = s.strs := rfl
@[simp] theorem Chip.setEs_swi (k : Nat) (x : EStr) : (s.setEs k x).swi = s.swi := rfl
@[simp] theorem Chip.setEs_claims (k : Nat) (x : EStr) : (s.setEs k x).claims = s.claims := rfl
@[simp] theorem Chip.setEs_nextClaim (k : Nat) (x : EStr) : (s.setEs k x).nextClaim = s.nextClaim := rfl
@[simp] theorem Chip.setEs_port (k : Nat) (x : EStr) : (s.setEs k x).port = s.port := rfl
@[simp] theorem Chip.setEs_slices (k : Nat) (x : EStr) : (s.setEs k x).slices = s.slices := rfl
@[simp] theorem Chip.setEs_rings (k : Nat) (x : EStr) : (s.setEs k x).rings = s.rings := rfl
@[simp] theorem Chip.setEs_herd (k : Nat) (x : EStr) : (s.setEs k x).herd = s.herd := rfl
@[simp] theorem Chip.setEs_sched (k : Nat) (x : EStr) : (s.setEs k x).sched = s.sched := rfl
@[simp] theorem Chip.setEs_front (k : Nat) (x : EStr) : (s.setEs k x).front = s.front := rfl
@[simp] theorem Chip.setEs_slotData (k : Nat) (x : EStr) : (s.setEs k x).slotData = s.slotData := rfl
@[simp] theorem Chip.setEs_slotPub (k : Nat) (x : EStr) : (s.setEs k x).slotPub = s.slotPub := rfl
@[simp] theorem Chip.setEs_slotOld (k : Nat) (x : EStr) : (s.setEs k x).slotOld = s.slotOld := rfl
@[simp] theorem Chip.setEs_burstData (k : Nat) (x : EStr) : (s.setEs k x).burstData = s.burstData := rfl
@[simp] theorem Chip.setEs_duty (k : Nat) (x : EStr) : (s.setEs k x).duty = s.duty := rfl
@[simp] theorem Chip.setEs_suspects (k : Nat) (x : EStr) : (s.setEs k x).suspects = s.suspects := rfl
@[simp] theorem Chip.setEs_settling (k : Nat) (x : EStr) : (s.setEs k x).settling = s.settling := rfl
@[simp] theorem Chip.setEs_acting (k : Nat) (x : EStr) : (s.setEs k x).acting = s.acting := rfl
@[simp] theorem Chip.setEs_prot (k : Nat) (x : EStr) : (s.setEs k x).prot = s.prot := rfl
@[simp] theorem Chip.setEs_protOld (k : Nat) (x : EStr) : (s.setEs k x).protOld = s.protOld := rfl
@[simp] theorem Chip.setEs_tHist (k : Nat) (x : EStr) : (s.setEs k x).tHist = s.tHist := rfl
@[simp] theorem Chip.setEs_fast (k : Nat) (x : EStr) : (s.setEs k x).fast = s.fast := rfl
@[simp] theorem Chip.setEs_fastOld (k : Nat) (x : EStr) : (s.setEs k x).fastOld = s.fastOld := rfl
@[simp] theorem Chip.setEs_elemOld (k : Nat) (x : EStr) : (s.setEs k x).elemOld = s.elemOld := rfl
@[simp] theorem Chip.setEs_pub (k : Nat) (x : EStr) : (s.setEs k x).pub = s.pub := rfl
@[simp] theorem Chip.setEs_pubOld (k : Nat) (x : EStr) : (s.setEs k x).pubOld = s.pubOld := rfl
@[simp] theorem Chip.setEs_limOld (k : Nat) (x : EStr) : (s.setEs k x).limOld = s.limOld := rfl
@[simp] theorem Chip.setEs_flagsOld (k : Nat) (x : EStr) : (s.setEs k x).flagsOld = s.flagsOld := rfl
@[simp] theorem Chip.setEs_elem (k : Nat) (x : EStr) : (s.setEs k x).elem = s.elem := rfl
@[simp] theorem Chip.setEs_pager (k : Nat) (x : EStr) : (s.setEs k x).pager = s.pager := rfl
@[simp] theorem Chip.setEs_tines (k : Nat) (x : EStr) : (s.setEs k x).tines = s.tines := rfl
@[simp] theorem Chip.setEs_images (k : Nat) (x : EStr) : (s.setEs k x).images = s.images := rfl
@[simp] theorem Chip.setEs_kernels (k : Nat) (x : EStr) : (s.setEs k x).kernels = s.kernels := rfl
@[simp] theorem Chip.setEs_cans (k : Nat) (x : EStr) : (s.setEs k x).cans = s.cans := rfl
@[simp] theorem Chip.setEs_release (k : Nat) (x : EStr) : (s.setEs k x).release = s.release := rfl
@[simp] theorem Chip.setEs_profPend (k : Nat) (x : EStr) : (s.setEs k x).profPend = s.profPend := rfl
@[simp] theorem Chip.setEs_profPendDom (k : Nat) (x : EStr) : (s.setEs k x).profPendDom = s.profPendDom := rfl
@[simp] theorem Chip.setEs_newQ (k : Nat) (x : EStr) : (s.setEs k x).newQ = s.newQ := rfl
@[simp] theorem Chip.setEs_power (k : Nat) (x : EStr) : (s.setEs k x).power = s.power := rfl
@[simp] theorem Chip.setEs_lock (k : Nat) (x : EStr) : (s.setEs k x).lock = s.lock := rfl
@[simp] theorem Chip.setEs_regions (k : Nat) (x : EStr) : (s.setEs k x).regions = s.regions := rfl
@[simp] theorem Chip.setEs_arbLast (k : Nat) (x : EStr) : (s.setEs k x).arbLast = s.arbLast := rfl
@[simp] theorem Chip.setEs_bleats (k : Nat) (x : EStr) : (s.setEs k x).bleats = s.bleats := rfl
@[simp] theorem Chip.setEs_pulses (k : Nat) (x : EStr) : (s.setEs k x).pulses = s.pulses := rfl
@[simp] theorem Chip.setEs_gens (k : Nat) (x : EStr) : (s.setEs k x).gens = s.gens := rfl
@[simp] theorem Chip.setEs_reload (k : Nat) (x : EStr) : (s.setEs k x).reload = s.reload := rfl
@[simp] theorem Chip.setEs_time (k : Nat) (x : EStr) : (s.setEs k x).time = s.time := rfl
@[simp] theorem Chip.setEs_sessions (k : Nat) (x : EStr) : (s.setEs k x).sessions = s.sessions := rfl
@[simp] theorem Chip.setEs_parents (k : Nat) (x : EStr) : (s.setEs k x).parents = s.parents := rfl
@[simp] theorem Chip.setEs_children (k : Nat) (x : EStr) : (s.setEs k x).children = s.children := rfl
@[simp] theorem Chip.setEs_usdo (k : Nat) (x : EStr) : (s.setEs k x).usdo = s.usdo := rfl
@[simp] theorem Chip.setEs_rd (k : Nat) (x : EStr) (i' j' : Nat) : (s.setEs k x).rd i' j' = s.rd i' j' := rfl
@[simp] theorem Chip.setEs_rdBit (k : Nat) (x : EStr) (i' j' b' : Nat) : (s.setEs k x).rdBit i' j' b' = s.rdBit i' j' b' := rfl
@[simp] theorem Chip.setEs_rdDom (k : Nat) (x : EStr) (i' j' : Nat) : (s.setEs k x).rdDom i' j' = s.rdDom i' j' := rfl
@[simp] theorem Chip.setEs_ch (k : Nat) (x : EStr) (q : Nat) : (s.setEs k x).ch q = s.ch q := rfl
@[simp] theorem Chip.setEs_grp (k : Nat) (x : EStr) (q : Nat) : (s.setEs k x).grp q = s.grp q := rfl
@[simp] theorem Chip.setEs_st (k : Nat) (x : EStr) (q : Nat) : (s.setEs k x).st q = s.st q := rfl
@[simp] theorem Chip.setEs_ring (k : Nat) (x : EStr) (q : Nat) : (s.setEs k x).ring q = s.ring q := rfl
@[simp] theorem Chip.setEs_slice (k : Nat) (x : EStr) (q : Nat) : (s.setEs k x).slice q = s.slice q := rfl
@[simp] theorem Chip.setEs_hrd (k : Nat) (x : EStr) (q : Nat) : (s.setEs k x).hrd q = s.hrd q := rfl
@[simp] theorem Chip.setEs_sus (k : Nat) (x : EStr) (q : Nat) : (s.setEs k x).sus q = s.sus q := rfl

/-! ### setCan -/

@[simp] theorem Chip.setCan_fresh (k : Nat) (x : CanPort) : (s.setCan k x).fresh = s.fresh := rfl
@[simp] theorem Chip.setCan_ans (k : Nat) (x : CanPort) : (s.setCan k x).ans = s.ans := rfl
@[simp] theorem Chip.setCan_od (k : Nat) (x : CanPort) : (s.setCan k x).od = s.od := rfl
@[simp] theorem Chip.setCan_dom (k : Nat) (x : CanPort) : (s.setCan k x).dom = s.dom := rfl
@[simp] theorem Chip.setCan_mode (k : Nat) (x : CanPort) : (s.setCan k x).mode = s.mode := rfl
@[simp] theorem Chip.setCan_trans (k : Nat) (x : CanPort) : (s.setCan k x).trans = s.trans := rfl
@[simp] theorem Chip.setCan_readyTick (k : Nat) (x : CanPort) : (s.setCan k x).readyTick = s.readyTick := rfl
@[simp] theorem Chip.setCan_actReq (k : Nat) (x : CanPort) : (s.setCan k x).actReq = s.actReq := rfl
@[simp] theorem Chip.setCan_actAns (k : Nat) (x : CanPort) : (s.setCan k x).actAns = s.actAns := rfl
@[simp] theorem Chip.setCan_clk (k : Nat) (x : CanPort) : (s.setCan k x).clk = s.clk := rfl
@[simp] theorem Chip.setCan_up (k : Nat) (x : CanPort) : (s.setCan k x).up = s.up := rfl
@[simp] theorem Chip.setCan_link (k : Nat) (x : CanPort) : (s.setCan k x).link = s.link := rfl
@[simp] theorem Chip.setCan_trip (k : Nat) (x : CanPort) : (s.setCan k x).trip = s.trip := rfl
@[simp] theorem Chip.setCan_chan (k : Nat) (x : CanPort) : (s.setCan k x).chan = s.chan := rfl
@[simp] theorem Chip.setCan_group (k : Nat) (x : CanPort) : (s.setCan k x).group = s.group := rfl
@[simp] theorem Chip.setCan_adopt (k : Nat) (x : CanPort) : (s.setCan k x).adopt = s.adopt := rfl
@[simp] theorem Chip.setCan_strs (k : Nat) (x : CanPort) : (s.setCan k x).strs = s.strs := rfl
@[simp] theorem Chip.setCan_swi (k : Nat) (x : CanPort) : (s.setCan k x).swi = s.swi := rfl
@[simp] theorem Chip.setCan_claims (k : Nat) (x : CanPort) : (s.setCan k x).claims = s.claims := rfl
@[simp] theorem Chip.setCan_nextClaim (k : Nat) (x : CanPort) : (s.setCan k x).nextClaim = s.nextClaim := rfl
@[simp] theorem Chip.setCan_port (k : Nat) (x : CanPort) : (s.setCan k x).port = s.port := rfl
@[simp] theorem Chip.setCan_slices (k : Nat) (x : CanPort) : (s.setCan k x).slices = s.slices := rfl
@[simp] theorem Chip.setCan_rings (k : Nat) (x : CanPort) : (s.setCan k x).rings = s.rings := rfl
@[simp] theorem Chip.setCan_herd (k : Nat) (x : CanPort) : (s.setCan k x).herd = s.herd := rfl
@[simp] theorem Chip.setCan_sched (k : Nat) (x : CanPort) : (s.setCan k x).sched = s.sched := rfl
@[simp] theorem Chip.setCan_front (k : Nat) (x : CanPort) : (s.setCan k x).front = s.front := rfl
@[simp] theorem Chip.setCan_slotData (k : Nat) (x : CanPort) : (s.setCan k x).slotData = s.slotData := rfl
@[simp] theorem Chip.setCan_slotPub (k : Nat) (x : CanPort) : (s.setCan k x).slotPub = s.slotPub := rfl
@[simp] theorem Chip.setCan_slotOld (k : Nat) (x : CanPort) : (s.setCan k x).slotOld = s.slotOld := rfl
@[simp] theorem Chip.setCan_burstData (k : Nat) (x : CanPort) : (s.setCan k x).burstData = s.burstData := rfl
@[simp] theorem Chip.setCan_duty (k : Nat) (x : CanPort) : (s.setCan k x).duty = s.duty := rfl
@[simp] theorem Chip.setCan_suspects (k : Nat) (x : CanPort) : (s.setCan k x).suspects = s.suspects := rfl
@[simp] theorem Chip.setCan_settling (k : Nat) (x : CanPort) : (s.setCan k x).settling = s.settling := rfl
@[simp] theorem Chip.setCan_acting (k : Nat) (x : CanPort) : (s.setCan k x).acting = s.acting := rfl
@[simp] theorem Chip.setCan_prot (k : Nat) (x : CanPort) : (s.setCan k x).prot = s.prot := rfl
@[simp] theorem Chip.setCan_protOld (k : Nat) (x : CanPort) : (s.setCan k x).protOld = s.protOld := rfl
@[simp] theorem Chip.setCan_tHist (k : Nat) (x : CanPort) : (s.setCan k x).tHist = s.tHist := rfl
@[simp] theorem Chip.setCan_fast (k : Nat) (x : CanPort) : (s.setCan k x).fast = s.fast := rfl
@[simp] theorem Chip.setCan_fastOld (k : Nat) (x : CanPort) : (s.setCan k x).fastOld = s.fastOld := rfl
@[simp] theorem Chip.setCan_elemOld (k : Nat) (x : CanPort) : (s.setCan k x).elemOld = s.elemOld := rfl
@[simp] theorem Chip.setCan_pub (k : Nat) (x : CanPort) : (s.setCan k x).pub = s.pub := rfl
@[simp] theorem Chip.setCan_pubOld (k : Nat) (x : CanPort) : (s.setCan k x).pubOld = s.pubOld := rfl
@[simp] theorem Chip.setCan_limOld (k : Nat) (x : CanPort) : (s.setCan k x).limOld = s.limOld := rfl
@[simp] theorem Chip.setCan_flagsOld (k : Nat) (x : CanPort) : (s.setCan k x).flagsOld = s.flagsOld := rfl
@[simp] theorem Chip.setCan_elem (k : Nat) (x : CanPort) : (s.setCan k x).elem = s.elem := rfl
@[simp] theorem Chip.setCan_estr (k : Nat) (x : CanPort) : (s.setCan k x).estr = s.estr := rfl
@[simp] theorem Chip.setCan_pager (k : Nat) (x : CanPort) : (s.setCan k x).pager = s.pager := rfl
@[simp] theorem Chip.setCan_tines (k : Nat) (x : CanPort) : (s.setCan k x).tines = s.tines := rfl
@[simp] theorem Chip.setCan_images (k : Nat) (x : CanPort) : (s.setCan k x).images = s.images := rfl
@[simp] theorem Chip.setCan_kernels (k : Nat) (x : CanPort) : (s.setCan k x).kernels = s.kernels := rfl
@[simp] theorem Chip.setCan_release (k : Nat) (x : CanPort) : (s.setCan k x).release = s.release := rfl
@[simp] theorem Chip.setCan_profPend (k : Nat) (x : CanPort) : (s.setCan k x).profPend = s.profPend := rfl
@[simp] theorem Chip.setCan_profPendDom (k : Nat) (x : CanPort) : (s.setCan k x).profPendDom = s.profPendDom := rfl
@[simp] theorem Chip.setCan_newQ (k : Nat) (x : CanPort) : (s.setCan k x).newQ = s.newQ := rfl
@[simp] theorem Chip.setCan_power (k : Nat) (x : CanPort) : (s.setCan k x).power = s.power := rfl
@[simp] theorem Chip.setCan_lock (k : Nat) (x : CanPort) : (s.setCan k x).lock = s.lock := rfl
@[simp] theorem Chip.setCan_regions (k : Nat) (x : CanPort) : (s.setCan k x).regions = s.regions := rfl
@[simp] theorem Chip.setCan_arbLast (k : Nat) (x : CanPort) : (s.setCan k x).arbLast = s.arbLast := rfl
@[simp] theorem Chip.setCan_bleats (k : Nat) (x : CanPort) : (s.setCan k x).bleats = s.bleats := rfl
@[simp] theorem Chip.setCan_pulses (k : Nat) (x : CanPort) : (s.setCan k x).pulses = s.pulses := rfl
@[simp] theorem Chip.setCan_gens (k : Nat) (x : CanPort) : (s.setCan k x).gens = s.gens := rfl
@[simp] theorem Chip.setCan_reload (k : Nat) (x : CanPort) : (s.setCan k x).reload = s.reload := rfl
@[simp] theorem Chip.setCan_time (k : Nat) (x : CanPort) : (s.setCan k x).time = s.time := rfl
@[simp] theorem Chip.setCan_sessions (k : Nat) (x : CanPort) : (s.setCan k x).sessions = s.sessions := rfl
@[simp] theorem Chip.setCan_parents (k : Nat) (x : CanPort) : (s.setCan k x).parents = s.parents := rfl
@[simp] theorem Chip.setCan_children (k : Nat) (x : CanPort) : (s.setCan k x).children = s.children := rfl
@[simp] theorem Chip.setCan_usdo (k : Nat) (x : CanPort) : (s.setCan k x).usdo = s.usdo := rfl
@[simp] theorem Chip.setCan_rd (k : Nat) (x : CanPort) (i' j' : Nat) : (s.setCan k x).rd i' j' = s.rd i' j' := rfl
@[simp] theorem Chip.setCan_rdBit (k : Nat) (x : CanPort) (i' j' b' : Nat) : (s.setCan k x).rdBit i' j' b' = s.rdBit i' j' b' := rfl
@[simp] theorem Chip.setCan_rdDom (k : Nat) (x : CanPort) (i' j' : Nat) : (s.setCan k x).rdDom i' j' = s.rdDom i' j' := rfl
@[simp] theorem Chip.setCan_ch (k : Nat) (x : CanPort) (q : Nat) : (s.setCan k x).ch q = s.ch q := rfl
@[simp] theorem Chip.setCan_grp (k : Nat) (x : CanPort) (q : Nat) : (s.setCan k x).grp q = s.grp q := rfl
@[simp] theorem Chip.setCan_st (k : Nat) (x : CanPort) (q : Nat) : (s.setCan k x).st q = s.st q := rfl
@[simp] theorem Chip.setCan_ring (k : Nat) (x : CanPort) (q : Nat) : (s.setCan k x).ring q = s.ring q := rfl
@[simp] theorem Chip.setCan_slice (k : Nat) (x : CanPort) (q : Nat) : (s.setCan k x).slice q = s.slice q := rfl
@[simp] theorem Chip.setCan_hrd (k : Nat) (x : CanPort) (q : Nat) : (s.setCan k x).hrd q = s.hrd q := rfl
@[simp] theorem Chip.setCan_sus (k : Nat) (x : CanPort) (q : Nat) : (s.setCan k x).sus q = s.sus q := rfl

/-! ### setTine -/

@[simp] theorem Chip.setTine_fresh (k : TineId) (x : Tine) : (s.setTine k x).fresh = s.fresh := rfl
@[simp] theorem Chip.setTine_ans (k : TineId) (x : Tine) : (s.setTine k x).ans = s.ans := rfl
@[simp] theorem Chip.setTine_od (k : TineId) (x : Tine) : (s.setTine k x).od = s.od := rfl
@[simp] theorem Chip.setTine_dom (k : TineId) (x : Tine) : (s.setTine k x).dom = s.dom := rfl
@[simp] theorem Chip.setTine_mode (k : TineId) (x : Tine) : (s.setTine k x).mode = s.mode := rfl
@[simp] theorem Chip.setTine_trans (k : TineId) (x : Tine) : (s.setTine k x).trans = s.trans := rfl
@[simp] theorem Chip.setTine_readyTick (k : TineId) (x : Tine) : (s.setTine k x).readyTick = s.readyTick := rfl
@[simp] theorem Chip.setTine_actReq (k : TineId) (x : Tine) : (s.setTine k x).actReq = s.actReq := rfl
@[simp] theorem Chip.setTine_actAns (k : TineId) (x : Tine) : (s.setTine k x).actAns = s.actAns := rfl
@[simp] theorem Chip.setTine_clk (k : TineId) (x : Tine) : (s.setTine k x).clk = s.clk := rfl
@[simp] theorem Chip.setTine_up (k : TineId) (x : Tine) : (s.setTine k x).up = s.up := rfl
@[simp] theorem Chip.setTine_link (k : TineId) (x : Tine) : (s.setTine k x).link = s.link := rfl
@[simp] theorem Chip.setTine_trip (k : TineId) (x : Tine) : (s.setTine k x).trip = s.trip := rfl
@[simp] theorem Chip.setTine_chan (k : TineId) (x : Tine) : (s.setTine k x).chan = s.chan := rfl
@[simp] theorem Chip.setTine_group (k : TineId) (x : Tine) : (s.setTine k x).group = s.group := rfl
@[simp] theorem Chip.setTine_adopt (k : TineId) (x : Tine) : (s.setTine k x).adopt = s.adopt := rfl
@[simp] theorem Chip.setTine_strs (k : TineId) (x : Tine) : (s.setTine k x).strs = s.strs := rfl
@[simp] theorem Chip.setTine_swi (k : TineId) (x : Tine) : (s.setTine k x).swi = s.swi := rfl
@[simp] theorem Chip.setTine_claims (k : TineId) (x : Tine) : (s.setTine k x).claims = s.claims := rfl
@[simp] theorem Chip.setTine_nextClaim (k : TineId) (x : Tine) : (s.setTine k x).nextClaim = s.nextClaim := rfl
@[simp] theorem Chip.setTine_port (k : TineId) (x : Tine) : (s.setTine k x).port = s.port := rfl
@[simp] theorem Chip.setTine_slices (k : TineId) (x : Tine) : (s.setTine k x).slices = s.slices := rfl
@[simp] theorem Chip.setTine_rings (k : TineId) (x : Tine) : (s.setTine k x).rings = s.rings := rfl
@[simp] theorem Chip.setTine_herd (k : TineId) (x : Tine) : (s.setTine k x).herd = s.herd := rfl
@[simp] theorem Chip.setTine_sched (k : TineId) (x : Tine) : (s.setTine k x).sched = s.sched := rfl
@[simp] theorem Chip.setTine_front (k : TineId) (x : Tine) : (s.setTine k x).front = s.front := rfl
@[simp] theorem Chip.setTine_slotData (k : TineId) (x : Tine) : (s.setTine k x).slotData = s.slotData := rfl
@[simp] theorem Chip.setTine_slotPub (k : TineId) (x : Tine) : (s.setTine k x).slotPub = s.slotPub := rfl
@[simp] theorem Chip.setTine_slotOld (k : TineId) (x : Tine) : (s.setTine k x).slotOld = s.slotOld := rfl
@[simp] theorem Chip.setTine_burstData (k : TineId) (x : Tine) : (s.setTine k x).burstData = s.burstData := rfl
@[simp] theorem Chip.setTine_duty (k : TineId) (x : Tine) : (s.setTine k x).duty = s.duty := rfl
@[simp] theorem Chip.setTine_suspects (k : TineId) (x : Tine) : (s.setTine k x).suspects = s.suspects := rfl
@[simp] theorem Chip.setTine_settling (k : TineId) (x : Tine) : (s.setTine k x).settling = s.settling := rfl
@[simp] theorem Chip.setTine_acting (k : TineId) (x : Tine) : (s.setTine k x).acting = s.acting := rfl
@[simp] theorem Chip.setTine_prot (k : TineId) (x : Tine) : (s.setTine k x).prot = s.prot := rfl
@[simp] theorem Chip.setTine_protOld (k : TineId) (x : Tine) : (s.setTine k x).protOld = s.protOld := rfl
@[simp] theorem Chip.setTine_tHist (k : TineId) (x : Tine) : (s.setTine k x).tHist = s.tHist := rfl
@[simp] theorem Chip.setTine_fast (k : TineId) (x : Tine) : (s.setTine k x).fast = s.fast := rfl
@[simp] theorem Chip.setTine_fastOld (k : TineId) (x : Tine) : (s.setTine k x).fastOld = s.fastOld := rfl
@[simp] theorem Chip.setTine_elemOld (k : TineId) (x : Tine) : (s.setTine k x).elemOld = s.elemOld := rfl
@[simp] theorem Chip.setTine_pub (k : TineId) (x : Tine) : (s.setTine k x).pub = s.pub := rfl
@[simp] theorem Chip.setTine_pubOld (k : TineId) (x : Tine) : (s.setTine k x).pubOld = s.pubOld := rfl
@[simp] theorem Chip.setTine_limOld (k : TineId) (x : Tine) : (s.setTine k x).limOld = s.limOld := rfl
@[simp] theorem Chip.setTine_flagsOld (k : TineId) (x : Tine) : (s.setTine k x).flagsOld = s.flagsOld := rfl
@[simp] theorem Chip.setTine_elem (k : TineId) (x : Tine) : (s.setTine k x).elem = s.elem := rfl
@[simp] theorem Chip.setTine_estr (k : TineId) (x : Tine) : (s.setTine k x).estr = s.estr := rfl
@[simp] theorem Chip.setTine_pager (k : TineId) (x : Tine) : (s.setTine k x).pager = s.pager := rfl
@[simp] theorem Chip.setTine_images (k : TineId) (x : Tine) : (s.setTine k x).images = s.images := rfl
@[simp] theorem Chip.setTine_kernels (k : TineId) (x : Tine) : (s.setTine k x).kernels = s.kernels := rfl
@[simp] theorem Chip.setTine_cans (k : TineId) (x : Tine) : (s.setTine k x).cans = s.cans := rfl
@[simp] theorem Chip.setTine_release (k : TineId) (x : Tine) : (s.setTine k x).release = s.release := rfl
@[simp] theorem Chip.setTine_profPend (k : TineId) (x : Tine) : (s.setTine k x).profPend = s.profPend := rfl
@[simp] theorem Chip.setTine_profPendDom (k : TineId) (x : Tine) : (s.setTine k x).profPendDom = s.profPendDom := rfl
@[simp] theorem Chip.setTine_newQ (k : TineId) (x : Tine) : (s.setTine k x).newQ = s.newQ := rfl
@[simp] theorem Chip.setTine_power (k : TineId) (x : Tine) : (s.setTine k x).power = s.power := rfl
@[simp] theorem Chip.setTine_lock (k : TineId) (x : Tine) : (s.setTine k x).lock = s.lock := rfl
@[simp] theorem Chip.setTine_regions (k : TineId) (x : Tine) : (s.setTine k x).regions = s.regions := rfl
@[simp] theorem Chip.setTine_arbLast (k : TineId) (x : Tine) : (s.setTine k x).arbLast = s.arbLast := rfl
@[simp] theorem Chip.setTine_bleats (k : TineId) (x : Tine) : (s.setTine k x).bleats = s.bleats := rfl
@[simp] theorem Chip.setTine_pulses (k : TineId) (x : Tine) : (s.setTine k x).pulses = s.pulses := rfl
@[simp] theorem Chip.setTine_gens (k : TineId) (x : Tine) : (s.setTine k x).gens = s.gens := rfl
@[simp] theorem Chip.setTine_reload (k : TineId) (x : Tine) : (s.setTine k x).reload = s.reload := rfl
@[simp] theorem Chip.setTine_time (k : TineId) (x : Tine) : (s.setTine k x).time = s.time := rfl
@[simp] theorem Chip.setTine_sessions (k : TineId) (x : Tine) : (s.setTine k x).sessions = s.sessions := rfl
@[simp] theorem Chip.setTine_parents (k : TineId) (x : Tine) : (s.setTine k x).parents = s.parents := rfl
@[simp] theorem Chip.setTine_children (k : TineId) (x : Tine) : (s.setTine k x).children = s.children := rfl
@[simp] theorem Chip.setTine_usdo (k : TineId) (x : Tine) : (s.setTine k x).usdo = s.usdo := rfl
@[simp] theorem Chip.setTine_rd (k : TineId) (x : Tine) (i' j' : Nat) : (s.setTine k x).rd i' j' = s.rd i' j' := rfl
@[simp] theorem Chip.setTine_rdBit (k : TineId) (x : Tine) (i' j' b' : Nat) : (s.setTine k x).rdBit i' j' b' = s.rdBit i' j' b' := rfl
@[simp] theorem Chip.setTine_rdDom (k : TineId) (x : Tine) (i' j' : Nat) : (s.setTine k x).rdDom i' j' = s.rdDom i' j' := rfl
@[simp] theorem Chip.setTine_ch (k : TineId) (x : Tine) (q : Nat) : (s.setTine k x).ch q = s.ch q := rfl
@[simp] theorem Chip.setTine_grp (k : TineId) (x : Tine) (q : Nat) : (s.setTine k x).grp q = s.grp q := rfl
@[simp] theorem Chip.setTine_st (k : TineId) (x : Tine) (q : Nat) : (s.setTine k x).st q = s.st q := rfl
@[simp] theorem Chip.setTine_ring (k : TineId) (x : Tine) (q : Nat) : (s.setTine k x).ring q = s.ring q := rfl
@[simp] theorem Chip.setTine_slice (k : TineId) (x : Tine) (q : Nat) : (s.setTine k x).slice q = s.slice q := rfl
@[simp] theorem Chip.setTine_hrd (k : TineId) (x : Tine) (q : Nat) : (s.setTine k x).hrd q = s.hrd q := rfl
@[simp] theorem Chip.setTine_sus (k : TineId) (x : Tine) (q : Nat) : (s.setTine k x).sus q = s.sus q := rfl

/-! ### setDmn -/

@[simp] theorem Chip.setDmn_fresh (k : Nat) (x : Domain) : (s.setDmn k x).fresh = s.fresh := rfl
@[simp] theorem Chip.setDmn_ans (k : Nat) (x : Domain) : (s.setDmn k x).ans = s.ans := rfl
@[simp] theorem Chip.setDmn_od (k : Nat) (x : Domain) : (s.setDmn k x).od = s.od := rfl
@[simp] theorem Chip.setDmn_dom (k : Nat) (x : Domain) : (s.setDmn k x).dom = s.dom := rfl
@[simp] theorem Chip.setDmn_mode (k : Nat) (x : Domain) : (s.setDmn k x).mode = s.mode := rfl
@[simp] theorem Chip.setDmn_trans (k : Nat) (x : Domain) : (s.setDmn k x).trans = s.trans := rfl
@[simp] theorem Chip.setDmn_readyTick (k : Nat) (x : Domain) : (s.setDmn k x).readyTick = s.readyTick := rfl
@[simp] theorem Chip.setDmn_actReq (k : Nat) (x : Domain) : (s.setDmn k x).actReq = s.actReq := rfl
@[simp] theorem Chip.setDmn_actAns (k : Nat) (x : Domain) : (s.setDmn k x).actAns = s.actAns := rfl
@[simp] theorem Chip.setDmn_clk (k : Nat) (x : Domain) : (s.setDmn k x).clk = s.clk := rfl
@[simp] theorem Chip.setDmn_up (k : Nat) (x : Domain) : (s.setDmn k x).up = s.up := rfl
@[simp] theorem Chip.setDmn_link (k : Nat) (x : Domain) : (s.setDmn k x).link = s.link := rfl
@[simp] theorem Chip.setDmn_trip (k : Nat) (x : Domain) : (s.setDmn k x).trip = s.trip := rfl
@[simp] theorem Chip.setDmn_chan (k : Nat) (x : Domain) : (s.setDmn k x).chan = s.chan := rfl
@[simp] theorem Chip.setDmn_group (k : Nat) (x : Domain) : (s.setDmn k x).group = s.group := rfl
@[simp] theorem Chip.setDmn_adopt (k : Nat) (x : Domain) : (s.setDmn k x).adopt = s.adopt := rfl
@[simp] theorem Chip.setDmn_strs (k : Nat) (x : Domain) : (s.setDmn k x).strs = s.strs := rfl
@[simp] theorem Chip.setDmn_swi (k : Nat) (x : Domain) : (s.setDmn k x).swi = s.swi := rfl
@[simp] theorem Chip.setDmn_claims (k : Nat) (x : Domain) : (s.setDmn k x).claims = s.claims := rfl
@[simp] theorem Chip.setDmn_nextClaim (k : Nat) (x : Domain) : (s.setDmn k x).nextClaim = s.nextClaim := rfl
@[simp] theorem Chip.setDmn_port (k : Nat) (x : Domain) : (s.setDmn k x).port = s.port := rfl
@[simp] theorem Chip.setDmn_slices (k : Nat) (x : Domain) : (s.setDmn k x).slices = s.slices := rfl
@[simp] theorem Chip.setDmn_rings (k : Nat) (x : Domain) : (s.setDmn k x).rings = s.rings := rfl
@[simp] theorem Chip.setDmn_herd (k : Nat) (x : Domain) : (s.setDmn k x).herd = s.herd := rfl
@[simp] theorem Chip.setDmn_sched (k : Nat) (x : Domain) : (s.setDmn k x).sched = s.sched := rfl
@[simp] theorem Chip.setDmn_front (k : Nat) (x : Domain) : (s.setDmn k x).front = s.front := rfl
@[simp] theorem Chip.setDmn_slotData (k : Nat) (x : Domain) : (s.setDmn k x).slotData = s.slotData := rfl
@[simp] theorem Chip.setDmn_slotPub (k : Nat) (x : Domain) : (s.setDmn k x).slotPub = s.slotPub := rfl
@[simp] theorem Chip.setDmn_slotOld (k : Nat) (x : Domain) : (s.setDmn k x).slotOld = s.slotOld := rfl
@[simp] theorem Chip.setDmn_burstData (k : Nat) (x : Domain) : (s.setDmn k x).burstData = s.burstData := rfl
@[simp] theorem Chip.setDmn_duty (k : Nat) (x : Domain) : (s.setDmn k x).duty = s.duty := rfl
@[simp] theorem Chip.setDmn_suspects (k : Nat) (x : Domain) : (s.setDmn k x).suspects = s.suspects := rfl
@[simp] theorem Chip.setDmn_settling (k : Nat) (x : Domain) : (s.setDmn k x).settling = s.settling := rfl
@[simp] theorem Chip.setDmn_acting (k : Nat) (x : Domain) : (s.setDmn k x).acting = s.acting := rfl
@[simp] theorem Chip.setDmn_prot (k : Nat) (x : Domain) : (s.setDmn k x).prot = s.prot := rfl
@[simp] theorem Chip.setDmn_protOld (k : Nat) (x : Domain) : (s.setDmn k x).protOld = s.protOld := rfl
@[simp] theorem Chip.setDmn_tHist (k : Nat) (x : Domain) : (s.setDmn k x).tHist = s.tHist := rfl
@[simp] theorem Chip.setDmn_fast (k : Nat) (x : Domain) : (s.setDmn k x).fast = s.fast := rfl
@[simp] theorem Chip.setDmn_fastOld (k : Nat) (x : Domain) : (s.setDmn k x).fastOld = s.fastOld := rfl
@[simp] theorem Chip.setDmn_elemOld (k : Nat) (x : Domain) : (s.setDmn k x).elemOld = s.elemOld := rfl
@[simp] theorem Chip.setDmn_pub (k : Nat) (x : Domain) : (s.setDmn k x).pub = s.pub := rfl
@[simp] theorem Chip.setDmn_pubOld (k : Nat) (x : Domain) : (s.setDmn k x).pubOld = s.pubOld := rfl
@[simp] theorem Chip.setDmn_limOld (k : Nat) (x : Domain) : (s.setDmn k x).limOld = s.limOld := rfl
@[simp] theorem Chip.setDmn_flagsOld (k : Nat) (x : Domain) : (s.setDmn k x).flagsOld = s.flagsOld := rfl
@[simp] theorem Chip.setDmn_elem (k : Nat) (x : Domain) : (s.setDmn k x).elem = s.elem := rfl
@[simp] theorem Chip.setDmn_estr (k : Nat) (x : Domain) : (s.setDmn k x).estr = s.estr := rfl
@[simp] theorem Chip.setDmn_pager (k : Nat) (x : Domain) : (s.setDmn k x).pager = s.pager := rfl
@[simp] theorem Chip.setDmn_tines (k : Nat) (x : Domain) : (s.setDmn k x).tines = s.tines := rfl
@[simp] theorem Chip.setDmn_images (k : Nat) (x : Domain) : (s.setDmn k x).images = s.images := rfl
@[simp] theorem Chip.setDmn_kernels (k : Nat) (x : Domain) : (s.setDmn k x).kernels = s.kernels := rfl
@[simp] theorem Chip.setDmn_cans (k : Nat) (x : Domain) : (s.setDmn k x).cans = s.cans := rfl
@[simp] theorem Chip.setDmn_release (k : Nat) (x : Domain) : (s.setDmn k x).release = s.release := rfl
@[simp] theorem Chip.setDmn_profPend (k : Nat) (x : Domain) : (s.setDmn k x).profPend = s.profPend := rfl
@[simp] theorem Chip.setDmn_profPendDom (k : Nat) (x : Domain) : (s.setDmn k x).profPendDom = s.profPendDom := rfl
@[simp] theorem Chip.setDmn_newQ (k : Nat) (x : Domain) : (s.setDmn k x).newQ = s.newQ := rfl
@[simp] theorem Chip.setDmn_power (k : Nat) (x : Domain) : (s.setDmn k x).power = s.power := rfl
@[simp] theorem Chip.setDmn_lock (k : Nat) (x : Domain) : (s.setDmn k x).lock = s.lock := rfl
@[simp] theorem Chip.setDmn_regions (k : Nat) (x : Domain) : (s.setDmn k x).regions = s.regions := rfl
@[simp] theorem Chip.setDmn_arbLast (k : Nat) (x : Domain) : (s.setDmn k x).arbLast = s.arbLast := rfl
@[simp] theorem Chip.setDmn_bleats (k : Nat) (x : Domain) : (s.setDmn k x).bleats = s.bleats := rfl
@[simp] theorem Chip.setDmn_pulses (k : Nat) (x : Domain) : (s.setDmn k x).pulses = s.pulses := rfl
@[simp] theorem Chip.setDmn_gens (k : Nat) (x : Domain) : (s.setDmn k x).gens = s.gens := rfl
@[simp] theorem Chip.setDmn_reload (k : Nat) (x : Domain) : (s.setDmn k x).reload = s.reload := rfl
@[simp] theorem Chip.setDmn_sessions (k : Nat) (x : Domain) : (s.setDmn k x).sessions = s.sessions := rfl
@[simp] theorem Chip.setDmn_parents (k : Nat) (x : Domain) : (s.setDmn k x).parents = s.parents := rfl
@[simp] theorem Chip.setDmn_children (k : Nat) (x : Domain) : (s.setDmn k x).children = s.children := rfl
@[simp] theorem Chip.setDmn_usdo (k : Nat) (x : Domain) : (s.setDmn k x).usdo = s.usdo := rfl
@[simp] theorem Chip.setDmn_rd (k : Nat) (x : Domain) (i' j' : Nat) : (s.setDmn k x).rd i' j' = s.rd i' j' := rfl
@[simp] theorem Chip.setDmn_rdBit (k : Nat) (x : Domain) (i' j' b' : Nat) : (s.setDmn k x).rdBit i' j' b' = s.rdBit i' j' b' := rfl
@[simp] theorem Chip.setDmn_rdDom (k : Nat) (x : Domain) (i' j' : Nat) : (s.setDmn k x).rdDom i' j' = s.rdDom i' j' := rfl
@[simp] theorem Chip.setDmn_ch (k : Nat) (x : Domain) (q : Nat) : (s.setDmn k x).ch q = s.ch q := rfl
@[simp] theorem Chip.setDmn_grp (k : Nat) (x : Domain) (q : Nat) : (s.setDmn k x).grp q = s.grp q := rfl
@[simp] theorem Chip.setDmn_st (k : Nat) (x : Domain) (q : Nat) : (s.setDmn k x).st q = s.st q := rfl
@[simp] theorem Chip.setDmn_ring (k : Nat) (x : Domain) (q : Nat) : (s.setDmn k x).ring q = s.ring q := rfl
@[simp] theorem Chip.setDmn_slice (k : Nat) (x : Domain) (q : Nat) : (s.setDmn k x).slice q = s.slice q := rfl
@[simp] theorem Chip.setDmn_hrd (k : Nat) (x : Domain) (q : Nat) : (s.setDmn k x).hrd q = s.hrd q := rfl
@[simp] theorem Chip.setDmn_sus (k : Nat) (x : Domain) (q : Nat) : (s.setDmn k x).sus q = s.sus q := rfl

/-! ### setChild -/

@[simp] theorem Chip.setChild_fresh (k : Nat) (x : Child) : (s.setChild k x).fresh = s.fresh := rfl
@[simp] theorem Chip.setChild_ans (k : Nat) (x : Child) : (s.setChild k x).ans = s.ans := rfl
@[simp] theorem Chip.setChild_od (k : Nat) (x : Child) : (s.setChild k x).od = s.od := rfl
@[simp] theorem Chip.setChild_dom (k : Nat) (x : Child) : (s.setChild k x).dom = s.dom := rfl
@[simp] theorem Chip.setChild_mode (k : Nat) (x : Child) : (s.setChild k x).mode = s.mode := rfl
@[simp] theorem Chip.setChild_trans (k : Nat) (x : Child) : (s.setChild k x).trans = s.trans := rfl
@[simp] theorem Chip.setChild_readyTick (k : Nat) (x : Child) : (s.setChild k x).readyTick = s.readyTick := rfl
@[simp] theorem Chip.setChild_actReq (k : Nat) (x : Child) : (s.setChild k x).actReq = s.actReq := rfl
@[simp] theorem Chip.setChild_actAns (k : Nat) (x : Child) : (s.setChild k x).actAns = s.actAns := rfl
@[simp] theorem Chip.setChild_clk (k : Nat) (x : Child) : (s.setChild k x).clk = s.clk := rfl
@[simp] theorem Chip.setChild_up (k : Nat) (x : Child) : (s.setChild k x).up = s.up := rfl
@[simp] theorem Chip.setChild_link (k : Nat) (x : Child) : (s.setChild k x).link = s.link := rfl
@[simp] theorem Chip.setChild_trip (k : Nat) (x : Child) : (s.setChild k x).trip = s.trip := rfl
@[simp] theorem Chip.setChild_chan (k : Nat) (x : Child) : (s.setChild k x).chan = s.chan := rfl
@[simp] theorem Chip.setChild_group (k : Nat) (x : Child) : (s.setChild k x).group = s.group := rfl
@[simp] theorem Chip.setChild_adopt (k : Nat) (x : Child) : (s.setChild k x).adopt = s.adopt := rfl
@[simp] theorem Chip.setChild_strs (k : Nat) (x : Child) : (s.setChild k x).strs = s.strs := rfl
@[simp] theorem Chip.setChild_swi (k : Nat) (x : Child) : (s.setChild k x).swi = s.swi := rfl
@[simp] theorem Chip.setChild_claims (k : Nat) (x : Child) : (s.setChild k x).claims = s.claims := rfl
@[simp] theorem Chip.setChild_nextClaim (k : Nat) (x : Child) : (s.setChild k x).nextClaim = s.nextClaim := rfl
@[simp] theorem Chip.setChild_port (k : Nat) (x : Child) : (s.setChild k x).port = s.port := rfl
@[simp] theorem Chip.setChild_slices (k : Nat) (x : Child) : (s.setChild k x).slices = s.slices := rfl
@[simp] theorem Chip.setChild_rings (k : Nat) (x : Child) : (s.setChild k x).rings = s.rings := rfl
@[simp] theorem Chip.setChild_herd (k : Nat) (x : Child) : (s.setChild k x).herd = s.herd := rfl
@[simp] theorem Chip.setChild_sched (k : Nat) (x : Child) : (s.setChild k x).sched = s.sched := rfl
@[simp] theorem Chip.setChild_front (k : Nat) (x : Child) : (s.setChild k x).front = s.front := rfl
@[simp] theorem Chip.setChild_slotData (k : Nat) (x : Child) : (s.setChild k x).slotData = s.slotData := rfl
@[simp] theorem Chip.setChild_slotPub (k : Nat) (x : Child) : (s.setChild k x).slotPub = s.slotPub := rfl
@[simp] theorem Chip.setChild_slotOld (k : Nat) (x : Child) : (s.setChild k x).slotOld = s.slotOld := rfl
@[simp] theorem Chip.setChild_burstData (k : Nat) (x : Child) : (s.setChild k x).burstData = s.burstData := rfl
@[simp] theorem Chip.setChild_duty (k : Nat) (x : Child) : (s.setChild k x).duty = s.duty := rfl
@[simp] theorem Chip.setChild_suspects (k : Nat) (x : Child) : (s.setChild k x).suspects = s.suspects := rfl
@[simp] theorem Chip.setChild_settling (k : Nat) (x : Child) : (s.setChild k x).settling = s.settling := rfl
@[simp] theorem Chip.setChild_acting (k : Nat) (x : Child) : (s.setChild k x).acting = s.acting := rfl
@[simp] theorem Chip.setChild_prot (k : Nat) (x : Child) : (s.setChild k x).prot = s.prot := rfl
@[simp] theorem Chip.setChild_protOld (k : Nat) (x : Child) : (s.setChild k x).protOld = s.protOld := rfl
@[simp] theorem Chip.setChild_tHist (k : Nat) (x : Child) : (s.setChild k x).tHist = s.tHist := rfl
@[simp] theorem Chip.setChild_fast (k : Nat) (x : Child) : (s.setChild k x).fast = s.fast := rfl
@[simp] theorem Chip.setChild_fastOld (k : Nat) (x : Child) : (s.setChild k x).fastOld = s.fastOld := rfl
@[simp] theorem Chip.setChild_elemOld (k : Nat) (x : Child) : (s.setChild k x).elemOld = s.elemOld := rfl
@[simp] theorem Chip.setChild_pub (k : Nat) (x : Child) : (s.setChild k x).pub = s.pub := rfl
@[simp] theorem Chip.setChild_pubOld (k : Nat) (x : Child) : (s.setChild k x).pubOld = s.pubOld := rfl
@[simp] theorem Chip.setChild_limOld (k : Nat) (x : Child) : (s.setChild k x).limOld = s.limOld := rfl
@[simp] theorem Chip.setChild_flagsOld (k : Nat) (x : Child) : (s.setChild k x).flagsOld = s.flagsOld := rfl
@[simp] theorem Chip.setChild_elem (k : Nat) (x : Child) : (s.setChild k x).elem = s.elem := rfl
@[simp] theorem Chip.setChild_estr (k : Nat) (x : Child) : (s.setChild k x).estr = s.estr := rfl
@[simp] theorem Chip.setChild_pager (k : Nat) (x : Child) : (s.setChild k x).pager = s.pager := rfl
@[simp] theorem Chip.setChild_tines (k : Nat) (x : Child) : (s.setChild k x).tines = s.tines := rfl
@[simp] theorem Chip.setChild_images (k : Nat) (x : Child) : (s.setChild k x).images = s.images := rfl
@[simp] theorem Chip.setChild_kernels (k : Nat) (x : Child) : (s.setChild k x).kernels = s.kernels := rfl
@[simp] theorem Chip.setChild_cans (k : Nat) (x : Child) : (s.setChild k x).cans = s.cans := rfl
@[simp] theorem Chip.setChild_release (k : Nat) (x : Child) : (s.setChild k x).release = s.release := rfl
@[simp] theorem Chip.setChild_profPend (k : Nat) (x : Child) : (s.setChild k x).profPend = s.profPend := rfl
@[simp] theorem Chip.setChild_profPendDom (k : Nat) (x : Child) : (s.setChild k x).profPendDom = s.profPendDom := rfl
@[simp] theorem Chip.setChild_newQ (k : Nat) (x : Child) : (s.setChild k x).newQ = s.newQ := rfl
@[simp] theorem Chip.setChild_power (k : Nat) (x : Child) : (s.setChild k x).power = s.power := rfl
@[simp] theorem Chip.setChild_lock (k : Nat) (x : Child) : (s.setChild k x).lock = s.lock := rfl
@[simp] theorem Chip.setChild_regions (k : Nat) (x : Child) : (s.setChild k x).regions = s.regions := rfl
@[simp] theorem Chip.setChild_arbLast (k : Nat) (x : Child) : (s.setChild k x).arbLast = s.arbLast := rfl
@[simp] theorem Chip.setChild_bleats (k : Nat) (x : Child) : (s.setChild k x).bleats = s.bleats := rfl
@[simp] theorem Chip.setChild_pulses (k : Nat) (x : Child) : (s.setChild k x).pulses = s.pulses := rfl
@[simp] theorem Chip.setChild_gens (k : Nat) (x : Child) : (s.setChild k x).gens = s.gens := rfl
@[simp] theorem Chip.setChild_reload (k : Nat) (x : Child) : (s.setChild k x).reload = s.reload := rfl
@[simp] theorem Chip.setChild_time (k : Nat) (x : Child) : (s.setChild k x).time = s.time := rfl
@[simp] theorem Chip.setChild_sessions (k : Nat) (x : Child) : (s.setChild k x).sessions = s.sessions := rfl
@[simp] theorem Chip.setChild_parents (k : Nat) (x : Child) : (s.setChild k x).parents = s.parents := rfl
@[simp] theorem Chip.setChild_usdo (k : Nat) (x : Child) : (s.setChild k x).usdo = s.usdo := rfl
@[simp] theorem Chip.setChild_rd (k : Nat) (x : Child) (i' j' : Nat) : (s.setChild k x).rd i' j' = s.rd i' j' := rfl
@[simp] theorem Chip.setChild_rdBit (k : Nat) (x : Child) (i' j' b' : Nat) : (s.setChild k x).rdBit i' j' b' = s.rdBit i' j' b' := rfl
@[simp] theorem Chip.setChild_rdDom (k : Nat) (x : Child) (i' j' : Nat) : (s.setChild k x).rdDom i' j' = s.rdDom i' j' := rfl
@[simp] theorem Chip.setChild_ch (k : Nat) (x : Child) (q : Nat) : (s.setChild k x).ch q = s.ch q := rfl
@[simp] theorem Chip.setChild_grp (k : Nat) (x : Child) (q : Nat) : (s.setChild k x).grp q = s.grp q := rfl
@[simp] theorem Chip.setChild_st (k : Nat) (x : Child) (q : Nat) : (s.setChild k x).st q = s.st q := rfl
@[simp] theorem Chip.setChild_ring (k : Nat) (x : Child) (q : Nat) : (s.setChild k x).ring q = s.ring q := rfl
@[simp] theorem Chip.setChild_slice (k : Nat) (x : Child) (q : Nat) : (s.setChild k x).slice q = s.slice q := rfl
@[simp] theorem Chip.setChild_hrd (k : Nat) (x : Child) (q : Nat) : (s.setChild k x).hrd q = s.hrd q := rfl
@[simp] theorem Chip.setChild_sus (k : Nat) (x : Child) (q : Nat) : (s.setChild k x).sus q = s.sus q := rfl

/-! ### setSus -/

@[simp] theorem Chip.setSus_fresh (k : Nat) (x : Suspect) : (s.setSus k x).fresh = s.fresh := rfl
@[simp] theorem Chip.setSus_ans (k : Nat) (x : Suspect) : (s.setSus k x).ans = s.ans := rfl
@[simp] theorem Chip.setSus_od (k : Nat) (x : Suspect) : (s.setSus k x).od = s.od := rfl
@[simp] theorem Chip.setSus_dom (k : Nat) (x : Suspect) : (s.setSus k x).dom = s.dom := rfl
@[simp] theorem Chip.setSus_mode (k : Nat) (x : Suspect) : (s.setSus k x).mode = s.mode := rfl
@[simp] theorem Chip.setSus_trans (k : Nat) (x : Suspect) : (s.setSus k x).trans = s.trans := rfl
@[simp] theorem Chip.setSus_readyTick (k : Nat) (x : Suspect) : (s.setSus k x).readyTick = s.readyTick := rfl
@[simp] theorem Chip.setSus_actReq (k : Nat) (x : Suspect) : (s.setSus k x).actReq = s.actReq := rfl
@[simp] theorem Chip.setSus_actAns (k : Nat) (x : Suspect) : (s.setSus k x).actAns = s.actAns := rfl
@[simp] theorem Chip.setSus_clk (k : Nat) (x : Suspect) : (s.setSus k x).clk = s.clk := rfl
@[simp] theorem Chip.setSus_up (k : Nat) (x : Suspect) : (s.setSus k x).up = s.up := rfl
@[simp] theorem Chip.setSus_link (k : Nat) (x : Suspect) : (s.setSus k x).link = s.link := rfl
@[simp] theorem Chip.setSus_trip (k : Nat) (x : Suspect) : (s.setSus k x).trip = s.trip := rfl
@[simp] theorem Chip.setSus_chan (k : Nat) (x : Suspect) : (s.setSus k x).chan = s.chan := rfl
@[simp] theorem Chip.setSus_group (k : Nat) (x : Suspect) : (s.setSus k x).group = s.group := rfl
@[simp] theorem Chip.setSus_adopt (k : Nat) (x : Suspect) : (s.setSus k x).adopt = s.adopt := rfl
@[simp] theorem Chip.setSus_strs (k : Nat) (x : Suspect) : (s.setSus k x).strs = s.strs := rfl
@[simp] theorem Chip.setSus_swi (k : Nat) (x : Suspect) : (s.setSus k x).swi = s.swi := rfl
@[simp] theorem Chip.setSus_claims (k : Nat) (x : Suspect) : (s.setSus k x).claims = s.claims := rfl
@[simp] theorem Chip.setSus_nextClaim (k : Nat) (x : Suspect) : (s.setSus k x).nextClaim = s.nextClaim := rfl
@[simp] theorem Chip.setSus_port (k : Nat) (x : Suspect) : (s.setSus k x).port = s.port := rfl
@[simp] theorem Chip.setSus_slices (k : Nat) (x : Suspect) : (s.setSus k x).slices = s.slices := rfl
@[simp] theorem Chip.setSus_rings (k : Nat) (x : Suspect) : (s.setSus k x).rings = s.rings := rfl
@[simp] theorem Chip.setSus_herd (k : Nat) (x : Suspect) : (s.setSus k x).herd = s.herd := rfl
@[simp] theorem Chip.setSus_sched (k : Nat) (x : Suspect) : (s.setSus k x).sched = s.sched := rfl
@[simp] theorem Chip.setSus_front (k : Nat) (x : Suspect) : (s.setSus k x).front = s.front := rfl
@[simp] theorem Chip.setSus_slotData (k : Nat) (x : Suspect) : (s.setSus k x).slotData = s.slotData := rfl
@[simp] theorem Chip.setSus_slotPub (k : Nat) (x : Suspect) : (s.setSus k x).slotPub = s.slotPub := rfl
@[simp] theorem Chip.setSus_slotOld (k : Nat) (x : Suspect) : (s.setSus k x).slotOld = s.slotOld := rfl
@[simp] theorem Chip.setSus_burstData (k : Nat) (x : Suspect) : (s.setSus k x).burstData = s.burstData := rfl
@[simp] theorem Chip.setSus_duty (k : Nat) (x : Suspect) : (s.setSus k x).duty = s.duty := rfl
@[simp] theorem Chip.setSus_settling (k : Nat) (x : Suspect) : (s.setSus k x).settling = s.settling := rfl
@[simp] theorem Chip.setSus_acting (k : Nat) (x : Suspect) : (s.setSus k x).acting = s.acting := rfl
@[simp] theorem Chip.setSus_prot (k : Nat) (x : Suspect) : (s.setSus k x).prot = s.prot := rfl
@[simp] theorem Chip.setSus_protOld (k : Nat) (x : Suspect) : (s.setSus k x).protOld = s.protOld := rfl
@[simp] theorem Chip.setSus_tHist (k : Nat) (x : Suspect) : (s.setSus k x).tHist = s.tHist := rfl
@[simp] theorem Chip.setSus_fast (k : Nat) (x : Suspect) : (s.setSus k x).fast = s.fast := rfl
@[simp] theorem Chip.setSus_fastOld (k : Nat) (x : Suspect) : (s.setSus k x).fastOld = s.fastOld := rfl
@[simp] theorem Chip.setSus_elemOld (k : Nat) (x : Suspect) : (s.setSus k x).elemOld = s.elemOld := rfl
@[simp] theorem Chip.setSus_pub (k : Nat) (x : Suspect) : (s.setSus k x).pub = s.pub := rfl
@[simp] theorem Chip.setSus_pubOld (k : Nat) (x : Suspect) : (s.setSus k x).pubOld = s.pubOld := rfl
@[simp] theorem Chip.setSus_limOld (k : Nat) (x : Suspect) : (s.setSus k x).limOld = s.limOld := rfl
@[simp] theorem Chip.setSus_flagsOld (k : Nat) (x : Suspect) : (s.setSus k x).flagsOld = s.flagsOld := rfl
@[simp] theorem Chip.setSus_elem (k : Nat) (x : Suspect) : (s.setSus k x).elem = s.elem := rfl
@[simp] theorem Chip.setSus_estr (k : Nat) (x : Suspect) : (s.setSus k x).estr = s.estr := rfl
@[simp] theorem Chip.setSus_pager (k : Nat) (x : Suspect) : (s.setSus k x).pager = s.pager := rfl
@[simp] theorem Chip.setSus_tines (k : Nat) (x : Suspect) : (s.setSus k x).tines = s.tines := rfl
@[simp] theorem Chip.setSus_images (k : Nat) (x : Suspect) : (s.setSus k x).images = s.images := rfl
@[simp] theorem Chip.setSus_kernels (k : Nat) (x : Suspect) : (s.setSus k x).kernels = s.kernels := rfl
@[simp] theorem Chip.setSus_cans (k : Nat) (x : Suspect) : (s.setSus k x).cans = s.cans := rfl
@[simp] theorem Chip.setSus_release (k : Nat) (x : Suspect) : (s.setSus k x).release = s.release := rfl
@[simp] theorem Chip.setSus_profPend (k : Nat) (x : Suspect) : (s.setSus k x).profPend = s.profPend := rfl
@[simp] theorem Chip.setSus_profPendDom (k : Nat) (x : Suspect) : (s.setSus k x).profPendDom = s.profPendDom := rfl
@[simp] theorem Chip.setSus_newQ (k : Nat) (x : Suspect) : (s.setSus k x).newQ = s.newQ := rfl
@[simp] theorem Chip.setSus_power (k : Nat) (x : Suspect) : (s.setSus k x).power = s.power := rfl
@[simp] theorem Chip.setSus_lock (k : Nat) (x : Suspect) : (s.setSus k x).lock = s.lock := rfl
@[simp] theorem Chip.setSus_regions (k : Nat) (x : Suspect) : (s.setSus k x).regions = s.regions := rfl
@[simp] theorem Chip.setSus_arbLast (k : Nat) (x : Suspect) : (s.setSus k x).arbLast = s.arbLast := rfl
@[simp] theorem Chip.setSus_bleats (k : Nat) (x : Suspect) : (s.setSus k x).bleats = s.bleats := rfl
@[simp] theorem Chip.setSus_pulses (k : Nat) (x : Suspect) : (s.setSus k x).pulses = s.pulses := rfl
@[simp] theorem Chip.setSus_gens (k : Nat) (x : Suspect) : (s.setSus k x).gens = s.gens := rfl
@[simp] theorem Chip.setSus_reload (k : Nat) (x : Suspect) : (s.setSus k x).reload = s.reload := rfl
@[simp] theorem Chip.setSus_time (k : Nat) (x : Suspect) : (s.setSus k x).time = s.time := rfl
@[simp] theorem Chip.setSus_sessions (k : Nat) (x : Suspect) : (s.setSus k x).sessions = s.sessions := rfl
@[simp] theorem Chip.setSus_parents (k : Nat) (x : Suspect) : (s.setSus k x).parents = s.parents := rfl
@[simp] theorem Chip.setSus_children (k : Nat) (x : Suspect) : (s.setSus k x).children = s.children := rfl
@[simp] theorem Chip.setSus_usdo (k : Nat) (x : Suspect) : (s.setSus k x).usdo = s.usdo := rfl
@[simp] theorem Chip.setSus_rd (k : Nat) (x : Suspect) (i' j' : Nat) : (s.setSus k x).rd i' j' = s.rd i' j' := rfl
@[simp] theorem Chip.setSus_rdBit (k : Nat) (x : Suspect) (i' j' b' : Nat) : (s.setSus k x).rdBit i' j' b' = s.rdBit i' j' b' := rfl
@[simp] theorem Chip.setSus_rdDom (k : Nat) (x : Suspect) (i' j' : Nat) : (s.setSus k x).rdDom i' j' = s.rdDom i' j' := rfl
@[simp] theorem Chip.setSus_ch (k : Nat) (x : Suspect) (q : Nat) : (s.setSus k x).ch q = s.ch q := rfl
@[simp] theorem Chip.setSus_grp (k : Nat) (x : Suspect) (q : Nat) : (s.setSus k x).grp q = s.grp q := rfl
@[simp] theorem Chip.setSus_st (k : Nat) (x : Suspect) (q : Nat) : (s.setSus k x).st q = s.st q := rfl
@[simp] theorem Chip.setSus_ring (k : Nat) (x : Suspect) (q : Nat) : (s.setSus k x).ring q = s.ring q := rfl
@[simp] theorem Chip.setSus_slice (k : Nat) (x : Suspect) (q : Nat) : (s.setSus k x).slice q = s.slice q := rfl
@[simp] theorem Chip.setSus_hrd (k : Nat) (x : Suspect) (q : Nat) : (s.setSus k x).hrd q = s.hrd q := rfl

/-! ### setPage -/

@[simp] theorem Chip.setPage_fresh (k : Nat) (x : Page) : (s.setPage k x).fresh = s.fresh := rfl
@[simp] theorem Chip.setPage_ans (k : Nat) (x : Page) : (s.setPage k x).ans = s.ans := rfl
@[simp] theorem Chip.setPage_od (k : Nat) (x : Page) : (s.setPage k x).od = s.od := rfl
@[simp] theorem Chip.setPage_dom (k : Nat) (x : Page) : (s.setPage k x).dom = s.dom := rfl
@[simp] theorem Chip.setPage_mode (k : Nat) (x : Page) : (s.setPage k x).mode = s.mode := rfl
@[simp] theorem Chip.setPage_trans (k : Nat) (x : Page) : (s.setPage k x).trans = s.trans := rfl
@[simp] theorem Chip.setPage_readyTick (k : Nat) (x : Page) : (s.setPage k x).readyTick = s.readyTick := rfl
@[simp] theorem Chip.setPage_actReq (k : Nat) (x : Page) : (s.setPage k x).actReq = s.actReq := rfl
@[simp] theorem Chip.setPage_actAns (k : Nat) (x : Page) : (s.setPage k x).actAns = s.actAns := rfl
@[simp] theorem Chip.setPage_clk (k : Nat) (x : Page) : (s.setPage k x).clk = s.clk := rfl
@[simp] theorem Chip.setPage_up (k : Nat) (x : Page) : (s.setPage k x).up = s.up := rfl
@[simp] theorem Chip.setPage_link (k : Nat) (x : Page) : (s.setPage k x).link = s.link := rfl
@[simp] theorem Chip.setPage_trip (k : Nat) (x : Page) : (s.setPage k x).trip = s.trip := rfl
@[simp] theorem Chip.setPage_chan (k : Nat) (x : Page) : (s.setPage k x).chan = s.chan := rfl
@[simp] theorem Chip.setPage_group (k : Nat) (x : Page) : (s.setPage k x).group = s.group := rfl
@[simp] theorem Chip.setPage_adopt (k : Nat) (x : Page) : (s.setPage k x).adopt = s.adopt := rfl
@[simp] theorem Chip.setPage_strs (k : Nat) (x : Page) : (s.setPage k x).strs = s.strs := rfl
@[simp] theorem Chip.setPage_swi (k : Nat) (x : Page) : (s.setPage k x).swi = s.swi := rfl
@[simp] theorem Chip.setPage_claims (k : Nat) (x : Page) : (s.setPage k x).claims = s.claims := rfl
@[simp] theorem Chip.setPage_nextClaim (k : Nat) (x : Page) : (s.setPage k x).nextClaim = s.nextClaim := rfl
@[simp] theorem Chip.setPage_port (k : Nat) (x : Page) : (s.setPage k x).port = s.port := rfl
@[simp] theorem Chip.setPage_slices (k : Nat) (x : Page) : (s.setPage k x).slices = s.slices := rfl
@[simp] theorem Chip.setPage_rings (k : Nat) (x : Page) : (s.setPage k x).rings = s.rings := rfl
@[simp] theorem Chip.setPage_herd (k : Nat) (x : Page) : (s.setPage k x).herd = s.herd := rfl
@[simp] theorem Chip.setPage_sched (k : Nat) (x : Page) : (s.setPage k x).sched = s.sched := rfl
@[simp] theorem Chip.setPage_front (k : Nat) (x : Page) : (s.setPage k x).front = s.front := rfl
@[simp] theorem Chip.setPage_slotData (k : Nat) (x : Page) : (s.setPage k x).slotData = s.slotData := rfl
@[simp] theorem Chip.setPage_slotPub (k : Nat) (x : Page) : (s.setPage k x).slotPub = s.slotPub := rfl
@[simp] theorem Chip.setPage_slotOld (k : Nat) (x : Page) : (s.setPage k x).slotOld = s.slotOld := rfl
@[simp] theorem Chip.setPage_burstData (k : Nat) (x : Page) : (s.setPage k x).burstData = s.burstData := rfl
@[simp] theorem Chip.setPage_duty (k : Nat) (x : Page) : (s.setPage k x).duty = s.duty := rfl
@[simp] theorem Chip.setPage_suspects (k : Nat) (x : Page) : (s.setPage k x).suspects = s.suspects := rfl
@[simp] theorem Chip.setPage_settling (k : Nat) (x : Page) : (s.setPage k x).settling = s.settling := rfl
@[simp] theorem Chip.setPage_acting (k : Nat) (x : Page) : (s.setPage k x).acting = s.acting := rfl
@[simp] theorem Chip.setPage_prot (k : Nat) (x : Page) : (s.setPage k x).prot = s.prot := rfl
@[simp] theorem Chip.setPage_protOld (k : Nat) (x : Page) : (s.setPage k x).protOld = s.protOld := rfl
@[simp] theorem Chip.setPage_tHist (k : Nat) (x : Page) : (s.setPage k x).tHist = s.tHist := rfl
@[simp] theorem Chip.setPage_fast (k : Nat) (x : Page) : (s.setPage k x).fast = s.fast := rfl
@[simp] theorem Chip.setPage_fastOld (k : Nat) (x : Page) : (s.setPage k x).fastOld = s.fastOld := rfl
@[simp] theorem Chip.setPage_elemOld (k : Nat) (x : Page) : (s.setPage k x).elemOld = s.elemOld := rfl
@[simp] theorem Chip.setPage_pub (k : Nat) (x : Page) : (s.setPage k x).pub = s.pub := rfl
@[simp] theorem Chip.setPage_pubOld (k : Nat) (x : Page) : (s.setPage k x).pubOld = s.pubOld := rfl
@[simp] theorem Chip.setPage_limOld (k : Nat) (x : Page) : (s.setPage k x).limOld = s.limOld := rfl
@[simp] theorem Chip.setPage_flagsOld (k : Nat) (x : Page) : (s.setPage k x).flagsOld = s.flagsOld := rfl
@[simp] theorem Chip.setPage_elem (k : Nat) (x : Page) : (s.setPage k x).elem = s.elem := rfl
@[simp] theorem Chip.setPage_estr (k : Nat) (x : Page) : (s.setPage k x).estr = s.estr := rfl
@[simp] theorem Chip.setPage_tines (k : Nat) (x : Page) : (s.setPage k x).tines = s.tines := rfl
@[simp] theorem Chip.setPage_images (k : Nat) (x : Page) : (s.setPage k x).images = s.images := rfl
@[simp] theorem Chip.setPage_kernels (k : Nat) (x : Page) : (s.setPage k x).kernels = s.kernels := rfl
@[simp] theorem Chip.setPage_cans (k : Nat) (x : Page) : (s.setPage k x).cans = s.cans := rfl
@[simp] theorem Chip.setPage_release (k : Nat) (x : Page) : (s.setPage k x).release = s.release := rfl
@[simp] theorem Chip.setPage_profPend (k : Nat) (x : Page) : (s.setPage k x).profPend = s.profPend := rfl
@[simp] theorem Chip.setPage_profPendDom (k : Nat) (x : Page) : (s.setPage k x).profPendDom = s.profPendDom := rfl
@[simp] theorem Chip.setPage_newQ (k : Nat) (x : Page) : (s.setPage k x).newQ = s.newQ := rfl
@[simp] theorem Chip.setPage_power (k : Nat) (x : Page) : (s.setPage k x).power = s.power := rfl
@[simp] theorem Chip.setPage_lock (k : Nat) (x : Page) : (s.setPage k x).lock = s.lock := rfl
@[simp] theorem Chip.setPage_regions (k : Nat) (x : Page) : (s.setPage k x).regions = s.regions := rfl
@[simp] theorem Chip.setPage_arbLast (k : Nat) (x : Page) : (s.setPage k x).arbLast = s.arbLast := rfl
@[simp] theorem Chip.setPage_bleats (k : Nat) (x : Page) : (s.setPage k x).bleats = s.bleats := rfl
@[simp] theorem Chip.setPage_pulses (k : Nat) (x : Page) : (s.setPage k x).pulses = s.pulses := rfl
@[simp] theorem Chip.setPage_gens (k : Nat) (x : Page) : (s.setPage k x).gens = s.gens := rfl
@[simp] theorem Chip.setPage_reload (k : Nat) (x : Page) : (s.setPage k x).reload = s.reload := rfl
@[simp] theorem Chip.setPage_time (k : Nat) (x : Page) : (s.setPage k x).time = s.time := rfl
@[simp] theorem Chip.setPage_sessions (k : Nat) (x : Page) : (s.setPage k x).sessions = s.sessions := rfl
@[simp] theorem Chip.setPage_parents (k : Nat) (x : Page) : (s.setPage k x).parents = s.parents := rfl
@[simp] theorem Chip.setPage_children (k : Nat) (x : Page) : (s.setPage k x).children = s.children := rfl
@[simp] theorem Chip.setPage_usdo (k : Nat) (x : Page) : (s.setPage k x).usdo = s.usdo := rfl
@[simp] theorem Chip.setPage_rd (k : Nat) (x : Page) (i' j' : Nat) : (s.setPage k x).rd i' j' = s.rd i' j' := rfl
@[simp] theorem Chip.setPage_rdBit (k : Nat) (x : Page) (i' j' b' : Nat) : (s.setPage k x).rdBit i' j' b' = s.rdBit i' j' b' := rfl
@[simp] theorem Chip.setPage_rdDom (k : Nat) (x : Page) (i' j' : Nat) : (s.setPage k x).rdDom i' j' = s.rdDom i' j' := rfl
@[simp] theorem Chip.setPage_ch (k : Nat) (x : Page) (q : Nat) : (s.setPage k x).ch q = s.ch q := rfl
@[simp] theorem Chip.setPage_grp (k : Nat) (x : Page) (q : Nat) : (s.setPage k x).grp q = s.grp q := rfl
@[simp] theorem Chip.setPage_st (k : Nat) (x : Page) (q : Nat) : (s.setPage k x).st q = s.st q := rfl
@[simp] theorem Chip.setPage_ring (k : Nat) (x : Page) (q : Nat) : (s.setPage k x).ring q = s.ring q := rfl
@[simp] theorem Chip.setPage_slice (k : Nat) (x : Page) (q : Nat) : (s.setPage k x).slice q = s.slice q := rfl
@[simp] theorem Chip.setPage_hrd (k : Nat) (x : Page) (q : Nat) : (s.setPage k x).hrd q = s.hrd q := rfl
@[simp] theorem Chip.setPage_sus (k : Nat) (x : Page) (q : Nat) : (s.setPage k x).sus q = s.sus q := rfl

/-! ### dropPage -/

@[simp] theorem Chip.dropPage_fresh (k : Nat) : (s.dropPage k).fresh = s.fresh := rfl
@[simp] theorem Chip.dropPage_ans (k : Nat) : (s.dropPage k).ans = s.ans := rfl
@[simp] theorem Chip.dropPage_od (k : Nat) : (s.dropPage k).od = s.od := rfl
@[simp] theorem Chip.dropPage_dom (k : Nat) : (s.dropPage k).dom = s.dom := rfl
@[simp] theorem Chip.dropPage_mode (k : Nat) : (s.dropPage k).mode = s.mode := rfl
@[simp] theorem Chip.dropPage_trans (k : Nat) : (s.dropPage k).trans = s.trans := rfl
@[simp] theorem Chip.dropPage_readyTick (k : Nat) : (s.dropPage k).readyTick = s.readyTick := rfl
@[simp] theorem Chip.dropPage_actReq (k : Nat) : (s.dropPage k).actReq = s.actReq := rfl
@[simp] theorem Chip.dropPage_actAns (k : Nat) : (s.dropPage k).actAns = s.actAns := rfl
@[simp] theorem Chip.dropPage_clk (k : Nat) : (s.dropPage k).clk = s.clk := rfl
@[simp] theorem Chip.dropPage_up (k : Nat) : (s.dropPage k).up = s.up := rfl
@[simp] theorem Chip.dropPage_link (k : Nat) : (s.dropPage k).link = s.link := rfl
@[simp] theorem Chip.dropPage_trip (k : Nat) : (s.dropPage k).trip = s.trip := rfl
@[simp] theorem Chip.dropPage_chan (k : Nat) : (s.dropPage k).chan = s.chan := rfl
@[simp] theorem Chip.dropPage_group (k : Nat) : (s.dropPage k).group = s.group := rfl
@[simp] theorem Chip.dropPage_adopt (k : Nat) : (s.dropPage k).adopt = s.adopt := rfl
@[simp] theorem Chip.dropPage_strs (k : Nat) : (s.dropPage k).strs = s.strs := rfl
@[simp] theorem Chip.dropPage_swi (k : Nat) : (s.dropPage k).swi = s.swi := rfl
@[simp] theorem Chip.dropPage_claims (k : Nat) : (s.dropPage k).claims = s.claims := rfl
@[simp] theorem Chip.dropPage_nextClaim (k : Nat) : (s.dropPage k).nextClaim = s.nextClaim := rfl
@[simp] theorem Chip.dropPage_port (k : Nat) : (s.dropPage k).port = s.port := rfl
@[simp] theorem Chip.dropPage_slices (k : Nat) : (s.dropPage k).slices = s.slices := rfl
@[simp] theorem Chip.dropPage_rings (k : Nat) : (s.dropPage k).rings = s.rings := rfl
@[simp] theorem Chip.dropPage_herd (k : Nat) : (s.dropPage k).herd = s.herd := rfl
@[simp] theorem Chip.dropPage_sched (k : Nat) : (s.dropPage k).sched = s.sched := rfl
@[simp] theorem Chip.dropPage_front (k : Nat) : (s.dropPage k).front = s.front := rfl
@[simp] theorem Chip.dropPage_slotData (k : Nat) : (s.dropPage k).slotData = s.slotData := rfl
@[simp] theorem Chip.dropPage_slotPub (k : Nat) : (s.dropPage k).slotPub = s.slotPub := rfl
@[simp] theorem Chip.dropPage_slotOld (k : Nat) : (s.dropPage k).slotOld = s.slotOld := rfl
@[simp] theorem Chip.dropPage_burstData (k : Nat) : (s.dropPage k).burstData = s.burstData := rfl
@[simp] theorem Chip.dropPage_duty (k : Nat) : (s.dropPage k).duty = s.duty := rfl
@[simp] theorem Chip.dropPage_suspects (k : Nat) : (s.dropPage k).suspects = s.suspects := rfl
@[simp] theorem Chip.dropPage_settling (k : Nat) : (s.dropPage k).settling = s.settling := rfl
@[simp] theorem Chip.dropPage_acting (k : Nat) : (s.dropPage k).acting = s.acting := rfl
@[simp] theorem Chip.dropPage_prot (k : Nat) : (s.dropPage k).prot = s.prot := rfl
@[simp] theorem Chip.dropPage_protOld (k : Nat) : (s.dropPage k).protOld = s.protOld := rfl
@[simp] theorem Chip.dropPage_tHist (k : Nat) : (s.dropPage k).tHist = s.tHist := rfl
@[simp] theorem Chip.dropPage_fast (k : Nat) : (s.dropPage k).fast = s.fast := rfl
@[simp] theorem Chip.dropPage_fastOld (k : Nat) : (s.dropPage k).fastOld = s.fastOld := rfl
@[simp] theorem Chip.dropPage_elemOld (k : Nat) : (s.dropPage k).elemOld = s.elemOld := rfl
@[simp] theorem Chip.dropPage_pub (k : Nat) : (s.dropPage k).pub = s.pub := rfl
@[simp] theorem Chip.dropPage_pubOld (k : Nat) : (s.dropPage k).pubOld = s.pubOld := rfl
@[simp] theorem Chip.dropPage_limOld (k : Nat) : (s.dropPage k).limOld = s.limOld := rfl
@[simp] theorem Chip.dropPage_flagsOld (k : Nat) : (s.dropPage k).flagsOld = s.flagsOld := rfl
@[simp] theorem Chip.dropPage_elem (k : Nat) : (s.dropPage k).elem = s.elem := rfl
@[simp] theorem Chip.dropPage_estr (k : Nat) : (s.dropPage k).estr = s.estr := rfl
@[simp] theorem Chip.dropPage_tines (k : Nat) : (s.dropPage k).tines = s.tines := rfl
@[simp] theorem Chip.dropPage_images (k : Nat) : (s.dropPage k).images = s.images := rfl
@[simp] theorem Chip.dropPage_kernels (k : Nat) : (s.dropPage k).kernels = s.kernels := rfl
@[simp] theorem Chip.dropPage_cans (k : Nat) : (s.dropPage k).cans = s.cans := rfl
@[simp] theorem Chip.dropPage_release (k : Nat) : (s.dropPage k).release = s.release := rfl
@[simp] theorem Chip.dropPage_profPend (k : Nat) : (s.dropPage k).profPend = s.profPend := rfl
@[simp] theorem Chip.dropPage_profPendDom (k : Nat) : (s.dropPage k).profPendDom = s.profPendDom := rfl
@[simp] theorem Chip.dropPage_newQ (k : Nat) : (s.dropPage k).newQ = s.newQ := rfl
@[simp] theorem Chip.dropPage_power (k : Nat) : (s.dropPage k).power = s.power := rfl
@[simp] theorem Chip.dropPage_lock (k : Nat) : (s.dropPage k).lock = s.lock := rfl
@[simp] theorem Chip.dropPage_regions (k : Nat) : (s.dropPage k).regions = s.regions := rfl
@[simp] theorem Chip.dropPage_arbLast (k : Nat) : (s.dropPage k).arbLast = s.arbLast := rfl
@[simp] theorem Chip.dropPage_bleats (k : Nat) : (s.dropPage k).bleats = s.bleats := rfl
@[simp] theorem Chip.dropPage_pulses (k : Nat) : (s.dropPage k).pulses = s.pulses := rfl
@[simp] theorem Chip.dropPage_gens (k : Nat) : (s.dropPage k).gens = s.gens := rfl
@[simp] theorem Chip.dropPage_reload (k : Nat) : (s.dropPage k).reload = s.reload := rfl
@[simp] theorem Chip.dropPage_time (k : Nat) : (s.dropPage k).time = s.time := rfl
@[simp] theorem Chip.dropPage_sessions (k : Nat) : (s.dropPage k).sessions = s.sessions := rfl
@[simp] theorem Chip.dropPage_parents (k : Nat) : (s.dropPage k).parents = s.parents := rfl
@[simp] theorem Chip.dropPage_children (k : Nat) : (s.dropPage k).children = s.children := rfl
@[simp] theorem Chip.dropPage_usdo (k : Nat) : (s.dropPage k).usdo = s.usdo := rfl
@[simp] theorem Chip.dropPage_rd (k : Nat) (i' j' : Nat) : (s.dropPage k).rd i' j' = s.rd i' j' := rfl
@[simp] theorem Chip.dropPage_rdBit (k : Nat) (i' j' b' : Nat) : (s.dropPage k).rdBit i' j' b' = s.rdBit i' j' b' := rfl
@[simp] theorem Chip.dropPage_rdDom (k : Nat) (i' j' : Nat) : (s.dropPage k).rdDom i' j' = s.rdDom i' j' := rfl
@[simp] theorem Chip.dropPage_ch (k : Nat) (q : Nat) : (s.dropPage k).ch q = s.ch q := rfl
@[simp] theorem Chip.dropPage_grp (k : Nat) (q : Nat) : (s.dropPage k).grp q = s.grp q := rfl
@[simp] theorem Chip.dropPage_st (k : Nat) (q : Nat) : (s.dropPage k).st q = s.st q := rfl
@[simp] theorem Chip.dropPage_ring (k : Nat) (q : Nat) : (s.dropPage k).ring q = s.ring q := rfl
@[simp] theorem Chip.dropPage_slice (k : Nat) (q : Nat) : (s.dropPage k).slice q = s.slice q := rfl
@[simp] theorem Chip.dropPage_hrd (k : Nat) (q : Nat) : (s.dropPage k).hrd q = s.hrd q := rfl
@[simp] theorem Chip.dropPage_sus (k : Nat) (q : Nat) : (s.dropPage k).sus q = s.sus q := rfl

/-! ### renew -/

@[simp] theorem Chip.renew_fresh (g : Nat) : (s.renew g).fresh = s.fresh := rfl
@[simp] theorem Chip.renew_ans (g : Nat) : (s.renew g).ans = s.ans := rfl
@[simp] theorem Chip.renew_od (g : Nat) : (s.renew g).od = s.od := rfl
@[simp] theorem Chip.renew_dom (g : Nat) : (s.renew g).dom = s.dom := rfl
@[simp] theorem Chip.renew_mode (g : Nat) : (s.renew g).mode = s.mode := rfl
@[simp] theorem Chip.renew_trans (g : Nat) : (s.renew g).trans = s.trans := rfl
@[simp] theorem Chip.renew_readyTick (g : Nat) : (s.renew g).readyTick = s.readyTick := rfl
@[simp] theorem Chip.renew_actReq (g : Nat) : (s.renew g).actReq = s.actReq := rfl
@[simp] theorem Chip.renew_actAns (g : Nat) : (s.renew g).actAns = s.actAns := rfl
@[simp] theorem Chip.renew_clk (g : Nat) : (s.renew g).clk = s.clk := rfl
@[simp] theorem Chip.renew_up (g : Nat) : (s.renew g).up = s.up := rfl
@[simp] theorem Chip.renew_link (g : Nat) : (s.renew g).link = s.link := rfl
@[simp] theorem Chip.renew_trip (g : Nat) : (s.renew g).trip = s.trip := rfl
@[simp] theorem Chip.renew_chan (g : Nat) : (s.renew g).chan = s.chan := rfl
@[simp] theorem Chip.renew_group (g : Nat) : (s.renew g).group = s.group := rfl
@[simp] theorem Chip.renew_adopt (g : Nat) : (s.renew g).adopt = s.adopt := rfl
@[simp] theorem Chip.renew_strs (g : Nat) : (s.renew g).strs = s.strs := rfl
@[simp] theorem Chip.renew_swi (g : Nat) : (s.renew g).swi = s.swi := rfl
@[simp] theorem Chip.renew_nextClaim (g : Nat) : (s.renew g).nextClaim = s.nextClaim := rfl
@[simp] theorem Chip.renew_port (g : Nat) : (s.renew g).port = s.port := rfl
@[simp] theorem Chip.renew_slices (g : Nat) : (s.renew g).slices = s.slices := rfl
@[simp] theorem Chip.renew_rings (g : Nat) : (s.renew g).rings = s.rings := rfl
@[simp] theorem Chip.renew_herd (g : Nat) : (s.renew g).herd = s.herd := rfl
@[simp] theorem Chip.renew_sched (g : Nat) : (s.renew g).sched = s.sched := rfl
@[simp] theorem Chip.renew_front (g : Nat) : (s.renew g).front = s.front := rfl
@[simp] theorem Chip.renew_slotData (g : Nat) : (s.renew g).slotData = s.slotData := rfl
@[simp] theorem Chip.renew_slotPub (g : Nat) : (s.renew g).slotPub = s.slotPub := rfl
@[simp] theorem Chip.renew_slotOld (g : Nat) : (s.renew g).slotOld = s.slotOld := rfl
@[simp] theorem Chip.renew_burstData (g : Nat) : (s.renew g).burstData = s.burstData := rfl
@[simp] theorem Chip.renew_duty (g : Nat) : (s.renew g).duty = s.duty := rfl
@[simp] theorem Chip.renew_suspects (g : Nat) : (s.renew g).suspects = s.suspects := rfl
@[simp] theorem Chip.renew_settling (g : Nat) : (s.renew g).settling = s.settling := rfl
@[simp] theorem Chip.renew_acting (g : Nat) : (s.renew g).acting = s.acting := rfl
@[simp] theorem Chip.renew_prot (g : Nat) : (s.renew g).prot = s.prot := rfl
@[simp] theorem Chip.renew_protOld (g : Nat) : (s.renew g).protOld = s.protOld := rfl
@[simp] theorem Chip.renew_tHist (g : Nat) : (s.renew g).tHist = s.tHist := rfl
@[simp] theorem Chip.renew_fast (g : Nat) : (s.renew g).fast = s.fast := rfl
@[simp] theorem Chip.renew_fastOld (g : Nat) : (s.renew g).fastOld = s.fastOld := rfl
@[simp] theorem Chip.renew_elemOld (g : Nat) : (s.renew g).elemOld = s.elemOld := rfl
@[simp] theorem Chip.renew_pub (g : Nat) : (s.renew g).pub = s.pub := rfl
@[simp] theorem Chip.renew_pubOld (g : Nat) : (s.renew g).pubOld = s.pubOld := rfl
@[simp] theorem Chip.renew_limOld (g : Nat) : (s.renew g).limOld = s.limOld := rfl
@[simp] theorem Chip.renew_flagsOld (g : Nat) : (s.renew g).flagsOld = s.flagsOld := rfl
@[simp] theorem Chip.renew_elem (g : Nat) : (s.renew g).elem = s.elem := rfl
@[simp] theorem Chip.renew_estr (g : Nat) : (s.renew g).estr = s.estr := rfl
@[simp] theorem Chip.renew_pager (g : Nat) : (s.renew g).pager = s.pager := rfl
@[simp] theorem Chip.renew_tines (g : Nat) : (s.renew g).tines = s.tines := rfl
@[simp] theorem Chip.renew_images (g : Nat) : (s.renew g).images = s.images := rfl
@[simp] theorem Chip.renew_kernels (g : Nat) : (s.renew g).kernels = s.kernels := rfl
@[simp] theorem Chip.renew_cans (g : Nat) : (s.renew g).cans = s.cans := rfl
@[simp] theorem Chip.renew_release (g : Nat) : (s.renew g).release = s.release := rfl
@[simp] theorem Chip.renew_profPend (g : Nat) : (s.renew g).profPend = s.profPend := rfl
@[simp] theorem Chip.renew_profPendDom (g : Nat) : (s.renew g).profPendDom = s.profPendDom := rfl
@[simp] theorem Chip.renew_newQ (g : Nat) : (s.renew g).newQ = s.newQ := rfl
@[simp] theorem Chip.renew_power (g : Nat) : (s.renew g).power = s.power := rfl
@[simp] theorem Chip.renew_lock (g : Nat) : (s.renew g).lock = s.lock := rfl
@[simp] theorem Chip.renew_regions (g : Nat) : (s.renew g).regions = s.regions := rfl
@[simp] theorem Chip.renew_arbLast (g : Nat) : (s.renew g).arbLast = s.arbLast := rfl
@[simp] theorem Chip.renew_bleats (g : Nat) : (s.renew g).bleats = s.bleats := rfl
@[simp] theorem Chip.renew_pulses (g : Nat) : (s.renew g).pulses = s.pulses := rfl
@[simp] theorem Chip.renew_gens (g : Nat) : (s.renew g).gens = s.gens := rfl
@[simp] theorem Chip.renew_reload (g : Nat) : (s.renew g).reload = s.reload := rfl
@[simp] theorem Chip.renew_time (g : Nat) : (s.renew g).time = s.time := rfl
@[simp] theorem Chip.renew_sessions (g : Nat) : (s.renew g).sessions = s.sessions := rfl
@[simp] theorem Chip.renew_parents (g : Nat) : (s.renew g).parents = s.parents := rfl
@[simp] theorem Chip.renew_children (g : Nat) : (s.renew g).children = s.children := rfl
@[simp] theorem Chip.renew_usdo (g : Nat) : (s.renew g).usdo = s.usdo := rfl
@[simp] theorem Chip.renew_rd (g : Nat) (i' j' : Nat) : (s.renew g).rd i' j' = s.rd i' j' := rfl
@[simp] theorem Chip.renew_rdBit (g : Nat) (i' j' b' : Nat) : (s.renew g).rdBit i' j' b' = s.rdBit i' j' b' := rfl
@[simp] theorem Chip.renew_rdDom (g : Nat) (i' j' : Nat) : (s.renew g).rdDom i' j' = s.rdDom i' j' := rfl
@[simp] theorem Chip.renew_ch (g : Nat) (q : Nat) : (s.renew g).ch q = s.ch q := rfl
@[simp] theorem Chip.renew_grp (g : Nat) (q : Nat) : (s.renew g).grp q = s.grp q := rfl
@[simp] theorem Chip.renew_st (g : Nat) (q : Nat) : (s.renew g).st q = s.st q := rfl
@[simp] theorem Chip.renew_ring (g : Nat) (q : Nat) : (s.renew g).ring q = s.ring q := rfl
@[simp] theorem Chip.renew_slice (g : Nat) (q : Nat) : (s.renew g).slice q = s.slice q := rfl
@[simp] theorem Chip.renew_hrd (g : Nat) (q : Nat) : (s.renew g).hrd q = s.hrd q := rfl
@[simp] theorem Chip.renew_sus (g : Nat) (q : Nat) : (s.renew g).sus q = s.sus q := rfl

/-! ### atPhase -/

@[simp] theorem Chip.atPhase_fresh (pc : Nat) : (s.atPhase pc).fresh = s.fresh := rfl
@[simp] theorem Chip.atPhase_ans (pc : Nat) : (s.atPhase pc).ans = s.ans := rfl
@[simp] theorem Chip.atPhase_od (pc : Nat) : (s.atPhase pc).od = s.od := rfl
@[simp] theorem Chip.atPhase_dom (pc : Nat) : (s.atPhase pc).dom = s.dom := rfl
@[simp] theorem Chip.atPhase_mode (pc : Nat) : (s.atPhase pc).mode = s.mode := rfl
@[simp] theorem Chip.atPhase_trans (pc : Nat) : (s.atPhase pc).trans = s.trans := rfl
@[simp] theorem Chip.atPhase_readyTick (pc : Nat) : (s.atPhase pc).readyTick = s.readyTick := rfl
@[simp] theorem Chip.atPhase_actReq (pc : Nat) : (s.atPhase pc).actReq = s.actReq := rfl
@[simp] theorem Chip.atPhase_actAns (pc : Nat) : (s.atPhase pc).actAns = s.actAns := rfl
@[simp] theorem Chip.atPhase_up (pc : Nat) : (s.atPhase pc).up = s.up := rfl
@[simp] theorem Chip.atPhase_link (pc : Nat) : (s.atPhase pc).link = s.link := rfl
@[simp] theorem Chip.atPhase_trip (pc : Nat) : (s.atPhase pc).trip = s.trip := rfl
@[simp] theorem Chip.atPhase_chan (pc : Nat) : (s.atPhase pc).chan = s.chan := rfl
@[simp] theorem Chip.atPhase_group (pc : Nat) : (s.atPhase pc).group = s.group := rfl
@[simp] theorem Chip.atPhase_adopt (pc : Nat) : (s.atPhase pc).adopt = s.adopt := rfl
@[simp] theorem Chip.atPhase_strs (pc : Nat) : (s.atPhase pc).strs = s.strs := rfl
@[simp] theorem Chip.atPhase_swi (pc : Nat) : (s.atPhase pc).swi = s.swi := rfl
@[simp] theorem Chip.atPhase_claims (pc : Nat) : (s.atPhase pc).claims = s.claims := rfl
@[simp] theorem Chip.atPhase_nextClaim (pc : Nat) : (s.atPhase pc).nextClaim = s.nextClaim := rfl
@[simp] theorem Chip.atPhase_port (pc : Nat) : (s.atPhase pc).port = s.port := rfl
@[simp] theorem Chip.atPhase_slices (pc : Nat) : (s.atPhase pc).slices = s.slices := rfl
@[simp] theorem Chip.atPhase_rings (pc : Nat) : (s.atPhase pc).rings = s.rings := rfl
@[simp] theorem Chip.atPhase_herd (pc : Nat) : (s.atPhase pc).herd = s.herd := rfl
@[simp] theorem Chip.atPhase_sched (pc : Nat) : (s.atPhase pc).sched = s.sched := rfl
@[simp] theorem Chip.atPhase_front (pc : Nat) : (s.atPhase pc).front = s.front := rfl
@[simp] theorem Chip.atPhase_slotData (pc : Nat) : (s.atPhase pc).slotData = s.slotData := rfl
@[simp] theorem Chip.atPhase_slotPub (pc : Nat) : (s.atPhase pc).slotPub = s.slotPub := rfl
@[simp] theorem Chip.atPhase_slotOld (pc : Nat) : (s.atPhase pc).slotOld = s.slotOld := rfl
@[simp] theorem Chip.atPhase_burstData (pc : Nat) : (s.atPhase pc).burstData = s.burstData := rfl
@[simp] theorem Chip.atPhase_duty (pc : Nat) : (s.atPhase pc).duty = s.duty := rfl
@[simp] theorem Chip.atPhase_suspects (pc : Nat) : (s.atPhase pc).suspects = s.suspects := rfl
@[simp] theorem Chip.atPhase_settling (pc : Nat) : (s.atPhase pc).settling = s.settling := rfl
@[simp] theorem Chip.atPhase_acting (pc : Nat) : (s.atPhase pc).acting = s.acting := rfl
@[simp] theorem Chip.atPhase_prot (pc : Nat) : (s.atPhase pc).prot = s.prot := rfl
@[simp] theorem Chip.atPhase_protOld (pc : Nat) : (s.atPhase pc).protOld = s.protOld := rfl
@[simp] theorem Chip.atPhase_tHist (pc : Nat) : (s.atPhase pc).tHist = s.tHist := rfl
@[simp] theorem Chip.atPhase_fast (pc : Nat) : (s.atPhase pc).fast = s.fast := rfl
@[simp] theorem Chip.atPhase_fastOld (pc : Nat) : (s.atPhase pc).fastOld = s.fastOld := rfl
@[simp] theorem Chip.atPhase_elemOld (pc : Nat) : (s.atPhase pc).elemOld = s.elemOld := rfl
@[simp] theorem Chip.atPhase_pub (pc : Nat) : (s.atPhase pc).pub = s.pub := rfl
@[simp] theorem Chip.atPhase_pubOld (pc : Nat) : (s.atPhase pc).pubOld = s.pubOld := rfl
@[simp] theorem Chip.atPhase_limOld (pc : Nat) : (s.atPhase pc).limOld = s.limOld := rfl
@[simp] theorem Chip.atPhase_flagsOld (pc : Nat) : (s.atPhase pc).flagsOld = s.flagsOld := rfl
@[simp] theorem Chip.atPhase_elem (pc : Nat) : (s.atPhase pc).elem = s.elem := rfl
@[simp] theorem Chip.atPhase_estr (pc : Nat) : (s.atPhase pc).estr = s.estr := rfl
@[simp] theorem Chip.atPhase_pager (pc : Nat) : (s.atPhase pc).pager = s.pager := rfl
@[simp] theorem Chip.atPhase_tines (pc : Nat) : (s.atPhase pc).tines = s.tines := rfl
@[simp] theorem Chip.atPhase_images (pc : Nat) : (s.atPhase pc).images = s.images := rfl
@[simp] theorem Chip.atPhase_kernels (pc : Nat) : (s.atPhase pc).kernels = s.kernels := rfl
@[simp] theorem Chip.atPhase_cans (pc : Nat) : (s.atPhase pc).cans = s.cans := rfl
@[simp] theorem Chip.atPhase_release (pc : Nat) : (s.atPhase pc).release = s.release := rfl
@[simp] theorem Chip.atPhase_profPend (pc : Nat) : (s.atPhase pc).profPend = s.profPend := rfl
@[simp] theorem Chip.atPhase_profPendDom (pc : Nat) : (s.atPhase pc).profPendDom = s.profPendDom := rfl
@[simp] theorem Chip.atPhase_newQ (pc : Nat) : (s.atPhase pc).newQ = s.newQ := rfl
@[simp] theorem Chip.atPhase_power (pc : Nat) : (s.atPhase pc).power = s.power := rfl
@[simp] theorem Chip.atPhase_lock (pc : Nat) : (s.atPhase pc).lock = s.lock := rfl
@[simp] theorem Chip.atPhase_regions (pc : Nat) : (s.atPhase pc).regions = s.regions := rfl
@[simp] theorem Chip.atPhase_arbLast (pc : Nat) : (s.atPhase pc).arbLast = s.arbLast := rfl
@[simp] theorem Chip.atPhase_bleats (pc : Nat) : (s.atPhase pc).bleats = s.bleats := rfl
@[simp] theorem Chip.atPhase_pulses (pc : Nat) : (s.atPhase pc).pulses = s.pulses := rfl
@[simp] theorem Chip.atPhase_gens (pc : Nat) : (s.atPhase pc).gens = s.gens := rfl
@[simp] theorem Chip.atPhase_reload (pc : Nat) : (s.atPhase pc).reload = s.reload := rfl
@[simp] theorem Chip.atPhase_time (pc : Nat) : (s.atPhase pc).time = s.time := rfl
@[simp] theorem Chip.atPhase_sessions (pc : Nat) : (s.atPhase pc).sessions = s.sessions := rfl
@[simp] theorem Chip.atPhase_parents (pc : Nat) : (s.atPhase pc).parents = s.parents := rfl
@[simp] theorem Chip.atPhase_children (pc : Nat) : (s.atPhase pc).children = s.children := rfl
@[simp] theorem Chip.atPhase_usdo (pc : Nat) : (s.atPhase pc).usdo = s.usdo := rfl
@[simp] theorem Chip.atPhase_rd (pc : Nat) (i' j' : Nat) : (s.atPhase pc).rd i' j' = s.rd i' j' := rfl
@[simp] theorem Chip.atPhase_rdBit (pc : Nat) (i' j' b' : Nat) : (s.atPhase pc).rdBit i' j' b' = s.rdBit i' j' b' := rfl
@[simp] theorem Chip.atPhase_rdDom (pc : Nat) (i' j' : Nat) : (s.atPhase pc).rdDom i' j' = s.rdDom i' j' := rfl
@[simp] theorem Chip.atPhase_ch (pc : Nat) (q : Nat) : (s.atPhase pc).ch q = s.ch q := rfl
@[simp] theorem Chip.atPhase_grp (pc : Nat) (q : Nat) : (s.atPhase pc).grp q = s.grp q := rfl
@[simp] theorem Chip.atPhase_st (pc : Nat) (q : Nat) : (s.atPhase pc).st q = s.st q := rfl
@[simp] theorem Chip.atPhase_ring (pc : Nat) (q : Nat) : (s.atPhase pc).ring q = s.ring q := rfl
@[simp] theorem Chip.atPhase_slice (pc : Nat) (q : Nat) : (s.atPhase pc).slice q = s.slice q := rfl
@[simp] theorem Chip.atPhase_hrd (pc : Nat) (q : Nat) : (s.atPhase pc).hrd q = s.hrd q := rfl
@[simp] theorem Chip.atPhase_sus (pc : Nat) (q : Nat) : (s.atPhase pc).sus q = s.sus q := rfl

/-! ### noteChange -/

@[simp] theorem Chip.noteChange_fresh (k : Nat) (x : ChState) : (s.noteChange k x).fresh = s.fresh := by unfold Chip.noteChange; split <;> rfl
@[simp] theorem Chip.noteChange_ans (k : Nat) (x : ChState) : (s.noteChange k x).ans = s.ans := by unfold Chip.noteChange; split <;> rfl
@[simp] theorem Chip.noteChange_od (k : Nat) (x : ChState) : (s.noteChange k x).od = s.od := by unfold Chip.noteChange; split <;> rfl
@[simp] theorem Chip.noteChange_dom (k : Nat) (x : ChState) : (s.noteChange k x).dom = s.dom := by unfold Chip.noteChange; split <;> rfl
@[simp] theorem Chip.noteChange_mode (k : Nat) (x : ChState) : (s.noteChange k x).mode = s.mode := by unfold Chip.noteChange; split <;> rfl
@[simp] theorem Chip.noteChange_trans (k : Nat) (x : ChState) : (s.noteChange k x).trans = s.trans := by unfold Chip.noteChange; split <;> rfl
@[simp] theorem Chip.noteChange_readyTick (k : Nat) (x : ChState) : (s.noteChange k x).readyTick = s.readyTick := by unfold Chip.noteChange; split <;> rfl
@[simp] theorem Chip.noteChange_actReq (k : Nat) (x : ChState) : (s.noteChange k x).actReq = s.actReq := by unfold Chip.noteChange; split <;> rfl
@[simp] theorem Chip.noteChange_actAns (k : Nat) (x : ChState) : (s.noteChange k x).actAns = s.actAns := by unfold Chip.noteChange; split <;> rfl
@[simp] theorem Chip.noteChange_clk (k : Nat) (x : ChState) : (s.noteChange k x).clk = s.clk := by unfold Chip.noteChange; split <;> rfl
@[simp] theorem Chip.noteChange_up (k : Nat) (x : ChState) : (s.noteChange k x).up = s.up := by unfold Chip.noteChange; split <;> rfl
@[simp] theorem Chip.noteChange_link (k : Nat) (x : ChState) : (s.noteChange k x).link = s.link := by unfold Chip.noteChange; split <;> rfl
@[simp] theorem Chip.noteChange_trip (k : Nat) (x : ChState) : (s.noteChange k x).trip = s.trip := by unfold Chip.noteChange; split <;> rfl
@[simp] theorem Chip.noteChange_chan (k : Nat) (x : ChState) : (s.noteChange k x).chan = s.chan := by unfold Chip.noteChange; split <;> rfl
@[simp] theorem Chip.noteChange_group (k : Nat) (x : ChState) : (s.noteChange k x).group = s.group := by unfold Chip.noteChange; split <;> rfl
@[simp] theorem Chip.noteChange_strs (k : Nat) (x : ChState) : (s.noteChange k x).strs = s.strs := by unfold Chip.noteChange; split <;> rfl
@[simp] theorem Chip.noteChange_swi (k : Nat) (x : ChState) : (s.noteChange k x).swi = s.swi := by unfold Chip.noteChange; split <;> rfl
@[simp] theorem Chip.noteChange_claims (k : Nat) (x : ChState) : (s.noteChange k x).claims = s.claims := by unfold Chip.noteChange; split <;> rfl
@[simp] theorem Chip.noteChange_nextClaim (k : Nat) (x : ChState) : (s.noteChange k x).nextClaim = s.nextClaim := by unfold Chip.noteChange; split <;> rfl
@[simp] theorem Chip.noteChange_port (k : Nat) (x : ChState) : (s.noteChange k x).port = s.port := by unfold Chip.noteChange; split <;> rfl
@[simp] theorem Chip.noteChange_slices (k : Nat) (x : ChState) : (s.noteChange k x).slices = s.slices := by unfold Chip.noteChange; split <;> rfl
@[simp] theorem Chip.noteChange_rings (k : Nat) (x : ChState) : (s.noteChange k x).rings = s.rings := by unfold Chip.noteChange; split <;> rfl
@[simp] theorem Chip.noteChange_herd (k : Nat) (x : ChState) : (s.noteChange k x).herd = s.herd := by unfold Chip.noteChange; split <;> rfl
@[simp] theorem Chip.noteChange_sched (k : Nat) (x : ChState) : (s.noteChange k x).sched = s.sched := by unfold Chip.noteChange; split <;> rfl
@[simp] theorem Chip.noteChange_front (k : Nat) (x : ChState) : (s.noteChange k x).front = s.front := by unfold Chip.noteChange; split <;> rfl
@[simp] theorem Chip.noteChange_slotData (k : Nat) (x : ChState) : (s.noteChange k x).slotData = s.slotData := by unfold Chip.noteChange; split <;> rfl
@[simp] theorem Chip.noteChange_slotPub (k : Nat) (x : ChState) : (s.noteChange k x).slotPub = s.slotPub := by unfold Chip.noteChange; split <;> rfl
@[simp] theorem Chip.noteChange_slotOld (k : Nat) (x : ChState) : (s.noteChange k x).slotOld = s.slotOld := by unfold Chip.noteChange; split <;> rfl
@[simp] theorem Chip.noteChange_burstData (k : Nat) (x : ChState) : (s.noteChange k x).burstData = s.burstData := by unfold Chip.noteChange; split <;> rfl
@[simp] theorem Chip.noteChange_duty (k : Nat) (x : ChState) : (s.noteChange k x).duty = s.duty := by unfold Chip.noteChange; split <;> rfl
@[simp] theorem Chip.noteChange_suspects (k : Nat) (x : ChState) : (s.noteChange k x).suspects = s.suspects := by unfold Chip.noteChange; split <;> rfl
@[simp] theorem Chip.noteChange_settling (k : Nat) (x : ChState) : (s.noteChange k x).settling = s.settling := by unfold Chip.noteChange; split <;> rfl
@[simp] theorem Chip.noteChange_acting (k : Nat) (x : ChState) : (s.noteChange k x).acting = s.acting := by unfold Chip.noteChange; split <;> rfl
@[simp] theorem Chip.noteChange_prot (k : Nat) (x : ChState) : (s.noteChange k x).prot = s.prot := by unfold Chip.noteChange; split <;> rfl
@[simp] theorem Chip.noteChange_protOld (k : Nat) (x : ChState) : (s.noteChange k x).protOld = s.protOld := by unfold Chip.noteChange; split <;> rfl
@[simp] theorem Chip.noteChange_tHist (k : Nat) (x : ChState) : (s.noteChange k x).tHist = s.tHist := by unfold Chip.noteChange; split <;> rfl
@[simp] theorem Chip.noteChange_fast (k : Nat) (x : ChState) : (s.noteChange k x).fast = s.fast := by unfold Chip.noteChange; split <;> rfl
@[simp] theorem Chip.noteChange_fastOld (k : Nat) (x : ChState) : (s.noteChange k x).fastOld = s.fastOld := by unfold Chip.noteChange; split <;> rfl
@[simp] theorem Chip.noteChange_elemOld (k : Nat) (x : ChState) : (s.noteChange k x).elemOld = s.elemOld := by unfold Chip.noteChange; split <;> rfl
@[simp] theorem Chip.noteChange_pub (k : Nat) (x : ChState) : (s.noteChange k x).pub = s.pub := by unfold Chip.noteChange; split <;> rfl
@[simp] theorem Chip.noteChange_pubOld (k : Nat) (x : ChState) : (s.noteChange k x).pubOld = s.pubOld := by unfold Chip.noteChange; split <;> rfl
@[simp] theorem Chip.noteChange_limOld (k : Nat) (x : ChState) : (s.noteChange k x).limOld = s.limOld := by unfold Chip.noteChange; split <;> rfl
@[simp] theorem Chip.noteChange_flagsOld (k : Nat) (x : ChState) : (s.noteChange k x).flagsOld = s.flagsOld := by unfold Chip.noteChange; split <;> rfl
@[simp] theorem Chip.noteChange_elem (k : Nat) (x : ChState) : (s.noteChange k x).elem = s.elem := by unfold Chip.noteChange; split <;> rfl
@[simp] theorem Chip.noteChange_estr (k : Nat) (x : ChState) : (s.noteChange k x).estr = s.estr := by unfold Chip.noteChange; split <;> rfl
@[simp] theorem Chip.noteChange_pager (k : Nat) (x : ChState) : (s.noteChange k x).pager = s.pager := by unfold Chip.noteChange; split <;> rfl
@[simp] theorem Chip.noteChange_tines (k : Nat) (x : ChState) : (s.noteChange k x).tines = s.tines := by unfold Chip.noteChange; split <;> rfl
@[simp] theorem Chip.noteChange_images (k : Nat) (x : ChState) : (s.noteChange k x).images = s.images := by unfold Chip.noteChange; split <;> rfl
@[simp] theorem Chip.noteChange_kernels (k : Nat) (x : ChState) : (s.noteChange k x).kernels = s.kernels := by unfold Chip.noteChange; split <;> rfl
@[simp] theorem Chip.noteChange_cans (k : Nat) (x : ChState) : (s.noteChange k x).cans = s.cans := by unfold Chip.noteChange; split <;> rfl
@[simp] theorem Chip.noteChange_release (k : Nat) (x : ChState) : (s.noteChange k x).release = s.release := by unfold Chip.noteChange; split <;> rfl
@[simp] theorem Chip.noteChange_profPend (k : Nat) (x : ChState) : (s.noteChange k x).profPend = s.profPend := by unfold Chip.noteChange; split <;> rfl
@[simp] theorem Chip.noteChange_profPendDom (k : Nat) (x : ChState) : (s.noteChange k x).profPendDom = s.profPendDom := by unfold Chip.noteChange; split <;> rfl
@[simp] theorem Chip.noteChange_newQ (k : Nat) (x : ChState) : (s.noteChange k x).newQ = s.newQ := by unfold Chip.noteChange; split <;> rfl
@[simp] theorem Chip.noteChange_power (k : Nat) (x : ChState) : (s.noteChange k x).power = s.power := by unfold Chip.noteChange; split <;> rfl
@[simp] theorem Chip.noteChange_lock (k : Nat) (x : ChState) : (s.noteChange k x).lock = s.lock := by unfold Chip.noteChange; split <;> rfl
@[simp] theorem Chip.noteChange_regions (k : Nat) (x : ChState) : (s.noteChange k x).regions = s.regions := by unfold Chip.noteChange; split <;> rfl
@[simp] theorem Chip.noteChange_arbLast (k : Nat) (x : ChState) : (s.noteChange k x).arbLast = s.arbLast := by unfold Chip.noteChange; split <;> rfl
@[simp] theorem Chip.noteChange_bleats (k : Nat) (x : ChState) : (s.noteChange k x).bleats = s.bleats := by unfold Chip.noteChange; split <;> rfl
@[simp] theorem Chip.noteChange_pulses (k : Nat) (x : ChState) : (s.noteChange k x).pulses = s.pulses := by unfold Chip.noteChange; split <;> rfl
@[simp] theorem Chip.noteChange_gens (k : Nat) (x : ChState) : (s.noteChange k x).gens = s.gens := by unfold Chip.noteChange; split <;> rfl
@[simp] theorem Chip.noteChange_reload (k : Nat) (x : ChState) : (s.noteChange k x).reload = s.reload := by unfold Chip.noteChange; split <;> rfl
@[simp] theorem Chip.noteChange_time (k : Nat) (x : ChState) : (s.noteChange k x).time = s.time := by unfold Chip.noteChange; split <;> rfl
@[simp] theorem Chip.noteChange_sessions (k : Nat) (x : ChState) : (s.noteChange k x).sessions = s.sessions := by unfold Chip.noteChange; split <;> rfl
@[simp] theorem Chip.noteChange_parents (k : Nat) (x : ChState) : (s.noteChange k x).parents = s.parents := by unfold Chip.noteChange; split <;> rfl
@[simp] theorem Chip.noteChange_children (k : Nat) (x : ChState) : (s.noteChange k x).children = s.children := by unfold Chip.noteChange; split <;> rfl
@[simp] theorem Chip.noteChange_usdo (k : Nat) (x : ChState) : (s.noteChange k x).usdo = s.usdo := by unfold Chip.noteChange; split <;> rfl
@[simp] theorem Chip.noteChange_rd (k : Nat) (x : ChState) (i' j' : Nat) : (s.noteChange k x).rd i' j' = s.rd i' j' := by unfold Chip.noteChange; split <;> rfl
@[simp] theorem Chip.noteChange_rdBit (k : Nat) (x : ChState) (i' j' b' : Nat) : (s.noteChange k x).rdBit i' j' b' = s.rdBit i' j' b' := by unfold Chip.noteChange; split <;> rfl
@[simp] theorem Chip.noteChange_rdDom (k : Nat) (x : ChState) (i' j' : Nat) : (s.noteChange k x).rdDom i' j' = s.rdDom i' j' := by unfold Chip.noteChange; split <;> rfl
@[simp] theorem Chip.noteChange_ch (k : Nat) (x : ChState) (q : Nat) : (s.noteChange k x).ch q = s.ch q := by unfold Chip.noteChange; split <;> rfl
@[simp] theorem Chip.noteChange_grp (k : Nat) (x : ChState) (q : Nat) : (s.noteChange k x).grp q = s.grp q := by unfold Chip.noteChange; split <;> rfl
@[simp] theorem Chip.noteChange_st (k : Nat) (x : ChState) (q : Nat) : (s.noteChange k x).st q = s.st q := by unfold Chip.noteChange; split <;> rfl
@[simp] theorem Chip.noteChange_ring (k : Nat) (x : ChState) (q : Nat) : (s.noteChange k x).ring q = s.ring q := by unfold Chip.noteChange; split <;> rfl
@[simp] theorem Chip.noteChange_slice (k : Nat) (x : ChState) (q : Nat) : (s.noteChange k x).slice q = s.slice q := by unfold Chip.noteChange; split <;> rfl
@[simp] theorem Chip.noteChange_hrd (k : Nat) (x : ChState) (q : Nat) : (s.noteChange k x).hrd q = s.hrd q := by unfold Chip.noteChange; split <;> rfl
@[simp] theorem Chip.noteChange_sus (k : Nat) (x : ChState) (q : Nat) : (s.noteChange k x).sus q = s.sus q := by unfold Chip.noteChange; split <;> rfl

/-! ### saveImage -/

@[simp] theorem Chip.saveImage_fresh : (s.saveImage).fresh = s.fresh := rfl
@[simp] theorem Chip.saveImage_ans : (s.saveImage).ans = s.ans := rfl
@[simp] theorem Chip.saveImage_od : (s.saveImage).od = s.od := rfl
@[simp] theorem Chip.saveImage_dom : (s.saveImage).dom = s.dom := rfl
@[simp] theorem Chip.saveImage_mode : (s.saveImage).mode = s.mode := rfl
@[simp] theorem Chip.saveImage_trans : (s.saveImage).trans = s.trans := rfl
@[simp] theorem Chip.saveImage_readyTick : (s.saveImage).readyTick = s.readyTick := rfl
@[simp] theorem Chip.saveImage_actReq : (s.saveImage).actReq = s.actReq := rfl
@[simp] theorem Chip.saveImage_actAns : (s.saveImage).actAns = s.actAns := rfl
@[simp] theorem Chip.saveImage_clk : (s.saveImage).clk = s.clk := rfl
@[simp] theorem Chip.saveImage_up : (s.saveImage).up = s.up := rfl
@[simp] theorem Chip.saveImage_link : (s.saveImage).link = s.link := rfl
@[simp] theorem Chip.saveImage_trip : (s.saveImage).trip = s.trip := rfl
@[simp] theorem Chip.saveImage_chan : (s.saveImage).chan = s.chan := rfl
@[simp] theorem Chip.saveImage_group : (s.saveImage).group = s.group := rfl
@[simp] theorem Chip.saveImage_strs : (s.saveImage).strs = s.strs := rfl
@[simp] theorem Chip.saveImage_swi : (s.saveImage).swi = s.swi := rfl
@[simp] theorem Chip.saveImage_claims : (s.saveImage).claims = s.claims := rfl
@[simp] theorem Chip.saveImage_nextClaim : (s.saveImage).nextClaim = s.nextClaim := rfl
@[simp] theorem Chip.saveImage_port : (s.saveImage).port = s.port := rfl
@[simp] theorem Chip.saveImage_slices : (s.saveImage).slices = s.slices := rfl
@[simp] theorem Chip.saveImage_rings : (s.saveImage).rings = s.rings := rfl
@[simp] theorem Chip.saveImage_herd : (s.saveImage).herd = s.herd := rfl
@[simp] theorem Chip.saveImage_sched : (s.saveImage).sched = s.sched := rfl
@[simp] theorem Chip.saveImage_front : (s.saveImage).front = s.front := rfl
@[simp] theorem Chip.saveImage_slotData : (s.saveImage).slotData = s.slotData := rfl
@[simp] theorem Chip.saveImage_slotPub : (s.saveImage).slotPub = s.slotPub := rfl
@[simp] theorem Chip.saveImage_slotOld : (s.saveImage).slotOld = s.slotOld := rfl
@[simp] theorem Chip.saveImage_burstData : (s.saveImage).burstData = s.burstData := rfl
@[simp] theorem Chip.saveImage_duty : (s.saveImage).duty = s.duty := rfl
@[simp] theorem Chip.saveImage_suspects : (s.saveImage).suspects = s.suspects := rfl
@[simp] theorem Chip.saveImage_settling : (s.saveImage).settling = s.settling := rfl
@[simp] theorem Chip.saveImage_acting : (s.saveImage).acting = s.acting := rfl
@[simp] theorem Chip.saveImage_prot : (s.saveImage).prot = s.prot := rfl
@[simp] theorem Chip.saveImage_protOld : (s.saveImage).protOld = s.protOld := rfl
@[simp] theorem Chip.saveImage_tHist : (s.saveImage).tHist = s.tHist := rfl
@[simp] theorem Chip.saveImage_fast : (s.saveImage).fast = s.fast := rfl
@[simp] theorem Chip.saveImage_fastOld : (s.saveImage).fastOld = s.fastOld := rfl
@[simp] theorem Chip.saveImage_elemOld : (s.saveImage).elemOld = s.elemOld := rfl
@[simp] theorem Chip.saveImage_pub : (s.saveImage).pub = s.pub := rfl
@[simp] theorem Chip.saveImage_pubOld : (s.saveImage).pubOld = s.pubOld := rfl
@[simp] theorem Chip.saveImage_limOld : (s.saveImage).limOld = s.limOld := rfl
@[simp] theorem Chip.saveImage_flagsOld : (s.saveImage).flagsOld = s.flagsOld := rfl
@[simp] theorem Chip.saveImage_elem : (s.saveImage).elem = s.elem := rfl
@[simp] theorem Chip.saveImage_estr : (s.saveImage).estr = s.estr := rfl
@[simp] theorem Chip.saveImage_pager : (s.saveImage).pager = s.pager := rfl
@[simp] theorem Chip.saveImage_tines : (s.saveImage).tines = s.tines := rfl
@[simp] theorem Chip.saveImage_images : (s.saveImage).images = s.images := rfl
@[simp] theorem Chip.saveImage_kernels : (s.saveImage).kernels = s.kernels := rfl
@[simp] theorem Chip.saveImage_cans : (s.saveImage).cans = s.cans := rfl
@[simp] theorem Chip.saveImage_release : (s.saveImage).release = s.release := rfl
@[simp] theorem Chip.saveImage_profPend : (s.saveImage).profPend = s.profPend := rfl
@[simp] theorem Chip.saveImage_profPendDom : (s.saveImage).profPendDom = s.profPendDom := rfl
@[simp] theorem Chip.saveImage_newQ : (s.saveImage).newQ = s.newQ := rfl
@[simp] theorem Chip.saveImage_power : (s.saveImage).power = s.power := rfl
@[simp] theorem Chip.saveImage_lock : (s.saveImage).lock = s.lock := rfl
@[simp] theorem Chip.saveImage_regions : (s.saveImage).regions = s.regions := rfl
@[simp] theorem Chip.saveImage_arbLast : (s.saveImage).arbLast = s.arbLast := rfl
@[simp] theorem Chip.saveImage_bleats : (s.saveImage).bleats = s.bleats := rfl
@[simp] theorem Chip.saveImage_pulses : (s.saveImage).pulses = s.pulses := rfl
@[simp] theorem Chip.saveImage_gens : (s.saveImage).gens = s.gens := rfl
@[simp] theorem Chip.saveImage_reload : (s.saveImage).reload = s.reload := rfl
@[simp] theorem Chip.saveImage_time : (s.saveImage).time = s.time := rfl
@[simp] theorem Chip.saveImage_sessions : (s.saveImage).sessions = s.sessions := rfl
@[simp] theorem Chip.saveImage_parents : (s.saveImage).parents = s.parents := rfl
@[simp] theorem Chip.saveImage_children : (s.saveImage).children = s.children := rfl
@[simp] theorem Chip.saveImage_usdo : (s.saveImage).usdo = s.usdo := rfl
@[simp] theorem Chip.saveImage_rd (i' j' : Nat) : (s.saveImage).rd i' j' = s.rd i' j' := rfl
@[simp] theorem Chip.saveImage_rdBit (i' j' b' : Nat) : (s.saveImage).rdBit i' j' b' = s.rdBit i' j' b' := rfl
@[simp] theorem Chip.saveImage_rdDom (i' j' : Nat) : (s.saveImage).rdDom i' j' = s.rdDom i' j' := rfl
@[simp] theorem Chip.saveImage_ch (q : Nat) : (s.saveImage).ch q = s.ch q := rfl
@[simp] theorem Chip.saveImage_grp (q : Nat) : (s.saveImage).grp q = s.grp q := rfl
@[simp] theorem Chip.saveImage_st (q : Nat) : (s.saveImage).st q = s.st q := rfl
@[simp] theorem Chip.saveImage_ring (q : Nat) : (s.saveImage).ring q = s.ring q := rfl
@[simp] theorem Chip.saveImage_slice (q : Nat) : (s.saveImage).slice q = s.slice q := rfl
@[simp] theorem Chip.saveImage_hrd (q : Nat) : (s.saveImage).hrd q = s.hrd q := rfl
@[simp] theorem Chip.saveImage_sus (q : Nat) : (s.saveImage).sus q = s.sus q := rfl

/-! ### What is read back -/

@[simp] theorem Chip.rd_wr_same (i j v : Nat) : (s.wr i j v).rd i j = v := Map.read_write_same _ _ _ _

theorem Chip.rd_wr_ne {i j i' j' : Nat} (v : Nat) (h : okey i' j' ≠ okey i j) : (s.wr i j v).rd i' j' = s.rd i' j' := by
  unfold Chip.wr Chip.rd; exact Map.read_write_ne _ _ _ _ h

@[simp] theorem Chip.rd_inc_same (w i j : Nat) : (s.inc w i j).rd i j = (s.rd i j + 1) % 2 ^ w := Chip.rd_wr_same _ _ _ _

theorem Chip.rd_inc_ne {w i j i' j' : Nat} (h : okey i' j' ≠ okey i j) : (s.inc w i j).rd i' j' = s.rd i' j' :=
  Chip.rd_wr_ne s _ h

@[simp] theorem Chip.rd_wrBit_same (i j b : Nat) (v : Bool) : (s.wrBit i j b v).rd i j = putBit (s.rd i j) b v :=
  Chip.rd_wr_same _ _ _ _

theorem Chip.rd_wrBit_ne {i j i' j' : Nat} (b : Nat) (v : Bool) (h : okey i' j' ≠ okey i j) :
    (s.wrBit i j b v).rd i' j' = s.rd i' j' := Chip.rd_wr_ne s _ h

/-- Keys of objects are distinct for distinct objects (subindices are bytes). -/
theorem okey_inj {i j i' j' : Nat} (h : j < 256) (h' : j' < 256) : okey i j = okey i' j' ↔ i = i' ∧ j = j' := by
  unfold okey; omega

@[simp] theorem Chip.rdDom_wrDom_same (i j : Nat) (v : List Byte) : (s.wrDom i j v).rdDom i j = v :=
  Map.read_write_same _ _ _ _

theorem Chip.rdDom_wrDom_ne {i j i' j' : Nat} (v : List Byte) (h : okey i' j' ≠ okey i j) :
    (s.wrDom i j v).rdDom i' j' = s.rdDom i' j' := by
  unfold Chip.wrDom Chip.rdDom; exact Map.read_write_ne _ _ _ _ h

@[simp] theorem Chip.ch_setCh_same (k : Nat) (x : Channel) : (s.setCh k x).ch k = x := Map.read_write_same _ _ _ _
theorem Chip.ch_setCh_ne {k q : Nat} (x : Channel) (h : q ≠ k) : (s.setCh k x).ch q = s.ch q := by
  unfold Chip.setCh Chip.ch; exact Map.read_write_ne _ _ _ _ h
@[simp] theorem Chip.grp_setGrp_same (k : Nat) (x : ChGroup) : (s.setGrp k x).grp k = x := Map.read_write_same _ _ _ _
theorem Chip.grp_setGrp_ne {k q : Nat} (x : ChGroup) (h : q ≠ k) : (s.setGrp k x).grp q = s.grp q := by
  unfold Chip.setGrp Chip.grp; exact Map.read_write_ne _ _ _ _ h
@[simp] theorem Chip.st_setSt_same (k : Nat) (x : Str) : (s.setSt k x).st k = x := Map.read_write_same _ _ _ _
theorem Chip.st_setSt_ne {k q : Nat} (x : Str) (h : q ≠ k) : (s.setSt k x).st q = s.st q := by
  unfold Chip.setSt Chip.st; exact Map.read_write_ne _ _ _ _ h
@[simp] theorem Chip.ring_setRing_same (k : Nat) (x : Ring) : (s.setRing k x).ring k = x := Map.read_write_same _ _ _ _
theorem Chip.ring_setRing_ne {k q : Nat} (x : Ring) (h : q ≠ k) : (s.setRing k x).ring q = s.ring q := by
  unfold Chip.setRing Chip.ring; exact Map.read_write_ne _ _ _ _ h
@[simp] theorem Chip.slice_setSlice_same (k : Nat) (x : Slice) : (s.setSlice k x).slice k = x := Map.read_write_same _ _ _ _
theorem Chip.slice_setSlice_ne {k q : Nat} (x : Slice) (h : q ≠ k) : (s.setSlice k x).slice q = s.slice q := by
  unfold Chip.setSlice Chip.slice; exact Map.read_write_ne _ _ _ _ h
@[simp] theorem Chip.hrd_setHrd_same (k : Nat) (x : Herd) : (s.setHrd k x).hrd k = x := Map.read_write_same _ _ _ _
theorem Chip.hrd_setHrd_ne {k q : Nat} (x : Herd) (h : q ≠ k) : (s.setHrd k x).hrd q = s.hrd q := by
  unfold Chip.setHrd Chip.hrd; exact Map.read_write_ne _ _ _ _ h
@[simp] theorem Chip.sus_setSus_same (k : Nat) (x : Suspect) : (s.setSus k x).sus k = x := Map.read_write_same _ _ _ _
theorem Chip.sus_setSus_ne {k q : Nat} (x : Suspect) (h : q ≠ k) : (s.setSus k x).sus q = s.sus q := by
  unfold Chip.setSus Chip.sus; exact Map.read_write_ne _ _ _ _ h

end Sys2Proof.Machine
end

