-- ==== Sys2Proof/Laws/Tine.lean ====
section
/-!
SUPPORT. Sys2Proof/Laws/Tine.lean: what an instruction does on a Tine that executes, and the registers of a job.
-/

namespace Sys2Proof.Machine

/-! ## Registers -/

@[simp] theorem Job.gr_zero (j : Job) : j.gr 0 = 0 := rfl

theorem Job.gr_setG (j : Job) (d i : Nat) (v : Word) :
    (j.setG d v).gr i = if i = d ∧ i ≠ 0 then v else j.gr i := by
  unfold Job.setG
  by_cases hd : d = 0
  · simp only [hd, if_true]; split <;> simp_all
  · simp only [hd, if_false, Job.gr, Map.read_write]
    by_cases hi : i = 0 <;> by_cases he : i = d <;> simp_all

@[simp] theorem Job.gr_issue (j : Job) (xs : List Nat) (c i : Nat) : (j.issue xs c).gr i = j.gr i := rfl
@[simp] theorem Job.gr_raise (j : Job) (f i : Nat) : (j.raise f).gr i = j.gr i := rfl
@[simp] theorem Job.gr_setCarry (j : Job) (c : Bool) (i : Nat) : (j.setCarry c).gr i = j.gr i := rfl
@[simp] theorem Job.gr_usable (j : Job) (k c n i : Nat) : (j.usable k c n).gr i = j.gr i := by
  unfold Job.usable; split <;> rfl

@[simp] theorem Job.cyc_issue (j : Job) (xs : List Nat) (c : Nat) : (j.issue xs c).cyc = j.stalled xs + c := rfl
@[simp] theorem Job.pc_issue (j : Job) (xs : List Nat) (c : Nat) : (j.issue xs c).pc = (j.pc + 4) % 2 ^ 32 := rfl

/-- A write to a G register touches that file alone. -/
theorem Job.setG_eq (j : Job) (d : Nat) (v : Word) : j.setG d v = { j with g := (j.setG d v).g } := by
  unfold Job.setG; split <;> rfl

theorem Job.usable_eq (j : Job) (k c n : Nat) : j.usable k c n = { j with ready := (j.usable k c n).ready } := by
  unfold Job.usable; split <;> rfl

/-- Results whose latencies are noted touch the file of latencies alone. -/
theorem Job.usableAll_eq (j : Job) (ks : List Nat) (c n : Nat) : j.usableAll ks c n = { j with ready := (j.usableAll ks c n).ready } := by
  induction ks generalizing j with
  | nil => rfl
  | cons k ks ih =>
    show (j.usable k c n).usableAll ks c n = { j with ready := ((j.usable k c n).usableAll ks c n).ready }
    rw [ih (j.usable k c n)]
    rw [Job.usable_eq j k c n]

@[simp] theorem Job.gr_usableAll (j : Job) (ks : List Nat) (c n i : Nat) : (j.usableAll ks c n).gr i = j.gr i := by
  rw [Job.usableAll_eq]; rfl
@[simp] theorem Job.vr_usableAll (j : Job) (ks : List Nat) (c n : Nat) (h : Bool) (i : Nat) : (j.usableAll ks c n).vr h i = j.vr h i := by
  rw [Job.usableAll_eq]; rfl

@[simp] theorem Job.vr_setV (j : Job) (h h' : Bool) (d i : Nat) (v : F32) :
    (j.setV h d v).vr h' i = if h' = h ∧ i = d then v else j.vr h' i := by
  cases h <;> cases h' <;> simp [Job.setV, Job.vr, Map.read_write]

/-! ## Executing -/

@[simp] theorem Chip.tine_setTine_same (s : Chip) (t : TineId) (x : Tine) : (s.setTine t x).tine t = x :=
  Map.read_write_same _ _ _ _

@[simp] theorem Chip.tine_setJob (s : Chip) (t : TineId) (j : Job) : (s.setJob t j).tine t = { s.tine t with job := j } :=
  Chip.tine_setTine_same _ _ _

/-- A Tine that executes has its invocation: arming does nothing. -/
theorem State.arm_executing {s : State} {t : TineId} (h : s.executing t = true) : s.chip.arm t = s.chip := by
  cases t <;> try rfl
  unfold Chip.arm
  have : (s.chip.tine .recorder).run = true := by
    simp only [State.executing, Tine.live, Bool.and_eq_true] at h; exact h.1.1.1.1.1.1
  simp [this]

theorem State.executing_iff {s : State} {t : TineId} : s.executing t = true ↔
    (s.chip.tine t).live = true ∧ (s.chip.tine t).once = false ∧ (s.job t).pc % 4 = 0 ∧ (s.job t).pc < storeSize t := by
  simp [State.executing, State.job, and_assoc]

/-- An instruction that its place provides. -/
theorem Chip.onTine_executing {s : State} {t : TineId} (h : s.executing t = true) (f : Chip → Job → Chip) :
    s.chip.onTine t true f = (f s.chip (s.job t)).stepped t := by
  have ha := State.arm_executing h
  obtain ⟨h1, _, h3, h4⟩ := State.executing_iff.mp h
  simp only [State.job] at h3 h4
  unfold Chip.onTine
  simp only [ha, h1, h3, Nat.not_le.mpr h4]
  simp [State.job]

/-- Nothing is single-stepped. -/
theorem Chip.stepped_of_not_once (s : Chip) (t : TineId) (h : (s.tine t).once = false) : s.stepped t = s := by
  simp [Chip.stepped, h]

/-- An instruction on registers alone replaces the job and nothing else. -/
theorem lift_regOp {s : State} {t : TineId} (h : s.executing t = true) (f : Job → Job) :
    lift (·.regOp t f) s = .next (s.withJob t (f (s.job t))) := by
  unfold lift Chip.regOp
  show Host.Outcome.next { s with chip := s.chip.onTine t true _ } = _
  rw [Chip.onTine_executing h, Chip.stepped_of_not_once]
  · rfl
  · simpa using (State.executing_iff.mp h).2.1

/-- The result of an ALU instruction. -/
theorem lift_alu {s : State} {t : TineId} (h : s.executing t = true) (d : Nat) (srcs : List Nat) (cost n : Nat) (f : Job → Word) :
    lift (·.alu t d srcs cost n f) s =
      .next (s.withJob t ((((s.job t).issue srcs cost).setG d (f (s.job t))).usable d cost n)) :=
  lift_regOp h _

/-- A command of a Tine over the whole state, of an instruction that its place provides. -/
theorem State.onTine_executing {s : State} {t : TineId} (h : s.executing t = true) (f : State → Job → State) :
    s.onTine t true f = { f s (s.job t) with chip := (f s (s.job t)).chip.stepped t } := by
  have ha := State.arm_executing h
  obtain ⟨h1, _, h3, h4⟩ := State.executing_iff.mp h
  simp only [State.job] at h3 h4
  unfold State.onTine
  simp only [ha, h1, h3, Nat.not_le.mpr h4]
  simp [State.job]

end Sys2Proof.Machine
end

