-- ==== Sys2Proof/WellFormed.lean ====
section
/-!
DEFINITION. Sys2Proof/WellFormed.lean: which commands the outside world can send: field widths of ring and CAN frames
and the lengths of the lists that bring readings. exec gives every command its effect, well formed or not.
-/

namespace Sys2Proof

/-- Header fields fit their bits and the payload is at most 12,288 bytes (R93). -/
def Frame.wf (f : Frame) : Bool :=
  f.type < 16 && f.hop < 256 && f.pos < 256 && f.seq < 65536 && f.epoch < 65536 && f.status < 256 &&
  f.payload.length ≤ 12288

/-- Sixteen elements, four temperatures and four thermistors (R172, R304). -/
def SliceReading.wf (x : SliceReading) : Bool :=
  x.volts.length == 16 && x.temps.length == 4 && x.thraw.length == 4

/-- Two shunts, two Hall inputs, eight HV and eight TH inputs, four burst channels, five supplies, four groups and
sixteen outputs (R172, R583). -/
def FrontEnd.wf (x : FrontEnd) : Bool :=
  x.shunt.length == 2 && x.hall.length == 2 && x.hv.length == 8 && x.th.length == 8 && x.bursts.length == 4 &&
  x.supply.length == 5 && x.groupMv.length == 4 && x.groupT.length == 4 && x.outMa.length == 16 &&
  x.outMv.length == 16 && x.segR.length == 16

/-- Identifier of 11 or 29 bits; DLC of 4 bits; the data that the DLC names (R588). -/
def CanFrame.dataLen (f : CanFrame) : Nat :=
  if f.rtr then 0
  else if f.dlc ≤ 8 then f.dlc
  else if f.fdf then [12, 16, 20, 24, 32, 48, 64].getD (f.dlc - 9) 64
  else 8

def CanFrame.wf (f : CanFrame) : Bool :=
  f.ident < (if f.ide then 536870912 else 2048) && f.dlc < 16 && !(f.fdf && f.rtr) && f.data.length == f.dataLen

/-- ENUM descriptor fields fit their bits (R120). -/
def EnumRec.wf (x : EnumRec) : Bool :=
  x.serial < 2 ^ 64 && x.kind < 256 && x.hwRev < 256 && x.fwVer < 65536 && x.connector < 2

/-- At most 64 slices on a ring (R3). -/
def foundWf (xs : List Found) : Bool := xs.length ≤ 64 && xs.all (·.enum.wf)

/-- The command as a whole. -/
def Instr.wf : Instr → Bool
  | .sweep _ _ f | .duty _ _ f | .ringRead _ _ f | .ringWrite _ _ f | .ctrlOpen _ _ f | .ctrlClose _ _ f
  | .clearOpened _ _ f | .unfold _ _ f | .inject _ _ f | .selftest _ _ f | .ctrlReset _ _ f | .balstop _ _ f
  | .enum _ _ f _ | .ringEcho _ _ f | .assign _ _ f | .unsupportedFrame _ _ f | .frameReturn _ _ f _ => f.wf
  | .sample _ _ f _ _ => f.wf
  | .sliceSample _ _ x => x.wf
  | .sliceBurst _ _ _ xs => xs.length == 22
  | .sampleInstant x => x.wf
  | .hvDividerTest xs => xs.length == 8
  | .discoveryComplete _ a b _ _ _ _ => foundWf a && foundWf b
  | .populationScan _ a b => foundWf a && foundWf b
  | .ringRestored _ a => foundWf a
  | .identityCheck _ _ x => x.thraw.length == 4 && x.idpin < 2 ^ 17 && x.tag < 2 ^ 64
  | .canFrameReceived _ f => f.wf
  | .mailboxWrite _ _ _ xs => xs.length ≤ 1024
  | .writeBackComplete _ rows => (rows.map (·.1)).Pairwise (· < ·)
  | .linkDelayEcho _ xs => xs.length == 10
  | .sweramRead _ _ _ xs => xs.length ≤ 1024
  | .sweramWrite _ _ xs => xs.all (fun x => x.val.length ≤ 1024)
  | .segwrite _ _ _ _ xs => xs.length ≤ 1024
  | .subscribe _ _ _ xs => xs.length ≤ 256
  | _ => true

end Sys2Proof
end

