-- ==== Sys2Proof/Tests/Slice0.lean ====
section
/-!
SUPPORT. Sys2Proof/Tests/Slice0.lean: the model's own tests: ill-formed commands are refused by WellFormed, words written out
from the encoding decode as they should, a few steps whose results are worked out from the rules, and for every statement
with hypotheses states that meet them.
-/

namespace Sys2Proof.Tests

set_option Elab.async false

open Sys2Proof Sys2Proof.Machine

/-! ## Helpers -/

/-- The reset state with another chip. -/
def st (c : Chip) : State := { State.reset with chip := c }

/-- A chip with these dictionary values. -/
def withOd (xs : List (Nat × Nat × Nat)) (c : Chip := {}) : Chip := xs.foldl (fun c x => c.wr x.1 x.2.1 x.2.2) c

/-- The chip after a command that leaves the rest of the state. -/
def chipAfter (c : Instr) (s : State) : Chip := match exec c s with | .next t => t.chip | _ => {}

/-- The state after a command. -/
def after (c : Instr) (s : State) : State := match exec c s with | .next t => t | _ => s

def lane0 : TineId := .lane 0 0

/-- Tine `t` runs a job with these G registers. -/
def tineChip (t : TineId) (g : Map Word := []) (kind : Nat := 2) : Chip :=
  { tines := [(tineNo t, { run := true, job := { g := g, kind := kind } })] }

def tineRuns (t : TineId) (g : Map Word := []) (kind : Nat := 2) : State := st (tineChip t g kind)

def frame0 : Frame :=
  { type := 1, up := false, fold := false, resp := false, hop := 0, pos := 0, seq := 0, epoch := 0, status := 0, payload := []
    hcrc := 0, fcrc := 0 }

def reading0 : SliceReading :=
  { volts := List.replicate 16 370000, temps := List.replicate 4 (some 2500), stack := 59200, thraw := List.replicate 4 1000
    current := none, vString := none, vBus := none, fb0 := false, fb1 := false, coilFault0 := false, coilFault1 := false, rxA := 0, rxB := 0 }

def front0 : FrontEnd :=
  { shunt := [0, 0], hall := [0, 0], hv := List.replicate 8 0, th := List.replicate 8 10000, bursts := [[], [], [], []]
    supply := [24000, 24000, 800, 1800, 3300], cdTemp := 4000, pdTemp := 4000, groupMv := List.replicate 4 24000
    groupT := List.replicate 4 3000, outMa := List.replicate 16 0, outMv := List.replicate 16 0, segR := List.replicate 16 0 }

def enum0 (serial : Nat) : EnumRec :=
  { serial := serial, kind := 1, hwRev := 0, fwVer := 0, connector := 0, flags := 0, epochZero := true }

def found0 (serial : Nat) : Found := { enum := enum0 serial, tripsA := [900], tripsB := [900], alarms := 0 }

def ident0 : IdentObs := { answered := true, idpin := 0, thraw := List.replicate 4 1000, tag := 0, cert := [], sig := [] }

def can0 : CanFrame := { ide := false, rtr := false, fdf := false, ident := 0x123, dlc := 2, brs := false, esi := false, data := [1, 2] }

/-! ## WellFormed: for each check a term that it takes and one that it refuses -/

theorem test_wf_frame : (Instr.sweep 0 0 frame0).wf = true ∧ (Instr.sweep 0 0 { frame0 with type := 16 }).wf = false ∧
    (Instr.duty 0 0 { frame0 with hop := 256 }).wf = false ∧ (Instr.assign 0 0 { frame0 with pos := 256 }).wf = false ∧
    (Instr.ringRead 0 0 { frame0 with seq := 65536 }).wf = false ∧ (Instr.ringWrite 0 0 { frame0 with epoch := 65536 }).wf = false ∧
    (Instr.ringEcho 0 0 { frame0 with status := 256 }).wf = false ∧ (Instr.sample 0 0 { frame0 with type := 16 } 0 false).wf = false ∧
    (Instr.sweep 0 0 { frame0 with payload := List.replicate 12289 0 }).wf = false := by decide +kernel

theorem test_wf_readings : (Instr.sliceSample 0 0 reading0).wf = true ∧ (Instr.sliceSample 0 0 { reading0 with volts := [] }).wf = false ∧
    (Instr.sliceSample 0 0 { reading0 with temps := [] }).wf = false ∧ (Instr.sliceSample 0 0 { reading0 with thraw := [] }).wf = false ∧
    (Instr.sliceBurst 0 0 0 (List.replicate 22 0)).wf = true ∧ (Instr.sliceBurst 0 0 0 (List.replicate 21 0)).wf = false ∧
    (Instr.sampleInstant front0).wf = true ∧ (Instr.sampleInstant { front0 with shunt := [0] }).wf = false ∧
    (Instr.sampleInstant { front0 with segR := [] }).wf = false ∧ (Instr.hvDividerTest (List.replicate 8 0)).wf = true ∧
    (Instr.hvDividerTest []).wf = false := by decide

theorem test_wf_found : (Instr.discoveryComplete 0 [found0 1] [] 0 0 0 0).wf = true ∧
    (Instr.discoveryComplete 0 [found0 (2 ^ 64)] [] 0 0 0 0).wf = false ∧
    (Instr.discoveryComplete 0 [] (List.replicate 65 (found0 1)) 0 0 0 0).wf = false ∧
    (Instr.populationScan 0 [found0 1] []).wf = true ∧
    (Instr.populationScan 0 [{ found0 1 with enum := { enum0 1 with connector := 2 } }] []).wf = false ∧
    (Instr.ringRestored 0 [{ found0 1 with enum := { enum0 1 with kind := 256 } }]).wf = false ∧
    (Instr.identityCheck 0 0 ident0).wf = true ∧ (Instr.identityCheck 0 0 { ident0 with idpin := 131072 }).wf = false := by decide

theorem test_wf_can : (Instr.canFrameReceived 0 can0).wf = true ∧ (Instr.canFrameReceived 0 { can0 with ident := 2048 }).wf = false ∧
    (Instr.canFrameReceived 0 { can0 with dlc := 16 }).wf = false ∧ (Instr.canFrameReceived 0 { can0 with data := [] }).wf = false ∧
    (Instr.canFrameReceived 0 { can0 with fdf := true, rtr := true, data := [] }).wf = false := by decide

theorem test_wf_lists : (Instr.linkDelayEcho 0 (List.replicate 10 0)).wf = true ∧ (Instr.linkDelayEcho 0 []).wf = false ∧
    (Instr.mailboxWrite .a 0 0 (List.replicate 1025 0)).wf = false ∧ (Instr.sweramRead 0 0 false (List.replicate 1025 ⟨0, 0⟩)).wf = false ∧
    (Instr.sweramWrite 0 0 [⟨⟨0, 0⟩, List.replicate 1025 0⟩]).wf = false ∧ (Instr.segwrite 0 0 ⟨0, 0⟩ 0 (List.replicate 1025 0)).wf = false ∧
    (Instr.subscribe 0 0 0 (List.replicate 257 ⟨0, 0⟩)).wf = false := by decide +kernel

/-- A claim for command, and one for edit in EDIT, of master A. -/
def cmdClaim (groups : Nat) : Claim := { id := 1, owner := .a, edit := false, groups := groups, run := .run, lease := 5000, left := 5000 }
def editClaim (groups : Nat) : Claim := { cmdClaim groups with edit := true, run := .edit }

/-- String 0 on ring 0 with its head at position 5, whose slot shows this current (mA), string and bus voltage (mV) and
contactor word; closable. -/
def stringChip (i v b : Nat) (contactor : Nat) : Chip :=
  withOd [(0x3200, 1, 0), (0x3200, 2, 5), (0x3200, 3, 1), (0x3107, 1, 2)]
    { mode := .active, trip := { act := [(okey 0x2300 3, 1)] }
      slotData := [(5, { bytes := be 4 i ++ be 4 v ++ be 4 b ++ be 2 contactor ++ zeros 30 })] }

/-! ## Tine instructions -/

/-- R392: one word of each format, its fields written out. -/
theorem test_decode_words :
    tineDecode lane0 0b00000000001000100001100000000000 = some (.add lane0 1 2 3) ∧          -- RR: op 0, d 1, a 2, b 3, func 0
    tineDecode lane0 0b00000011111000000000100000010011 = some (.max lane0 31 0 1) ∧         -- func 0x13
    tineDecode lane0 0b00011100001000100000000001000101 = some (.sari lane0 1 2 5) ∧         -- RI: op 7, imm 2 × 32 + 5
    tineDecode lane0 0b00110100001000101111111111111000 = some (.ldd lane0 1 2 0xFFF8 .clean) ∧ -- op 0x0D
    tineDecode lane0 0b01010000001000100000000000001000 = some (.stv lane0 1 2 8) ∧          -- op 0x14
    tineDecode lane0 0b01100100011001001000000000000000 = some (.bne lane0 3 4 0x8000) ∧     -- B: op 0x19, a 3, b 4
    tineDecode lane0 0b01111000000000000000000000000001 = some (.jal lane0 1) ∧              -- J: op 0x1E
    tineDecode lane0 0b10000011110000000100001100001011 = some (.vdiv lane0 15 0 1 true true) ∧ -- VV: op 0x20, mask 3, func 0x0B
    tineDecode lane0 0b10000100010010000110000000001000 = some (.vcmp lane0 3 1 2) ∧         -- VX: op 0x21, vd 1, va 2, ga 3
    tineDecode lane0 0b11000000010010000110000000000001 = some (.ocvi lane0 1 2 3 true) ∧    -- VX: op 0x30
    tineDecode lane0 0b11011100000000000000000000000011 = some (.wfe lane0 3) ∧              -- op 0x37
    tineDecode lane0 0b11100000001000000000000000000101 = some (.mfs lane0 1 5) ∧            -- op 0x38
    tineDecode lane0 0b01011000000000000000000000000000 = none := by decide                  -- op 0x16

/-- R393: sums wrap, G0 stays 0, and the program counter goes on by a word. -/
theorem test_add_wraps :
    (let c := chipAfter (.add lane0 3 1 2) (tineRuns lane0 [(1, 0xFFFFFFFF), (2, 2)])
     (c.tine lane0).job.gr 3 = 1 ∧ (c.tine lane0).job.pc = 4) ∧
    ((chipAfter (.add lane0 0 1 2) (tineRuns lane0 [(1, 1), (2, 2)])).tine lane0).job.gr 0 = 0 := by decide

/-- R393: shifts take b[4:0], SAR keeps the sign; a divisor of 0. -/
theorem test_shift_and_divide :
    ((chipAfter (.sar lane0 3 1 2) (tineRuns lane0 [(1, 0x80000000), (2, 33)])).tine lane0).job.gr 3 = 0xC0000000 ∧
    ((chipAfter (.divu lane0 3 1 2) (tineRuns lane0 [(1, 7)])).tine lane0).job.gr 3 = 0xFFFFFFFF ∧
    ((chipAfter (.rem lane0 3 1 2) (tineRuns lane0 [(1, 0xFFFFFFF9), (2, 2)])).tine lane0).job.gr 3 = 0xFFFFFFFF := by decide

/-- R390, binary32: 1.5 + 2.25 = 3.75; 1 ÷ 3 rounds to 0x3EAAAAAB; a subnormal result is flushed. -/
theorem test_binary32 : (f32Add 0x3FC00000 0x40100000).val = 0x40700000 ∧ (f32Div 0x3F800000 0x40400000).val = 0x3EAAAAAB ∧
    (f32Mul 0x00800000 0x3F000000).val = 0 := by decide +kernel

/-- R393: a store changes its own bytes, least significant first; a misaligned access ends the job with cause 3. -/
theorem test_store :
    (let s := after (.sth lane0 2 1 0) (tineRuns lane0 [(1, 0x10008000), (2, 0xABCD1234)])
     Memory.byte s.mem (localKey lane0 0x10008000) = 0x34 ∧ Memory.byte s.mem (localKey lane0 0x10008001) = 0x12 ∧
     Memory.byte s.mem (localKey lane0 0x10008002) = 0) ∧
    ((chipAfter (.sth lane0 2 1 1) (tineRuns lane0 [(1, 0x10008000)])).tine lane0).cause % 256 = 3 := by decide

/-- R388: a double error ends the job with cause ECC (4); a corrected one shows in ECCERR, and the word is loaded. -/
theorem test_ecc :
    ((chipAfter (.ldw lane0 2 1 0 .double) (tineRuns lane0 [(1, 0x10008000)])).tine lane0).cause % 256 = 4 ∧
    (let c := chipAfter (.ldw lane0 2 1 0 .corrected) (tineRuns lane0 [(1, 0x10008000)])
     c.rdBit 0x2E00 1 2 = true ∧ (c.tine lane0).job.pc = 4) := by decide +kernel

/-- R94, R95: a sealed frame has both its CRCs right; a bit changed in it is found. -/
theorem test_frame_crc : frame0.seal.hcrcOk = true ∧ frame0.seal.fcrcOk = true ∧ ({ frame0.seal with pos := 1 } : Frame).hcrcOk = false ∧
    ({ frame0.seal with payload := [1] } : Frame).fcrcOk = false := by decide +kernel

/-- The hypotheses of the Tine statements: a lane that executes, an aligned address that it may read and write, one that it may
not, a profile copy, a position of its own, a string head on its ring and on another. -/
theorem witness_tine_runs : (tineRuns lane0).executing lane0 = true ∧ (tineRuns (.ringCtl 3)).executing (.ringCtl 3) = true ∧
    (tineRuns (.can 1)).executing (.can 1) = true ∧ (tineRuns .recorder).executing .recorder = true ∧
    (tineRuns lane0).chip.route lane0 2 0x10008000 false = .mem (localKey lane0 0x10008000) false ∧
    (tineRuns lane0).chip.route lane0 2 0x1000FFF8 true = .mem (localKey lane0 0x1000FFF8) false ∧
    (tineRuns lane0).chip.route lane0 2 0x2002F000 true = .mem (sharedKey 0 0x2F000) true ∧
    (tineRuns lane0).chip.route lane0 2 0x10010000 false = .deny ∧ (tineRuns lane0).chip.route lane0 2 0x10000000 true = .deny := by decide

theorem witness_tine_records :
    (let s := tineRuns lane0 [(1, 0x10000000)]
     s.executing lane0 = true ∧ ((s.job lane0).gr 1).toNat % 4 = 0 ∧ ((s.job lane0).gr 1).toNat + 13824 ≤ 0x10006C00) ∧
    (let s := tineRuns lane0 [(1, 0)]
     s.chip.ownsPos lane0 0 = true ∧ s.chip.sldValue 0 0 0x8000 = some 0x40000000) ∧
    (tineRuns (.ringCtl 0)).chip.route (.ringCtl 0) 0 0x10000000 true = .mem (localKey (.ringCtl 0) 0x10000000) false ∧
    (tineRuns lane0).chip.commitTarget lane0 {} false 0x20000000 = some 0 ∧
    (let g : Page := { st := .dirty, recs := [zeros 1024, zeros 1024, zeros 1024, zeros 1024], grant := true }
     let c : Chip := { pager := { cache := [(0, g)] } }
     c.commitTarget lane0 { kind := 3, pages := [0] } true 0x30000400 = some 1 ∧ c.page? (pageOf 1) = some g ∧ g.usable = true) := by
  decide +kernel

theorem witness_tine_specials :
    (let c := withOd [(0x3200, 1, 0), (0x3200, 2, 5)] (tineChip lane0 [(1, 0)])
     (st c).executing lane0 = true ∧ c.headOf 0 = some (0, 5)) ∧
    (let c := withOd [(0x3200, 1, 3), (0x3200, 2, 0)] (tineChip lane0 [(1, 0)])
     c.headOf (bits 0 12 8) = some (3, 0) ∧ c.swi.step = none) ∧
    (let st : SeqStep := .c1 1
     st.coils 0 = 0) ∧
    ((st { tineChip .recorder with port := [⟨0x1003, 0, [], false⟩] }).executing .recorder = true) ∧
    ((st { tines := [(100, { run := true, wait := some 3 })] }).chip.tine .recorder).wait = some 3 ∧ (3 : Nat) &&& 1 ≠ 0 ∧
    (3 : Nat) &&& 4 = 0 := by decide

theorem witness_tine_jobs : ((tineDecode lane0 0x58000000).map (provided lane0)).getD false = false ∧
    (let j : Job := { kind := 3, lim := 1, cyc := 9 }
     8 * j.lim < j.cyc) ∧
    (let c : Chip := { tines := [(96, { run := true, job := { image := 8, cyc := 1 } })] }
     4 * (c.jobFigure (.can 0) (c.tine (.can 0)).job).2 ≤ (c.tine (.can 0)).job.cyc) ∧
    (let c : Chip := {}
     c.logicalOf 0 0 = some 0 ∧ c.grantRefusal [] = 0 ∧ (c.tine lane0).run = false ∧ (c.tine lane0).stopped = false ∧
     (c.tine lane0).halted = false ∧ c.rd 0x6064 1 = 0 ∧ c.laneEpoch 0 0 = 0 ∧ (1#16).toNat ≠ c.laneEpoch 0 0 ∧
     (c.jobToPlace lane0 0 0 1 0 0 [] none).isSome = true ∧ c.jobToPlace lane0 0 0 2 0 0 [] none = none ∧
     c.mayPlace (c.tine lane0) 1 0 9 = true ∧ c.mayPlace (c.tine lane0) 3 0 9 = true ∧ c.mayPlace { protRan := true } 2 0 9 = true) := by
  decide +kernel

/-! ## Die link, modes, strings, channels and protection -/

theorem witness_die_link :
    (let c : Chip := { link := { failRun := [(2, 16)] }, power := { started := true } }
     c.laneOut 2 = false ∧ Map.read 0 c.link.failRun 2 = 16 ∧ c.up = true ∧ c.inReset = false ∧ c.linkLost = false) ∧
    ({} : Chip).inReset = true ∧
    (let c : Chip := { link := { lostDown := true } }
     c.linkLost = true ∧ c.adopt.status = 0 ∧ c.adopt.waited = false) := by decide

theorem witness_adopt :
    (let c : Chip := {}
     c.up = true ∧ c.linkLost = false ∧ c.adopt.status = 0) ∧
    (let c : Chip := { adopt := { block := some ⟨0, 0, true, 0, true, 0xFF⟩ } }
     c.adopt.block = some ⟨0, 0, true, 0, true, 0xFF⟩ ∧ c.linkLost = false ∧ c.adopt.g = 0 ∧ c.adopt.opensOnly = false) ∧
    (let c : Chip := { adopt := { block := some ⟨0, 0, true, 0, false, 3⟩ } }
     c.adopt.block = some ⟨0, 0, true, 0, false, 3⟩ ∧ c.mode ≠ .shutdown) ∧
    (let c : Chip := { adopt := { g := 1, block := some ⟨0, 0, true, 0, true, 0xFF⟩ } }
     c.adopt.block = some ⟨0, 0, true, 0, true, 0xFF⟩ ∧ 0 ≠ c.adopt.g) := by decide

theorem witness_modes :
    (let c : Chip := { mode := .ready, claims := [cmdClaim 8] }
     c.up = true ∧ c.actionGuard .a 3 = .ok ∧ c.trans = .none ∧ c.actReq = none ∧ c.readyTick ≠ some c.ticks ∧ c.runOf 0 = .run ∧
     c.trip.latched = 0 ∧ ((List.range 32).any c.engaged || c.swi.ramp) = false) ∧
    (let c : Chip := { mode := .ready, claims := [cmdClaim 8], actReq := some 1, swi := { ramp := true } }
     c.actionGuard .a 3 = .ok ∧ c.trans = .none ∧ c.actReq = some 1 ∧ ((List.range 32).any c.engaged || c.swi.ramp) = true) ∧
    (let c : Chip := { mode := .safeHold, claims := [cmdClaim 8] }
     c.actionGuard .a 3 = .ok ∧ c.trans = .none ∧ c.actReq = none) ∧
    (let c : Chip := { adopt := { status := 1 }, power := { started := true } }
     c.mode = .boot ∧ c.power.started = true ∧ c.power.recovery = false ∧ c.adopt.status ≠ 0 ∧ c.adopt.safeHold = false ∧
     ({ c with adopt := { c.adopt with safeHold := true } } : Chip).adopt.status ≠ 0) ∧
    (let c : Chip := { mode := .discover }
     (∀ r, r < 16 → c.configured r = true → (c.ring r).done = true) ∧ c.rd 0x2000 4 ≠ 1) ∧
    ({ claims := [cmdClaim 256] } : Chip).actionGuard .a 8 = .ok := by decide +kernel

theorem witness_strings :
    (let c : Chip := { stringChip 0 0 0 0 with swi := { step := some .mainNeg } }
     c.refusal 0 = 0 ∧ (c.st 0).openTick ≠ some c.ticks ∧ (c.st 0).sw = .open ∧ (c.st 0).weldBoth = false ∧ (c.st 0).emergency = false ∧
     c.swi.step ≠ none) ∧
    ({} : Chip).refusal 0 ≠ 0 ∧
    (let c : Chip := { strs := [(0, { sw := .closed })] }
     (c.st 0).sw = .closed ∧ (c.st 0).weldBoth = false ∧ (c.st 0).emergency = false ∧ c.swi.ramp = false) ∧
    (stringChip 0 0 0 0).headOf 0 = some (0, 5) ∧ (stringChip 0 0 0 0).swi.step = none := by decide +kernel

theorem witness_protection :
    (let c := withOd [(0x2550, 1, 4200), (0x2550, 6, 3)] { stringChip 0 0 0 0 with prot := [(4 * 16384 + 80, 3), (6 * 16384, 2)] }
     c.conditionMet 0 1 4200 = false ∧ c.conditionMet 0 1 4201 = true ∧ Map.read 0 c.acting (4 * 16384 + 80) ≠ 1 ∧
     c.protNeed 0 4 ≤ Map.read 0 c.prot (4 * 16384 + 80) ∧ c.strOf 80 = some 0 ∧ Map.read 0 c.prot (6 * 16384) < c.protNeed 0 6) ∧
    (let c : Chip := { stringChip 0 0 0 0x30 with strs := [(0, { emergency := true })], adopt := { status := 1 } }
     c.adopted = true ∧ (c.st 0).emergency = true ∧ bits (c.contactor 0) 5 4 ≠ 0) ∧
    (let c : Chip := { stringChip 0 0 0 0 with strs := [(0, { emergency := true })] }
     c.headSlot 0 ≠ [] ∧ bits (c.contactor 0) 5 4 = 0 ∧ (c.strI 0).natAbs < c.rd 0x2500 0x14) := by decide +kernel

theorem witness_closing :
    (let c : Chip := { stringChip 0 2000 1000 0 with swi := { step := some (.solo 0 false 2000) } }
     (c.strI 0).natAbs ≤ c.rd 0x2500 0x14 ∧ (2000 : Int).natAbs ≤ 2 * (c.dv 0).natAbs) ∧
    (let c : Chip := { stringChip 2000 2000 1000 0 with swi := { step := some (.solo 0 false 2000) } }
     c.rd 0x2500 0x14 < (c.strI 0).natAbs) ∧
    (let c : Chip := { stringChip 0 0 0 2 with swi := { step := some (.c1 0), first := true } }
     bit (c.contactor 0) 1 = true ∧ c.swi.first = true) ∧
    (let c := withOd [(0x2500, 7, 1000), (0x2500, 8, 1000), (0x2500, 9, 20)] { swi := { step := some (.precharge false) } }
     c.rd 0x2500 7 * c.rd 0x2500 8 * (100 - c.rd 0x2500 9) ≤ 1 * 100000000 ∧
     1 * 100000000 ≤ c.rd 0x2500 7 * c.rd 0x2500 8 * (100 + c.rd 0x2500 9) ∧ c.swi.tries + 1 ≤ c.rd 0x2500 0x0D ∧
     c.rd 0x2500 0x0D < ({ c with swi := { c.swi with tries := 255 } } : Chip).swi.tries + 1 ∧ 16 ≤ c.rd 0x2500 3) ∧
    (let c := withOd [(0x2500, 3, 3)] { swi := { step := some (.precharge false) } }
     c.rd 0x2500 3 < 16 ∧ c.chanOn 3 = false ∧ c.heldOff 3 = false) ∧
    (let c := withOd [(0x2500, 3, 3)] { swi := { step := some (.precharge false) }, trip := { asserted := 1, act := [(okey 0x2302 1, 8)] } }
     c.rd 0x2500 3 < 16 ∧ c.chanOn 3 = false ∧ c.heldOff 3 = true) ∧
    (let c := withOd [(0x2500, 3, 3)] { swi := { step := some .retryPause, running := true } }
     c.noMains = false ∧ (c.chanOn (c.rd 0x2500 3) && c.chanOn (c.rd 0x2500 4) && c.linkNear) = false ∧ c.rd 0x2500 2 ≥ 16 ∧ 16 ≤ c.rd 0x2500 4 ∧
     c.chanOn (c.rd 0x2500 3) = false ∧ c.onRefusal .sequence 3 ≠ 0 ∧ ({ c with adopt := { status := 1 } } : Chip).onRefusal .sequence 3 = 0) := by
  decide +kernel

theorem witness_ramps :
    (let c := withOd [(0x3300, 9, 0)] { swi := { ramp := true, lowTicks := 3 }, strs := [(0, { sw := .ramping, toOpen := true })] }
     c.swi.step = none ∧ 3 ≤ c.swi.lowTicks ∧ c.secCurrent.natAbs ≤ c.rd 0x2500 0x10 ∧ c.swi.rampSection = false ∧ (c.st 0).toOpen = true ∧
     (c.st 0).ordered = false ∧ ∀ n, n < 32 → (c.st n).toOpen = true → (c.strI n).natAbs ≤ c.rd 0x2500 0x10) ∧
    (let c := withOd [(0x2700, 1, 0)] (stringChip 0 0 0 0)
     c.headOf 0 ≠ none ∧ (c.es 0).disAt = none ∧ c.rdBit 0x2920 0x0C 1 = false ∧ c.rd 0x2700 1 = 0) := by decide +kernel

theorem witness_channels :
    (let c : Chip := { adopt := { status := 1 }, chan := [(4, { state := .latched }), (5, { state := .on })] }
     c.onRefusal .a 3 = 0 ∧ c.onRefusal .a 4 ≠ 0 ∧ c.adopt.status ≠ 0 ∧ (c.ch 3).state = .off ∧ c.rd 0x2413 5 = 0 ∧ 3 ∈ c.pair 3 ∧
     (c.ch 5).state.conducts = true) ∧
    (let c := withOd [(0x2410, 5, 1), (0x2411, 5, 1)] { chan := [(0, { state := .idle }), (1, { state := .on, inPin := true })] }
     c.rd 0x2410 5 = 1 ∧ (∀ j ∈ c.pair 0, 0 ≤ j) ∧ c.heldOff 0 = false ∧ (c.ch 0).state = .idle ∧ (∀ j ∈ c.pair 1, 1 ≤ j) ∧
       (c.ch 1).state.conducts = true) := by
  decide +kernel

theorem witness_channel_states :
    (let c : Chip := { chan := [(0, { state := .ramp }), (1, { state := .inrush }), (2, { state := .limit, from_ := .inrush }),
        (3, { state := .on }), (4, { state := .pause, cmd := true })] }
     (c.ch 0).state.conducts = true ∧ (c.ch 0).dipHeld = false ∧ (c.ch 2).state = .limit ∧ (c.ch 4).state = .pause ∧
     (c.grp 1).hot = false ∧ c.rdI 16 0x2405 2 ≤ 13000 ∧ (c.ch 4).wants (c.pinOf 4) (c.rd 0x2414 5) = true) ∧
    (let c : Chip := { group := [(0, { hot := true, dip := true })], chan := [(0, { state := .pause })] }
     (c.ch 0).state = .pause ∧ (c.grp 0).hot = true ∧ (c.grp 0).dip = true) := by decide +kernel

theorem witness_segments :
    (({} : Chip).ch 0).state.offState = true ∧
    (let c : Chip := { chan := [(0, { state := .on, swapWait := true }), (1, { state := .pause, otHeld := true })] }
     (c.ch 0).swapWait = true ∧ (c.ch 0).spare = false ∧ (c.ch 0).state = .on ∧ (c.ch 1).otHeld = true ∧ (c.ch 1).state = .pause) := by
  decide

theorem witness_trips :
    (let c : Chip := { trip := { act := [(okey 0x2300 3, 2)] } }
     bit c.trip.loopMask 1 = true ∧ c.trip.asserted.getLsbD 1 = false ∧ bit c.trip.loopMask 0 = false) ∧
    (let c := withOd [(0x3300, 0x0B, 0)]
     (0 : Nat) < 4 ∧ c.rd 0x3300 (0x0B + 0 / 2) = 0 ∧ (!(c.front.hvTest == c.ticks + 1)) = true) ∧
    (let c : Chip := { front := { hvTest := 1 } }
     c.front.hvTest = c.ticks + 1) ∧
    (let c : Chip := { trip := { asserted := BitVec.twoPow 48 46 ||| BitVec.twoPow 48 47 } }
     c.trip.asserted.getLsbD 46 = true ∧ c.conditionHeld 46 = false) ∧
    ({ claims := [cmdClaim 1], trip := { latched := BitVec.twoPow 48 3 } } : Chip).actionGuard .a 0 = .ok ∧
    ({ adopt := { status := 1 } } : Chip).adopted = true ∧ ({} : Chip).adopted = false := by decide +kernel

/-! ## Slices and ticks -/

/-- A chip with one slice, at ring 0, position 1. -/
def sliceChip (x : Slice) : Chip := { slices := [(1, x)] }

theorem witness_slice_forwarding :
    (let f := { frame0 with type := 6, hop := 3 }.seal
     f.hcrcOk = true ∧ f.fold = false ∧ f.type = 6 ∧ f.resp = false ∧ 1 ≤ f.hop ∧ f.hop < 64 ∧ f.type ≠ 5) ∧
    frame0.hcrcOk = false ∧ ({ frame0 with fold := true }.seal).fold = true := by decide +kernel

theorem witness_slice_control :
    (let f := { frame0 with type := 6, epoch := 7, payload := [5, 16, 0, 0] }.seal
     let y := (sliceChip { epoch := 7 }).slice 1
     f.type = 6 ∧ f.hcrcOk = true ∧ f.fold = false ∧ f.resp = false ∧ f.epoch = y.epoch ∧ f.payload.length = 4 ∧
     beAt f.payload 0 1 = 5 ∧ beAt f.payload 1 1 ≤ 16 ∧ y.kh2 = false ∧ f.hop = 0 ∧
     ({ f with hop := 0xFF }.seal).hcrcOk = true ∧ f.epoch ≠ ({} : Slice).epoch ∧ ({ f with payload := [] }.seal).payload.length ≠ 4 ∧
     y.lockA = true ∧ y.lockB = true ∧ y.peerA = true ∧ y.peerB = true ∧ y.selftest = false) ∧
    (let y := (sliceChip { kh2 := true, epoch := 7 }).slice 1
     y.kh2 = true ∧ y.opened = false ∧ y.loopBrk = false) ∧
    ((sliceChip { kh2 := true, opened := true, lockA := false }).slice 1).opened = true ∧
    beAt [(7 : Byte), 0x5A, 0, 0] 1 1 = 0x5A := by decide +kernel

theorem witness_slice_frames :
    (let y : Slice := { slot := zeros 44 }
     let f := { frame0 with up := y.half, payload := be 8 1 ++ be 1 0 ++ be 1 0xFF ++ be 2 0 ++ zeros 48 }.seal
     f.type = 1 ∧ f.hcrcOk = true ∧ f.fold = false ∧ f.pos < 64 ∧ f.up = y.half ∧ bit (beAt f.payload 0 8) f.pos = true ∧
       y.slot.length = 44 ∧ y.bursts = [] ∧ beAt f.payload 9 1 ≠ f.pos ∧
     12 + 48 * popCount (beAt f.payload 0 8) f.pos + 48 ≤ f.payload.length) ∧
    (let y : Slice := {}
     let f := { frame0 with type := 2, up := y.tsrc, payload := zeros 16 }.seal
     f.type = 2 ∧ f.hcrcOk = true ∧ f.fcrcOk = true ∧ f.up = y.tsrc ∧ y.openRecA = false ∧
     ({ f with fcrc := f.fcrc + 1 } : Frame).hcrcOk = true ∧ ({ f with fcrc := f.fcrc + 1 } : Frame).fcrcOk = false ∧
     y.kh2 = false ∧ y.opened = false ∧ y.half = y.tsrc) ∧
    dutyOf (be 8 1 ++ zeros 16) 0 = some (List.replicate 16 0) ∧
    (let y : Slice := { epoch := 7 }
     let f := { frame0 with type := 4, epoch := 7, payload := [0, 0, 1, 0] }.seal
     f.hcrcOk = true ∧ f.resp = false ∧ f.payload.length = 4 ∧ 1 ≤ beAt f.payload 2 1 ∧ beAt f.payload 2 1 ≤ 16 ∧ f.epoch = y.epoch ∧ f.hop = 0 ∧
     (match y.readRegs 0 1 with | .ok ws => ws.length == 1 | .error _ => false) = true ∧ 8 ≠ y.epoch) ∧
    (let f := { frame0 with type := 5, payload := [0, 0x10, 1, 0, 0, 0, 0, 0] }.seal
     f.hcrcOk = true ∧ 1 ≤ beAt f.payload 2 1 ∧ f.payload.length = 4 + 4 * beAt f.payload 2 1) ∧
    (zeros 1024).length = 1024 ∧ beAt (zeros 24) 0 8 = ({} : Slice).serial.toNat ∧
    ((frame0.seal).payload.length ≠ 4) ∧
    (let f := { frame0 with type := 13 }.seal
     f.hcrcOk = true ∧ f.hop = 0 ∧ f.resp = false ∧ ({} : Slice).supports f.type = false) := by decide +kernel

theorem witness_slice_events :
    (let y := (sliceChip { kh2 := true, close := some 3 }).slice 1
     y.close = some 3 ∧ y.opened = false) ∧
    (let y := (sliceChip { close := some 1, opened := true, selftest := true, selfTicks := 16, dutyAge := 16, lockA := false }).slice 1
     y.close = some 1 ∧ y.opened = true ∧ y.selftest = true ∧ 16 ≤ y.selfTicks ∧ 16 ≤ y.dutyAge ∧ y.kh2 = false ∧ y.lockA = false ∧ y.lockB = true) ∧
    (let y := (sliceChip { eff := [(0x0B, 1)], armA := some ⟨5, 1, []⟩ }).slice 1
     bit (y.effReg 0x0B) 0 = true ∧ y.ovt = 0 ∧ y.uvt = 0) ∧
    (let y := (sliceChip { kh2 := true, c0 := true, eff := [(0x26, 4)] }).slice 1
     y.c0 = true ∧ bits (y.effReg 0x26) 15 0 ≠ 0xFFFF ∧ y.armed = none ∧ y.missed < 16) ∧
    16 ≤ ((sliceChip { missed := 16 }).slice 1).missed ∧ ({} : Chip).declaresBroken 0 1 = false ∧
    ({ slices := [(1, { kh2 := true, c0 := true })], rings := [(0, { short := true })] } : Chip).declaresBroken 0 1 = true ∧
    ({} : Chip).rdBit 0x3000 1 0 = false := by decide +kernel

theorem witness_tags :
    (let y := (sliceChip { tag := { status := 1, op := 1 } }).slice 1
     y.kh2 = false ∧ y.tag.status = 1 ∧ y.tag.op ≠ 2 ∧ y.tag.resp = []) ∧
    ((sliceChip { tag := { status := 3 } }).slice 1).tag.status = 3 ∧ ((sliceChip { kh2 := true }).slice 1).kh2 = true := by decide

theorem witness_ticks :
    (let c : Chip := {}
     c.up = true ∧ 0 < c.clk.p ∧ c.mode ≠ .shutdown ∧ c.power.restart = none ∧ c.kernels = [] ∧ c.clk.newP = none) ∧
    (let c : Chip := { clk := { newP := some 2, told := true } }
     c.clk.newP = some 2 ∧ c.clk.told = true ∧ c.clk.edge % 4000000 = 0) ∧
    (let c : Chip := { time := { pend := some (1, 0) }, clk := { step := some (-5) } }
     c.time.pend = some (1, 0) ∧ c.clk.step = some (-5)) := by decide +kernel

theorem witness_phases :
    (let c : Chip := { sched := { published := false } }
     c.sched.published = false ∧ c.lock.supFault = false ∧ c.rd 0x2100 3 = 0) ∧
    (let c := withOd [(0x2100, 3, 6)] { sched := { calm := 100000, overrun := true } }
     0 < c.rd 0x2100 3 ∧ c.rd 0x2100 3 ≤ 6 ∧ c.rd 0x2100 8 ≤ c.sched.calm ∧ c.sched.overrun = true) ∧
    (let c := withOd [(0x3101, 2, 0x1000)] { sched := { admits := [1] } }
     1 ∈ c.sched.admits ∧ c.herdState 0 1 = 1 ∧ c.rd 0x2100 0x0B ≠ 0) ∧
    (withOd [(0x2100, 0x0B, 0)]).rd 0x2100 0x0B = 0 ∧
    (let c : Chip := { sched := { move := [(2, 65)] } }
     Map.read 0 c.sched.move (0 * 4 + 2) = 64 + 1 ∧ (∀ j, j < 2 → Map.read 0 c.sched.move (0 * 4 + j) = 0) ∧
     Map.read 0 c.sched.takeover 0 = 0) ∧
    (let c : Chip := { sched := { takeover := [(0, 8 * 1 + 2)] } }
     Map.read 0 c.sched.takeover 0 = 8 * 1 + 2 ∧ c.logicalOf 0 2 = some 2 ∧ c.idleSpare 0 = some 4) := by decide +kernel

/-! ## Lockstep, debug and rings -/

theorem witness_pairs :
    (let c : Chip := {}
     c.up = true ∧ c.unchecked (.tine lane0) = false ∧ c.lock.chipOff = false ∧ (TineId.can 0).isLane = false ∧
     (c.tine (.can 0)).retired = false ∧ c.unchecked (.tine (.can 0)) = false ∧ c.mismatchesIn (.tine (.can 0)) 86400 < 2 ∧
     tineNo (.can 0) ∉ c.lock.checker) ∧
    (withOd [(0x6040, 3, 1)]).unchecked (.tine lane0) = true ∧
    (let c : Chip := {}
     c.rd 0x2A20 5 = 1 ∧ c.rd 0x2A20 5 ≠ 0 ∧ c.idleSpare 0 = some 4) ∧
    (let c : Chip := { sched := { phys := [(2, 4)] } }
     c.rd 0x2A20 3 = 0 ∧ c.logicalOf 0 2 = none ∧ c.retireCause (.tine (.lane 0 2)) true = 0 ∧
     c.retireCause (.tine (.lane 0 2)) false ≠ 0) ∧
    (withOd [(0x2A00, 3, 1)]).rd 0x2A00 3 = 1 ∧
    (let c := withOd [(0x2A00, 3, 0)] { lock := { supFault := true } }
     c.lock.supFault = true ∧ c.up = true ∧ c.rd 0x2A00 3 = 0) := by decide +kernel

theorem witness_debug :
    (let c : Chip := {}
     c.rd 0x6050 1 ≠ 6 ∧ c.debugOpen = false ∧ bits (0x01001000 : Word).toNat 23 16 = 0 ∧
     c.targetOk (bits (0x01001000 : Word).toNat 31 24) (bits (0x01001000 : Word).toNat 15 0) = true ∧ c.targetOk 9 0 = false ∧
     (zeros 184).length = 184) ∧
    (let c := withOd [(0x6050, 1, 6)]
     c.rd 0x6050 1 = 6) ∧
    (let c := withOd [(0x6050, 1, 5)]
     c.debugOpen = true ∧ c.reaches lane0 = true ∧ c.rd 0x6050 1 ≠ 6) ∧
    ({} : Chip).reaches lane0 = false ∧
    (let c := withOd [(0x6050, 1, 2)] { lock := { waiting := true, target := 0x1000 } }
     c.lock.waiting = true ∧ targetLane c.lock.target = some (0, 0) ∧ c.logicalOf 0 0 = some 0 ∧ c.idleSpare 0 = some 4) := by
  decide +kernel

/-- Ring 0 in state `st` with `n` slices; those at 0 (a KH2) and 1 (a KS16) admitted. -/
def ringChip (st n : Nat) (x : Ring := {}) : Chip :=
  withOd [(0x3107, 1, st), (0x3107, 2, n), (0x3101, 1, 0x2200), (0x3101, 2, 0x2100), (0x3200, 1, 0), (0x3200, 2, 0)]
    { mode := .ready, rings := [(0, x)] }

def req0 : Req := { type := 4, pos := 1, payload := [0, 0, 1, 0], epoch := 3 }

theorem witness_ring_sends :
    (let c := ringChip 2 2
     c.up = true ∧ c.mode ≠ .shutdown ∧ (c.ring 0).limited = false ∧ c.sweeps 0 = true ∧ (c.ring 0).queue = [] ∧ (c.ring 0).held = [] ∧
     (c.ring 0).stopB = false ∧ bit c.trip.rings 0 = false) ∧
    (let c := ringChip 2 2 { queue := [req0], stopB := true }
     (c.ring 0).queue = [req0] ∧ (c.ring 0).held = [] ∧ c.mayLeave 0 ((19 + req0.payload.length) * 80) = true ∧ req0.isClose = false ∧
     req0.pos < 64 ∧ (c.ring 0).txs.length < 16 ∧ (c.ring 0).nextTag < 65536 ∧ (∀ t ∈ (c.ring 0).txs, req0.wraps = true → t.req.pos ≠ req0.pos) ∧
     (c.ring 0).limited = false ∧ (c.ring 0).stopB = true) ∧
    (let q : Req := { req0 with type := 6, payload := [2, 3, 0, 0] }
     let c : Chip := { ringChip 2 2 { queue := [q] } with adopt := { safeHold := true } }
     (c.ring 0).queue = [q] ∧ c.mayLeave 0 ((19 + q.payload.length) * 80) = true ∧ q.isClose = true ∧ c.adopt.safeHold = true) ∧
    (let g : Ring := { limited := true, queue := [req0] }
     g.limited = true ∧ req0.isOpen = false ∧ req0.late = false ∧ ({ req0 with late := true } : Req).late = true ∧ g.held = []) ∧
    ({ up := false, power := { dropped := true } } : Chip).powered = false ∧ ({} : Chip).powered = true ∧
    (let c : Chip := { trip := { asserted := 1, act := [(okey 0x2300 3, 1)] } }
     bit c.trip.rings 0 = true) := by decide +kernel

/-- A SWEEP that returned with the slot of position 1. -/
def sweep1 : Frame :=
  let b := zeros 44
  { frame0 with type := 1, payload := be 8 2 ++ zeros 4 ++ b ++ be 4 (crc32c (be 2 0 ++ b)).toNat }.seal

/-- A SWEEP that returned with an exchange slot of position 1, the response to a CHAL. -/
def sweepExch : Frame :=
  let b := exchSlot 0x20 0 []
  { frame0 with type := 1, payload := zeros 8 ++ be 1 0 ++ be 1 1 ++ zeros 2 ++ b ++ be 4 (crc32c (be 2 0 ++ b)).toNat }.seal

theorem witness_ring_receives :
    (let c := ringChip 2 2
     let b := (sweep1.payload.drop 12).take 44
     sweep1.hcrcOk = true ∧ sweep1.fcrcOk = true ∧ sweep1.fold = false ∧ beAt sweep1.payload 0 8 = 2 ^ 1 ∧ 1 < c.nOf 0 ∧ c.nOf 0 ≤ 64 ∧
       beAt sweep1.payload 8 1 = 0 ∧ sweep1.payload.length = 60 ∧
     (c.ring 0).recA = [] ∧ (c.ring 0).recB = [] ∧ crc32c (be 2 sweep1.seq ++ b) = BitVec.ofNat 32 (beAt sweep1.payload 56 4) ∧
     countOf (c.nOf 0) sweep1.up 1 = 1 ∧ c.slotMatches 0 1 (slotStatus b) = true ∧ c.herdType 0 1 = 1 ∧ (c.ring 0).got.getLsbD 1 = false ∧
     c.ringState 0 = 2 ∧ (c.ring 0).brk = none) ∧
    (let c := withOd [(0x3102, 2, 5)] (ringChip 2 2 { got := 2 })
     c.slotMatches 0 1 0 = false ∧ (c.ring 0).got.getLsbD 1 = true) ∧
    crc32c (be 2 1 ++ zeros 44) ≠ BitVec.ofNat 32 (beAt sweep1.payload 56 4) ∧
    (let t : Tx := { tag := 9, req := req0, age := 100000 }
     let c := ringChip 2 2 { txs := [t] }
     let f := { frame0 with type := 4, resp := true, seq := 9, status := 1, epoch := 5 }.seal
     f.hcrcOk = true ∧ f.fcrcOk = true ∧ f.epoch ≠ 0 ∧ f.epoch ≠ c.hT 0 2 t.req.pos ∧ c.herdState 0 t.req.pos = 2 ∧ t.req.pos < 64 ∧
     t.req.isClose = false ∧ (c.ring 0).queue = [] ∧ (c.ring 0).held = [] ∧ (c.ring 0).txs = [t] ∧ t.tag = f.seq ∧
       c.hT 0 2 t.req.pos ≠ t.req.epoch ∧ c.hT 0 0 t.req.pos = t.req.serial ∧ t.req.again = false ∧
     c.rd 0x3000 9 ≤ t.age ∧ 0 < c.rd 0x3000 9) ∧
    (let t : Tx := { tag := 9, req := { req0 with again := true }, age := 0 }
     t.req.again = true ∧ (ringChip 2 2 { txs := [t] }).hT 0 0 t.req.pos = t.req.serial) ∧
    (let c := ringChip 2 2
     let f := sweepExch
     let b := (f.payload.drop 12).take 44
     f.hcrcOk = true ∧ f.fcrcOk = true ∧ beAt f.payload 0 8 = 0 ∧ beAt f.payload 8 1 = 0 ∧ beAt f.payload 9 1 = 1 ∧ f.payload.length = 60 ∧
     crc32c (be 2 f.seq ++ b) = BitVec.ofNat 32 (beAt f.payload 56 4) ∧
     b ≠ exchSlot ((c.ring 0).exchOf (countOf (c.nOf 0) f.up 1)).asked 0 [] ∧ bit (beAt b 2 1) 7 = false ∧ beAt b 3 1 ≤ 40) ∧
    (let f := { frame0 with type := 3, fold := true }.seal
     f.hcrcOk = true ∧ f.fcrcOk = true ∧ f.type = 3 ∧ f.up = false ∧ f.resp = false ∧ ((ringChip 2 2).ring 0).brkSeen = false) := by decide +kernel

theorem witness_discovery :
    (let c := withOd [(0x3200, 1, 0)] { claims := [cmdClaim 4], rings := [(0, { disc := true })] }
     c.actionGuard .a 2 = .ok ∧ c.configured 0 = true ∧ (c.ring 0).disc = true ∧ (c.ring 0).unfit = false ∧ c.rd 0x6064 1 ≠ 2 ∧
     (withOd [(0x6064, 1, 2)] c).rd 0x6064 1 = 2) ∧
    (({ rings := [(0, { disc := true, unfit := true })] } : Chip).ring 0).unfit = true ∧ (found0 7).tripsA ≠ [] ∧
    ({} : Chip).actionGuard .a 2 ≠ .ok ∧ (({} : Chip).ring 0).disc = false ∧
    (let c : Chip := { rings := [(0, { disc := true })] }
     let fa := [{ found0 7 with enum := { enum0 7 with kind := 2 } }, found0 8]
     let fb := fa.reverse
     let ea := fa.map Found.enum
     let eb := fb.map Found.enum
     c.pickPortx 0 ea eb = false ∧ (∀ e ∈ ea ++ eb, bit e.flags 1 = false) ∧
     ea.map EnumRec.serial = (eb.map EnumRec.serial).reverse ∧ (∀ p ∈ kh2At ea, p = 0 ∨ p = 32) ∧ fa.length ≤ 64 ∧
     c.rd 0x3107 3 = 0 ∧ ea.map EnumRec.serial ≠ ((fa.map Found.enum).map EnumRec.serial).reverse) := by decide +kernel

theorem witness_population :
    (let c := ringChip 2 2
     c.sweeps 0 = true ∧ c.nOf 0 < [found0 1, found0 2, found0 3].length ∧ 0 < c.nOf 0 ∧ c.hT 0 0 0 ≠ (enum0 1).serial ∧ c.herdType 0 0 = 2 ∧
     c.hT 0 0 0 = (enum0 0).serial ∧ (enum0 0).epochZero = true ∧ c.herdState 0 0 = 2 ∧ c.hasPath 0 0 = true ∧ (c.ring 0).reenum = 0 ∧
     ({ enum0 1 with kind := 2 } : EnumRec).kind = 2 ∧ (c.cutOff 0).filter (fun q => bit (c.ring 0).cut2 q) = [] ∧
     Map.read 0 (c.ring 0).missing 0 < c.rd 0x3107 0x0D) ∧
    (ringChip 1 2).sweeps 0 = false ∧ (withOd [(0x3101, 1, 0x2100)] (ringChip 2 2)).herdType 0 0 = 1 ∧
    (let c := ringChip 2 2 { missing := [(1, 100000)] }
     c.hasPath 0 1 = true ∧ c.rd 0x3107 0x0D ≤ Map.read 0 (c.ring 0).missing 1) ∧
    (let c := ringChip 3 2 { brk := some (1, 0), cut2 := 2, unfoldOk := true }
     (c.ring 0).brk = some (1, 0) ∧ 0 < 1 ∧ (c.ring 0).stopB = false ∧ (c.cutOff 0).filter (fun q => bit (c.ring 0).cut2 q) ≠ [] ∧
     c.herdState 0 1 = 2 ∧ c.ringState 0 ≠ 4 ∧ (c.ring 0).unfoldOk = true) ∧
    (let c := ringChip 3 2 { brk := some (1, 1) }
     (c.ring 0).brk = some (1, 1) ∧ (c.ring 0).unfoldOk = false ∧ [found0 0, found0 9][1]? = some (found0 9) ∧ c.nOf 0 ≤ 1 + 1 ∧
     (found0 9).enum.serial ≠ c.hT 0 0 1) ∧
    [found0 1].length ≠ (ringChip 3 2).nOf 0 ∧ [found0 0, found0 0].length = (ringChip 3 2).nOf 0 := by decide +kernel

/-- The lists that agree with the herd table: of a scan, and of a ring that is whole again. -/
theorem witness_population_lists :
    (∀ q (x : Found), [{ found0 0 with enum := { enum0 0 with epochZero := false } }][q]? = some x →
      (ringChip 2 2).hT 0 0 q = x.enum.serial ∧ (ringChip 2 2).herdState 0 q ≠ 3 ∧ x.enum.epochZero = false ∧
        bit ((ringChip 2 2).hT 0 1 q) 3 = bit x.enum.flags 1) ∧
    (∀ q (f : Found), [found0 0, found0 0][q]? = some f → f.enum.serial = (ringChip 3 2).hT 0 0 q) := by
  constructor
  · intro q e' h
    match q, h with
    | 0, h => cases h; decide +kernel
  · intro q f h
    match q, h with
    | 0, h => cases h; decide +kernel
    | 1, h => cases h; decide +kernel

/-! ## Measurement, estimation and learning -/

theorem witness_front_end :
    (let c : Chip := { front := { disagree := 10 } }
     bits (c.rd 0x3300 0x15) 3 0 < 4 ∧ 10 ≤ c.front.disagree ∧ c.front.disSaid = false) ∧
    ({} : Chip).front.disagree < 10 ∧ ([0, 3000] : List Int).getD 0 0 < 2000 ∧ 2000 ≤ ([0, 3000] : List Int).getD 1 0 ∧
    (let c := withOd [(0x3300, 0x37, 1)]
     c.imHighZ 1 = true ∧ c.imHighZ 0 = false ∧ ({ c with front := { imB := true } } : Chip).imHighZ 0 = true) ∧
    ({} : Chip).imHighZ 0 = false ∧ ({} : Chip).imHighZ 1 = false ∧
    (let c := withOd [(0x3300, 0x34, 100)] { front := { below := [(0, 1)], above := [(1, 1)] } }
     50 < c.rd 0x3300 0x34 ∧ 1 ≤ Map.read 0 c.front.below 0 ∧ c.rdBit 0x3300 0x63 6 = false) ∧
    (let c := withOd [(0x3300, 0x35, 100), (0x3300, 0x63, 0x80)] { front := { above := [(1, 1)] } }
     11 * c.rd 0x3300 0x35 ≤ 10 * 200 ∧ 1 ≤ Map.read 0 c.front.above 1 ∧ c.rdBit 0x3300 0x63 7 = true) := by decide +kernel

/-- Two slots of a position, 3.7 V on each channel: before an injection, and with INJ and the channel of element e changed. -/
def slotPair (e v : Nat) : SlotRec :=
  { prev := (List.range 16).flatMap (fun _ => be 2 37000) ++ zeros 12, last := (List.range 16).flatMap (fun _ => be 2 37000) ++ zeros 12
    bytes := (List.range 16).flatMap (fun k => be 2 (if k = e then v else 37000)) ++ zeros 8 ++ be 4 0x40000
    seq := 1 }

/-- Position 1 of ring 0 is suspect with this observation, its slots as above, and STACK at 59.2 V plus d units of 2 mV. -/
def susChip (obs e v d : Nat) : Chip :=
  withOd [(0x3020, 2, 0x20000)]
    { suspects := [(1, { obs := obs, count := 100000, taps := obsTaps obs, inj := obsTaps obs, stack := (29600 + d) * 65536 })],
      slotData := [(1, slotPair e v)] }

theorem witness_sense :
    (let c : Chip := { suspects := [(1, { obs := 3, count := 100000 })] }
     (c.sus 1).obs ≠ 0 ∧ c.rd 0x3010 0x29 ≤ (c.sus 1).count ∧ bit (c.faultWord 0 1) 17 = false) ∧
    ({} : Chip).faultWord 0 1 = 0 ∧ bit 0 17 = false ∧
    (let c := withOd [(0x3020, 2, 0x20000)] { suspects := [(1, { taps := 8, inj := 8 })] }
     bit (c.faultWord 0 1) 17 = true ∧ (c.sus 1).taps &&& (c.sus 1).inj ≠ 0 ∧ c.freshSlot 0 1 = false ∧
       (Map.read {} c.slotData 1).injFresh = false ∧ (c.sus 1).tries < 2) ∧
    (let c := withOd [(0x3020, 2, 0x20000)] { suspects := [(1, { taps := 24, inj := 8, tries := 2 })] }
     bit (c.faultWord 0 1) 17 = true ∧ (c.sus 1).taps &&& (c.sus 1).inj ≠ 0 ∧ (c.sus 1).taps &&& (c.sus 1).inj ≠ (c.sus 1).taps ∧
       (Map.read {} c.slotData 1).injFresh = false ∧ 2 ≤ (c.sus 1).tries) := by
  decide +kernel

/-- The hypotheses of the tests that have their result: the difference that the stack shows. -/
def susTested (c : Chip) (d : Int) : Bool :=
  let u := c.sus 1
  let x := Map.read {} c.slotData 1
  bit (c.faultWord 0 1) 17 && u.taps != 0 && u.taps &&& u.inj == u.taps && c.freshSlot 0 1 && x.injFresh && stackDiff x u.stack == some (d, 592000) &&
    (bitsSet 17 u.taps).all (fun t => (tapShift x.prev x.bytes t).isSome)

theorem witness_taps :
    (let c := susChip 3 3 50000 0
     susTested c 0 = true ∧ (0 : Int).natAbs ≤ c.rd 0x3010 0x27 ∧
     c.rd 0x3010 0x28 < (tapShift (slotPair 3 50000).prev (slotPair 3 50000).bytes 3).getD 0) ∧
    (let c := susChip 3 3 37000 0
     susTested c 0 = true ∧ (tapShift (slotPair 3 37000).prev (slotPair 3 37000).bytes 3).getD 0 ≤ c.rd 0x3010 0x28) ∧
    (let c := susChip 20 3 37000 0
     susTested c 0 = true ∧ 17 ≤ (c.sus 1).obs ∧ (c.sus 1).obs ≤ 32 ∧
     (tapShift (slotPair 3 37000).prev (slotPair 3 37000).bytes 3).getD 0 ≤ c.rd 0x3010 0x28 ∧
     (tapShift (slotPair 3 37000).prev (slotPair 3 37000).bytes 4).getD 0 ≤ c.rd 0x3010 0x28) ∧
    (let c := susChip 20 3 37000 5000
     susTested c 100000 = true ∧ ¬ (100000 : Int).natAbs ≤ c.rd 0x3010 0x27 ∧ 18 ≤ (c.sus 1).obs ∧ (c.sus 1).obs ≤ 31) ∧
    (let c := withOd [(0x3020, 2, 2 ^ 33)] { suspects := [(1, { absent := [(33, 100000)] })] }
     bit (c.faultWord 0 1) 33 = true ∧ c.rd 0x3010 0x29 ≤ Map.read 0 (c.sus 1).absent 33 ∧ bit (c.faultWord 0 1) 34 = false) ∧
    (let c := withOd [(0x3020, 2, 2 ^ 5)] { suspects := [(1, { absent := [(5, 100000)], shift := [(5, 1)] })] }
     bit (c.faultWord 0 1) 5 = true ∧ c.rd 0x3010 0x29 ≤ Map.read 0 (c.sus 1).absent 5 ∧ Map.read 0 (c.sus 1).shift 5 ≠ 0 ∧
     Map.read 0 (c.sus 1).shift 5 ≤ c.rd 0x3010 0x28 + 1) := by decide +kernel

/-- A fast record with these consistency flags; all else 0. -/
def fastRec0 (flags : Nat) : List Byte := zeros 18 ++ le 2 flags ++ zeros 108

/-- String 0 on ring 0, whose elements at position 1 have such fast records and fresh slots. -/
def elemChip (flags : Nat) (x : List (Nat × Nat × Nat) := []) : Chip :=
  withOd ([(0x3107, 1, 2), (0x3107, 2, 2), (0x3101, 1, 0x2200), (0x3101, 2, 0x2100), (0x3200, 1, 0), (0x3200, 2, 0)] ++ x)
    { mode := .ready, fast := (List.range 16).map (fun e => (16 + e, fastRec0 flags)), slotData := [(1, { bytes := zeros 44 })] }

theorem witness_estimation :
    ((elemChip 0x4000).fastRec 16).length = 128 ∧ bit (consOf ((elemChip 0x4000).fastRec 16)) 14 = true ∧
    bit (consOf ((elemChip 0).fastRec 16)) 14 = false ∧
    (let c := elemChip 0x800
     (c.fastRec 16).length = 128 ∧ bit (consOf (c.fastRec 16)) 11 = true ∧ c.strOf 16 = some 0 ∧ (c.es 0).cancelled = false ∧ c.rdBit 0x2840 0x0E 3 = false) ∧
    bit (consOf ((elemChip 0).fastRec 16)) 11 = false ∧ bit (consOf ((elemChip 0).fastRec 16)) 12 = false ∧
    ((elemChip 0x1000).fastRec 16).length = 128 ∧ bit (consOf ((elemChip 0x1000).fastRec 16)) 12 = true ∧ (elemChip 0x1000).strOf 16 = some 0 ∧
    ({ claims := [cmdClaim 2] } : Chip).actionGuard .a 1 = .ok ∧ ({} : Chip).actionGuard .a 1 ≠ .ok ∧
    (let c := withOd [(0x2800, 0x0C, 1), (0x2800, 3, 1)]
     c.rd 0x2800 0x0C ≠ 0 ∧ c.rd 0x2800 3 ≠ 0) ∧
    ({} : Chip).rd 0x2800 3 = 0 ∧
    (let c : Chip := { profPend := [(0x2810 * 256 + 3, 7)] }
     c.profPend = [(0x2810 * 256 + 3, 7)] ∧ c.profPendDom = [] ∧ (0x2810 * 256 + 3) / 256 = 0x2810 ∧ (0x2810 * 256 + 3) % 256 ≠ 0x11) := by
  decide +kernel

theorem witness_balancing :
    (let c := { elemChip 0 [(0x2700, 1, 1), (0x2700, 6, 10), (0x2100, 0x0A, 11)] with estr := [(0, { balMin := some 0 })] }
     c.headOf 0 ≠ none ∧ c.rd 0x2700 1 ≠ 0 ∧ c.ticks % max 1 (c.rd 0x2700 6) = 1 ∧ c.balCause 0 = 0 ∧ (c.es 0).balMin = some 0) ∧
    (let c := elemChip 0x8000 [(0x2700, 1, 1), (0x2700, 6, 10), (0x2100, 0x0A, 11)]
     c.headOf 0 ≠ none ∧ c.rd 0x2700 1 ≠ 0 ∧ c.ticks % max 1 (c.rd 0x2700 6) = 1 ∧ c.balCause 0 = 1) ∧
    (let c : Chip := { adopt := { status := 1 }, swi := { ramp := true, rampSection := true } }
     c.swi.ramp = true ∧ c.swi.step = none ∧ c.swi.rampSection = true ∧ c.adopted = true ∧ ¬3 ≤ c.swi.lowTicks) ∧
    ({} : Chip).swi.ramp = false := by decide +kernel

theorem witness_rest :
    (let c := elemChip 0 [(0x2920, 1, 1)]
     c.rd 0x2920 1 = 1 ∧ ({ c with estr := [(0, { quietMs := 2 ^ 40 })] } : Chip).rd 0x2920 1 = 1 ∧
     (c.rd 0x2900 3 - c.rd 0x2900 4) * 1000 ≤ (({ c with estr := [(0, { quietMs := 2 ^ 40 })] } : Chip).es 0).quietMs) ∧
    ({} : Chip).rd 0x2920 1 ≠ 2 ∧ ({} : Chip).rd 0x2920 1 ≠ 1 ∧
    (let c := { elemChip 0 [(0x2920, 1, 2)] with estr := [(0, { quietMs := 2 ^ 40 })] }
     c.rd 0x2920 1 = 2 ∧ c.rd 0x2900 3 * 1000 ≤ (c.es 0).quietMs ∧ c.elemsOf 0 ≠ [] ∧ ∀ g ∈ c.elemsOf 0, c.contributes g = true ∧
       c.relaxation g ≤ c.rd 0x2900 5 ∧ (c.el g).tHi - (c.el g).tLo ≤ (c.rd 0x2900 6 : Int)) ∧
    (let c := elemChip 0 [(0x2920, 1, 2)]
     c.rd 0x2920 1 = 2 ∧ (c.es 0).quietMs < c.rd 0x2900 3 * 1000) ∧
    (let c := withOd [(0x1040, 1, 2 ^ 31), (0x2920, 6, 1)] { claims := [cmdClaim 2], estr := [(0, { sinceRest := some 0 })] }
     c.rd 0x2900 0x0A * 86400 ≤ c.restAge 0 ∧ (c.es 0).sinceRest.isSome = true ∧ (c.es 0).cancelled = false ∧
     bit (({ c with od := [] } : Chip).rd 0x2920 6) 0 = false ∧ (({ c with estr := [(0, { cancelled := true })] } : Chip).es 0).cancelled = true ∧ c.actionGuard .a 1 = .ok ∧ c.rd 0x2920 6 ≠ 0 ∧
     c.rdBit 0x2920 0x0C 0 = false ∧ c.rd 0x2900 9 * 86400 < c.restAge 0 ∧ c.rdBit 0x2920 0x0C 1 = false ∧
     c.rd 0x2900 0x0B * 86400 ≤ c.restAge 0) ∧
    ({} : Chip).restAge 0 < ({} : Chip).rd 0x2900 0x0A * 86400 ∧ (({} : Chip).es 0).sinceRest = none ∧ ({} : Chip).actionGuard .a 1 ≠ .ok := by
  decide +kernel

/-- Page 4 (elements 16 to 19) in the cache, records of zeros but for the number of the day's ratios of the first. -/
def pageChip (n : Nat) (x : Elem := {}) : Chip :=
  { elemChip 0 with
    pager := { cache := [(4, { st := .clean, recs := [zeros 328 ++ le 4 n ++ zeros 692, zeros 1024, zeros 1024, zeros 1024] })] }
    elem := [(16, x)] }

theorem witness_slow_jobs :
    (let c := elemChip 0
     c.rd 0x2100 3 = 0 ∧ 1 ≤ (withOd [(0x2100, 3, 1)] c).rd 0x2100 3 ∧ c.cached 16 = false ∧ c.strOf 16 = some 0 ∧ c.headOf 0 = some (0, 0)) ∧
    (withOd [(0x3200, 1, 0xFF)] (elemChip 0)).strOf 16 = none ∧
    (let c := pageChip 3 { dayN := 1 }
     c.page? 4 = some ((c.page? 4).getD {}) ∧ c.grantRefusal [4] = 0 ∧ ((c.page? 4).getD {}).recs.length = 4 ∧
     (∀ y ∈ ((c.page? 4).getD {}).recs, y.length = 1024) ∧ c.strOf 16 = some 0 ∧ c.fastRec 16 ≠ [] ∧ leAt (c.slowRec 16) 328 4 ≠ 0 ∧
     (c.el 16).dayN ≠ 0 ∧ c.headOf 0 = some (0, 0) ∧ c.rippleEligible 0 1 0 0 = false) ∧
    ((pageChip 0).el 16).dayN = 0 ∧ (elemChip 0).grantRefusal [4] = 1 ∧
    ({ pager := { cache := [(4, { st := .writing })] } } : Chip).grantRefusal [4] = 1 ∧
    ({ pager := { cache := [(4, { st := .clean, grant := true })] } } : Chip).grantRefusal [4] = 3 ∧
    ({ pager := { cache := (List.range 64).map (fun k => (k, { st := .dirty })) ++ [(100, { st := .clean })] } } : Chip).grantRefusal [100] = 2 := by
  decide +kernel

/-- Position 1 of ring 0 holds an admitted KS16 whose identity is checked by these methods; its slow record has the pin 7. -/
def idChip (methods : Nat) (therm : Nat) : Chip :=
  { elemChip 0 [(0x2960, 1, methods), (0x2960, 2, therm)] with
    pager := { slow := [(16, zeros 896 ++ le 8 7 ++ zeros 32 ++ [1#8] ++ zeros 87)] } }

theorem witness_identity :
    ({} : Chip).rd 0x2960 1 = 0 ∧
    (let c := idChip 2 0
     c.rd 0x2960 1 ≠ 0 ∧ c.herdType 0 1 = 1 ∧ c.herdState 0 1 = 2 ∧ bit (c.rd 0x2960 1) 1 = true ∧ (1 : Nat) ∉ (c.ring 0).fawns ∧
     ident0.answered = true ∧ ident0.cert.length ≠ 120) ∧
    (1 : Nat) ∈ (({ idChip 2 0 with rings := [(0, { fawns := [1] })] } : Chip).ring 0).fawns ∧
    (let c := idChip 1 1
     c.rd 0x2960 1 ≠ 0 ∧ bit (c.rd 0x2960 1) 0 = true ∧ bit (c.rd 0x2960 1) 1 = false ∧ c.rd 0x2960 2 = 1 ∧ c.thermTakeable 0 1 = false) ∧
    (let c := idChip 1 0
     bit (c.rd 0x2960 1) 0 = true ∧ bit (c.rd 0x2960 1) 1 = false ∧ c.rd 0x2960 2 ≠ 1 ∧
     ((posElems 0 1).map c.slowRec).find? (fun y => !idBlank y) = some (c.slowRec 16) ∧ (∀ e < 16, (c.slowRec (16 + e)).length = 1024) ∧
     c.idMatches 0 { ident0 with idpin := 0x10007 } false false (c.slowRec 16) = true ∧
     c.idMatches 0 { ident0 with idpin := 0x10384 } false false (c.slowRec 16) = false ∧
     c.vacantMatch 0 1 { ident0 with idpin := 0x10384 } false false = none) ∧
    (let c : Chip := { idChip 1 0 with pager := { slow := (List.range 16).map (fun e => (16 + e, newSlow 0 1024)) } }
     ((posElems 0 1).map c.slowRec).find? (fun y => !idBlank y) = none) := by decide +kernel

/-! ## The pager, spares, arbitration, starts -/

/-- Page 4, of an admitted position, in the cache, in this state, 700 s after the start. -/
def cacheChip (p : PageState) : Chip :=
  { elemChip 0 with
    pager := { cache := [(4, { st := p, recs := List.replicate 4 (zeros 1024) })] }, clk := { sincePor := 700000 } }

theorem witness_pages :
    ((cacheChip .fetching).page? 4).isSome = true ∧ (((cacheChip .fetching).page? 4).getD {}).st = .fetching ∧ ({} : Chip).page? 4 = none ∧
    (((cacheChip .dirty).page? 4).getD {}).st = .dirty ∧ (((cacheChip .soft).page? 4).getD {}).st = .soft ∧
    (cacheChip .dirty).pager.reqs = [] ∧ (cacheChip .dirty).pageHolds 4 = true ∧
    ({ cacheChip .dirty with od := [] } : Chip).pageHolds 4 = false ∧ ({ cacheChip .dirty with od := [] } : Chip).mramRoom ⟨5, .write, 4, false⟩ = true ∧
    600000 ≤ (cacheChip .dirty).sinceWb 4 ∧ (cacheChip .dirty).mramRoom ⟨5, .write, 4, false⟩ = true ∧
    600000 ≤ (cacheChip .soft).sinceWb 4 ∧ (cacheChip .soft).dirtyCount ≤ 48 ∧ (cacheChip .soft).mramRoom ⟨5, .write, 4, false⟩ = true ∧
    (let x : Page := { st := .writing, recs := [] }
     let c : Chip := { pager := { cache := [(4, { st := .dirty, recs := [] }), (20, x), (36, x)], reqs := [⟨5, .write, 4, false⟩] } }
     c.mramRoom ⟨5, .write, 4, false⟩ = false ∧ c.pager.reqs = [⟨5, .write, 4, false⟩]) ∧
    ({ pager := { reqs := [⟨7, .read, 0, false⟩] } } : Chip).nextReq = some ⟨7, .read, 0, false⟩ ∧
    (((cacheChip .clean).page? 4).getD { st := .dirty }).st = .clean ∧
    (let c := withOd [(0x2110, 0x0A, 2)] (cacheChip .dirty)
     c.rdBit 0x2110 0x0A 1 = true ∧ c.oldestPage none c.pages = some (4, (c.page? 4).getD {}) ∧ 1000 ≤ c.sinceWb 4 ∧
     c.mramRoom ⟨3, .write, 4, false⟩ = true) ∧
    ({} : Chip).rdBit 0x2110 0x0A 1 = false ∧
    (((cacheChip .writing).page? 4).getD {}).st = .writing ∧ (((cacheChip .writing).page? 4).getD {}).recs.length = 4 ∧
    (cacheChip .writing).pager.flush = none ∧ (cacheChip .writing).retriesOf 4 < (cacheChip .writing).rd 0x2A00 0x12 ∧
    (0 : Nat) ∉ (cacheChip .writing).pager.pool ∧ (1 : BitVec 4) ≠ 0 ∧
    (0, RowVerify.retry3) ∈ ([(0, .retry3)] : List (Fin 128 × RowVerify)) ∧
    (let c := cacheChip .clean
     c.clk.off * 100 < c.periodNs * 70 ∧ c.cached 16 = true ∧ c.cached 0 = false) ∧
    (let c : Chip := { pager := { slow := [(0, [0#8])] } }
     c.clk.off * 100 < c.periodNs * 70 ∧ c.cached 0 = false ∧ slowCrcOk (c.slowMram 0) = false ∧ (Map.read [] c.pager.before 0 : List Byte) = []) ∧
    (let c : Chip := { clk := { off := 800000 } }
     c.periodNs * 70 ≤ c.clk.off * 100 ∧ c.clk.off * 100 < c.periodNs * 95) := by decide +kernel

theorem witness_spares :
    ({} : Chip).idleSpare 0 = some 4 ∧ (withOd ((List.range 5).map (fun l => (0x2A20, l + 1, 2)))).idleSpare 0 = none ∧
    ({} : Chip).rd 0x2A00 3 = 0 ∧ (withOd [(0x2A00, 3, 1)]).rd 0x2A00 3 ≠ 0 ∧
    ({} : Chip).rd 0x2A00 0x19 = 0xFF ∧ ({} : Chip).rd 0x2A00 4 ≠ 0 ∧ (withOd [(0x2A00, 0x1A, 3)]).rd 0x2A00 0x1A ≠ 0xFF ∧
    (withOd [(0x2A00, 4, 0)]).rd 0x2A00 4 = 0 ∧ 3 + 8 * 0 ∉ ({} : Chip).pager.worn := by decide +kernel

theorem witness_arbiters :
    (∃ k, k < arbInputs (.chipTarget 0) ∧ bit (4#16).toNat k = true) ∧ arbNo (.chipTarget 0) ≠ arbNo (.chipTarget 1) ∧
    (∀ k, k < arbInputs (.chipTarget 0) → bit (0#16).toNat k = false) ∧
    guardOf 7 = some (.region 0) ∧ ({} : Chip).clockStopped 7 = true ∧ (withOd [(0x3000, 1, 3)]).clockStopped 7 = false ∧
    guardOf 3 = some .chip ∧ ({} : Chip).clockStopped 3 = true ∧ guardOf 0 = none ∧ ((tineChip lane0).tine lane0).run = true ∧
    ([⟨4, .write, 4, false⟩] : List MramReq)[0]? = some ⟨4, .write, 4, false⟩ ∧ ([⟨1, .write, 4, false⟩] : List MramReq)[1]? = none :=
  ⟨⟨2, by decide +kernel⟩, by decide +kernel, by decide +kernel, by decide +kernel, by decide +kernel, by decide +kernel, by decide +kernel,
    by decide +kernel, by decide +kernel, by decide +kernel, rfl, rfl⟩

theorem witness_regions :
    (let c := withOd [(0x6064, 1, 1)] { claims := [cmdClaim 256] }
     c.up = true ∧ c.rd 0x6065 1 = 0 ∧ ((Map.read [] c.regions 1).filter (fun x => decide (c.rd 0x1040 1 < x + 600))).length < 2 ∧
     c.rd 0x6064 1 ≠ 0 ∧ c.rd 0x6064 1 = 1 ∧ c.rd 0x6065 1 ≠ 1 ∧ c.rd (0x6064 + 5 / 4) 1 = 0 ∧ c.linkLost = false) ∧
    (let c : Chip := { regions := [(1, [0, 0])] }
     c.rd 0x6065 1 = 0 ∧ 2 ≤ ((Map.read [] c.regions 1).filter (fun x => decide (c.rd 0x1040 1 < x + 600))).length) ∧
    (let c := withOd [(0x6064, 1, 2)] { claims := [cmdClaim 256] }
     c.actionGuard .a 8 = .ok ∧ c.rd 0x6064 1 = 2) ∧
    ({} : Chip).actionGuard .a 8 ≠ .ok ∧ ({ up := false } : Chip).up = false ∧
    (0x1000#32 : Word).toNat < 0x20000 ∧
    (let c := withOd [(0x3107, 1, 2), (0x3107, 2, 2)] { rings := [(0, { got := 2 })] }
     let off := (0x20000#32 : Word).toNat
     0x20000 ≤ off ∧ c.nOf 0 ≤ 64 ∧ 1 < c.nOf 0 ∧ bit (off / 4096) 0 = c.isUp 0 1 ∧ (c.ring 0).got.getLsbD 1 = true) := by decide +kernel

theorem witness_crossings :
    ({} : Chip).gensDiffer 3 = false ∧ ({ gens := [(3, 1)] } : Chip).gensDiffer 3 = true ∧ ({ gens := [(3, 3)] } : Chip).gensDiffer 3 = false ∧ (w1cOf 0x6010 1).isSome = true ∧
    w1cOf 0x2000 1 = none ∧ idxExists 0x0001 = false := by decide +kernel

/-- A chip on its way down from READY with this cause. -/
def downChip (cause : Nat) : Chip := { mode := .shutdown, power := { started := true, cause := cause } }

theorem witness_restarts :
    ({} : Chip).mayStart 1 = true ∧ ({} : Chip).mayStart 3 = true ∧ ({ power := { started := true } } : Chip).mayStart 1 = false ∧
    ({} : Chip).power.closed = false ∧ ({} : Chip).linkLost = false ∧
    (let c : Chip := { up := false, power := { closed := true, dropped := true } }
     c.power.closed = true ∧ c.power.dropped = true ∧ c.up = false) ∧
    (let c : Chip := { power := { started := true } }
     c.up = true ∧ c.power.started = true ∧ c.power.cause ≠ 1 ∧ c.mode ≠ .shutdown) ∧
    (downChip 1).up = true ∧ (downChip 1).power.started = true ∧ (downChip 1).power.cause = 1 ∧ (downChip 2).mode = .shutdown ∧
    (downChip 2).power.cause ≠ 0 := by decide +kernel

/-! ## Access, sessions, semaphores -/

/-- Master A edits group 5. -/
def editChip (x : List (Nat × Nat × Nat) := []) : Chip := withOd x { claims := [editClaim 32] }

/-- The entry of the plain setting 2000:05. -/
def entry0 : Entry :=
  { base := 0x2000, count := 1, stride := 1, sub := 5, n := 1, ty := .u 2, acc := .rws, grp := 5, dflt := .c 1000, ok := [], keep := true }

/-- The entry of the list 2C00:11. -/
def entry1 : Entry :=
  { base := 0x2C00, count := 1, stride := 1, sub := 0x11, n := 1, ty := .dom 0 128, acc := .rws, grp := 7, dflt := .c 0, ok := [], keep := true }

theorem witness_entries : entryOf 0x2000 5 = some entry0 ∧ entryOf 0x2C00 0x11 = some entry1 ∧ entry0.acc = .rws ∧
    (∀ lo hi, entry0.ty ≠ .dom lo hi) ∧ entry1.ty = .dom 0 128 ∧ entry1.acc = .rws :=
  ⟨by decide +kernel, by decide +kernel, rfl, (fun _ _ h => by cases h), rfl, rfl⟩

theorem witness_staged :
    ({ up := false } : Chip).up = false ∧
    (let c := editChip
     c.up = true ∧ c.power.recovery = false ∧ c.writeStatus .a 0x2000 5 (le 2 500) = .ok ∧ isAction 0x2000 5 = false ∧
     residentSlot 0x2000 5 = false ∧ c.writeStatus .a 0x2000 5 (le 1 5) ≠ .ok ∧ isProcess 0x2000 5 = false ∧
     c.writeStatus .a 0x2100 1 (le 1 2) = .ok ∧ ofLE (le 1 2) ≠ c.rd 0x2100 1 ∧ c.mode ≠ .discover ∧ c.mode ≠ .ready) ∧
    (let c : Chip := { claims := [editClaim 128] }
     c.writeStatus .a 0x2C00 0x11 (zeros 32) = .ok ∧ isAction 0x2C00 0x11 = false ∧ residentSlot 0x2C00 0x11 = false) ∧
    mayWrite .a = true ∧ ({ claims := [editClaim 8] } : Chip).ownerStatus .a 3 false = .ok ∧
    ({ claims := [editClaim 256] } : Chip).ownerStatus .a 8 false = .ok := by decide +kernel

/-- Session 0 of a master is open, with this store and subscription. -/
def sessChip (store : List (Nat × Answer)) (period : Nat := 0) : Chip :=
  { sessions := [(0, { role := 1, store := store, period := period })] }

theorem witness_requests :
    (({} : Chip).sess 0).role = 0 ∧ ({ mode := .shutdown } : Chip).netUp = false ∧ ({} : Chip).netUp = true ∧ ({} : Chip).lock.supFault = false ∧
    ({ lock := { supFault := true } } : Chip).lock.supFault = true ∧
    (let c := sessChip [(5, {})]
     c.netUp = true ∧ (c.sess 0).role ≠ 0 ∧ (c.sess 0).store.find? (fun y => y.1 == 5) = some (5, {}) ∧
     (∀ y ∈ (c.sess 0).store, y.1 ≠ 3) ∧ (c.sess 0).store.head? = some (5, {}) ∧ (3 : Nat) < 5 ∧ (∀ y ∈ (c.sess 0).store, y.1 ≠ 6) ∧
     ∀ a ∈ (c.sess 0).store.head?, a.1 < 6) ∧
    (let s := st (sessChip [(5, {})])
     ((s.readMessage .a false []).chip.sess 0).role ≠ 0 ∧ ((s.writeMessage .a []).chip.sess 0).role ≠ 0 ∧
     ((s.segRead .a 0x2000 5 0 4).chip.sess 0).role ≠ 0 ∧ ((s.segWrite .a 0x2000 5 0 []).chip.sess 0).role ≠ 0 ∧
     ((s.chip.subscribe 0 1 [(0x2000, 5)]).sess 0).role ≠ 0 ∧ ((s.chip.answer .ok).sess 0).role ≠ 0) := by decide +kernel

/-- ETRIP deasserted and OC0 asserted, both latched; PROT held for command. -/
def latchChip : Chip :=
  { claims := [cmdClaim 1], adopt := { status := 1 }, mode := .ready
    trip := { asserted := BitVec.twoPow 48 16, latched := BitVec.twoPow 48 47 ||| BitVec.twoPow 48 16 } }
def latchClear0 : WItem := ⟨⟨0x2300#16, 6#8⟩, le 8 (2 ^ 47 + 2 ^ 16)⟩

/-- R227, R535: of a WRITE that names both, ETRIP is cleared, OC0 refused with its number; an item beside it is not written. -/
theorem test_write_latches :
    (let c := ((st latchChip).writeMessage .a [⟨⟨0x2411#16, 1#8⟩, [1]⟩, latchClear0]).chip
     c.trip.latched = BitVec.twoPow 48 16 ∧ c.ans.status = .refused ∧ c.ans.detail = 16 ∧ (c.ch 1).cmd = false ∧
     c.port.map (·.code) = [0x3004, 0x3003]) := by decide +kernel

theorem witness_messages :
    (let s := st editChip
     s.chip.power.recovery = false ∧ readStatus 0x2000 5 = .ok ∧ (s.bytesOf 0x2000 5).length ≤ 1024) ∧
    (let c : Chip := { claims := [{ editClaim 32 with staged := [(okey 0x2000 5, 500)] }] }
     c.stagedBytes .a 0x2000 5 = some (le 2 500) ∧ (le 2 500).length ≤ 1024) ∧
    ((st editChip).writeItems .a [⟨⟨0x2000#16, 5#8⟩, le 2 500⟩]).2 = none ∧
    ((st {}).writeItems .a [⟨⟨0x2000#16, 5#8⟩, le 2 500⟩]).2 = some ⟨⟨0x2000#16, 5#8⟩, le 2 500⟩ ∧
    clearsLatches ⟨⟨0x2000#16, 5#8⟩, le 2 500⟩ = false ∧ ((st latchChip).writeItems .a [latchClear0]).2 = some latchClear0 ∧
    clearsLatches latchClear0 = true ∧
    (let c : Chip := { claims := [editClaim 128] }
     mayWrite .a = true ∧ c.power.recovery = false ∧ idxExists 0x2C00 = true ∧ c.ownerStatus .a 7 false = .ok ∧
     (zeros 32).length ≤ 1024 ∧ 0 + (zeros 32).length ≤ 128) ∧
    (let c : Chip := { claims := [{ editClaim 128 with stagedDom := [(okey 0x2C00 0x11, zeros 32)] }] }
     ((c.claimOf 7).bind (fun x => x.bytes 0x2C00 0x11)).getD [] = zeros 32 ∧ 32 = (zeros 32).length ∧
     (zeros 32).length + (zeros 32).length ≤ 128 ∧ 16 ≠ (zeros 32).length) ∧
    ((([(0x2000, 5)] : List (Nat × Nat)).map (fun x => itemSize x.1 x.2)).foldl (· + ·) 0 ≤ 1180) ∧
    64 < (List.replicate 65 (0x2000, 5)).length := by decide +kernel

theorem witness_sessions :
    (let c := sessChip [] 2
     c.netUp = true ∧ (c.sess 0).role ≠ 0 ∧ (c.sess 0).period ≠ 0 ∧ (c.sess 0).items = [] ∧ (c.sess 1).role = 0 ∧ (c.sess 1).period = 0) ∧
    ({} : Chip).roleOf (be 32 7) = 0 ∧
    (let c : Chip := { dom := [(okey 0x2C00 0x11, be 32 7)] }
     c.netUp = true ∧ c.roleOf (be 32 7) ≠ 0 ∧ (c.sess 3).role = 0 ∧ ∀ h : Fin 8, h < 0 → (c.sess h).role ≠ 0) ∧
    (let c : Chip := { dom := [(okey 0x2C00 0x11, be 32 7)], sessions := (List.range 8).map (fun k => (k, { role := 1 })) }
     c.roleOf (be 32 7) ≠ 0 ∧ ∀ h : Fin 8, (c.sess h).role ≠ 0) := by decide +kernel

theorem witness_can_client :
    (let c := editChip [(0x2C40, 2, 1), (0x2C40, 3, 0)]
     c.netUp = true ∧ c.power.recovery = false ∧ c.rd 0x2C40 3 < 4 ∧ c.writeStatus c.canClient 0x2000 5 (le 2 500) = .ok ∧ c.usdo = none ∧
     readStatus 0x2000 5 = .ok ∧ ((st c).bytesOf 0x2000 5).length ≤ 56) ∧
    (let c := withOd [(0x2C40, 2, 1), (0x2C40, 3, 0)]
     c.writeStatus c.canClient 0x2000 5 (le 2 500) = .notOwner ∧ residentSlot 0x2000 5 = false ∧ isProcess 0x2000 5 = false) ∧
    (let c : Chip := { dom := [(okey 0x2C00 0x11, zeros 64)] }
     readStatus 0x2C00 0x11 = .ok ∧ 56 < ((st c).bytesOf 0x2C00 0x11).length ∧ ((st c).bytesOf 0x2C00 0x11).length ≤ 4096) ∧
    (let c : Chip := { dom := [(okey 0x2C00 0x11, zeros 4097)] }
     4096 < ((st c).bytesOf 0x2C00 0x11).length) ∧
    ({ usdo := some ⟨0x2000, 5, true, [], 0⟩ } : Chip).usdo.isSome = true := by decide +kernel

theorem witness_semaphores :
    (let c : Chip := { claims := [cmdClaim 2] }
     c.up = true ∧ c.power.recovery = false ∧ mayWrite .b = true ∧ (4#9).toNat ≠ 0 ∧ (10#16).toNat ≤ 600 ∧
     (∀ x ∈ c.claims, x.groups &&& 4 = 0) ∧ c.claims.find? (fun x => x.groups &&& 2 != 0) = some (cmdClaim 2) ∧
     c.claimOfId .a 2 = none ∧ c.claimOfId .a 1 = some (cmdClaim 2) ∧ (cmdClaim 2).edit = false ∧ (cmdClaim 2).next ≠ .commit ∧
     (cmdClaim 2).run ≠ .check) ∧ 600 < (601#16).toNat ∧
    (let c : Chip := { claims := [editClaim 2] }
     c.claimOfId .a 1 = some (editClaim 2) ∧ (editClaim 2).edit = true ∧ (editClaim 2).run = .edit ∧ (editClaim 2).next ≠ .commit) ∧
    (let q := { editClaim 2 with run := .check }
     let c : Chip := { claims := [q] }
     c.claimOfId .a 1 = some q ∧ q.edit = true ∧ q.run = .check ∧
     ∀ q' ∈ c.claims, q'.id = (9#16).toNat → q'.owner ≠ .a ∨ q'.live = false ∨ q'.next = .rollback) := by decide +kernel

theorem witness_claim_times :
    (let q := { editClaim 32 with run := .check, staged := [(okey 0x2241 4, 60000)] }
     let c : Chip := { claims := [q] }
     c.claims.find? (fun y => y.id == 1 && y.edit && y.run == .check && y.next == .stay) = some q ∧
     c.checkClaim q = some (5, 1, okey 0x2241 4)) ∧
    (let q := { editClaim 2 with run := .check }
     let c : Chip := { claims := [q] }
     c.up = true ∧ c.claims.find? (fun y => y.id == 1 && y.edit && y.run == .check && y.next == .stay) = some q ∧
     c.checkClaim q = none ∧ (∀ y ∈ c.claims, bit y.groups 3 = false ∧ bit y.groups 4 = false)) ∧
    (let c : Chip := { claims := [cmdClaim 2] }
     c.claims.find? (fun y => y.id == 1 && y.run != .check && y.next == .stay) = some (cmdClaim 2) ∧ (cmdClaim 2).edit = false) ∧
    (let c : Chip := { claims := [editClaim 2] }
     c.claims.find? (fun y => y.id == 1 && y.run != .check && y.next == .stay) = some (editClaim 2) ∧ (editClaim 2).edit = true) := by
  decide +kernel

/-! ## CAN ports, time, the tree, the recorder -/

/-- Port 0 on, in classical mode or another, with these values of its objects and this port state. -/
def canChip (x : List (Nat × Nat × Nat) := []) (y : CanPort := {}) (mode : Nat := 1) : Chip :=
  withOd ((0x2D10, 1, mode) :: x) { cans := [(0, y)] }

theorem witness_can_receive :
    ({} : Chip).canOff 0 = true ∧ (canChip [(0x2D10, 0x0F, 2)]).busOff 0 = true ∧ (canChip).pd 0 1 = 1 ∧ ({ can0 with fdf := true } : CanFrame).fdf = true ∧
    (let c := canChip
     c.canOff 0 = false ∧ c.busOff 0 = false ∧ can0.fdf = false ∧ (c.can 0).used < 1024 ∧ (Map.read {} c.tines 96 : Tine).stopped = false ∧
     (Map.read {} c.tines 96 : Tine).run = false ∧ c.canImage 0 = 6 ∧ (c.can 0).ring = [] ∧
     c.residentDisp 0 (canEntry can0 (c.can 0).dropped (c.rd 0x2200 3) c.now) = 0xF ∧ ((c.can 0).queue 8).length < c.pd 0 0x26) ∧
    (let c : Chip := { canChip with tines := [(96, { run := true })] }
     (c.can 0).used < 1024 ∧ (Map.read {} c.tines 96 : Tine).stopped = false ∧ (Map.read {} c.tines 96 : Tine).run = true) ∧
    (canChip [(0x2E00, 0x10, 9)]).canImage 0 ≠ 6 ∧
    (let c := canChip [] { ring := List.replicate 1024 [] }
     1024 ≤ (c.can 0).used) ∧
    (let c := canChip [(0x2C40, 3, 0), (0x2C40, 1, 5)] {} 2
     let f : CanFrame := { can0 with fdf := true, ident := 0x601, data := [5, 0], dlc := 2 }
     c.pd 0 1 ≠ 1 ∧ c.residentDisp 0 (canEntry f (c.can 0).dropped (c.rd 0x2200 3) c.now) = 1) := by decide +kernel

theorem witness_mailboxes :
    (let c := canChip
     mayWrite .observer = false ∧ mayWrite .a = true ∧ (zeros 72).length = 72 ∧ (zeros 76).length ≠ 72 ∧ (c.boxOf 0 12).state ≠ 1 ∧
     (c.boxOf 0 12).state ≠ 2 ∧ c.canOff 0 = false ∧ c.canListens 0 = false ∧ recordOk (c.pd 0 1) (zeros 72) = true ∧
     recordOk (c.pd 0 1) (zeros 3 ++ [0x40#8] ++ zeros 68) = false ∧ (c.can 0).attempt = none ∧ c.busOff 0 = false) ∧
    ({} : Chip).canOff 0 = true ∧ (canChip [(0x2D10, 2, 1)]).canListens 0 = true ∧
    (let c := canChip [] { boxes := [(12, { state := 1, data := zeros 72 })], attempt := some 12 }
     (c.boxOf 0 12).state = 1 ∧ (c.can 0).attempt = some 12 ∧ (c.boxOf 0 12).next = none ∧ c.rdBit 0x2D10 0x12 0 = false) := by
  decide +kernel

theorem witness_can_errors :
    (let c := canChip [(0x2D10, 0x0F, 0), (0x2D10, 0x17, 200), (0x2D10, 0x0D, 1)]
       { boxes := [(12, { state := 2, data := zeros 72 })], attempt := some 12 }
     (c.can 0).attempt = some 12 ∧ (c.boxOf 0 12).next = none ∧ c.rd 0x2D10 0x0F < 2 ∧ c.rdBit 0x2D10 0x12 0 = false ∧
     c.pd 0 0x0C ≤ min 255 (c.pd 0 0x17 + 1) ∧ c.pd 0 0x0D = 1 ∧ c.canOff 0 = false ∧ c.busOff 0 = false) ∧
    (canChip).busOff 0 = false ∧ (canChip [(0x2D10, 0x0F, 2)]).busOff 0 = true ∧
    (let c := canChip [(0x2D10, 0x18, 1), (0x2D10, 0x19, 0)]
     c.rd 0x2D10 0x18 = 1 ∧ c.canOff 0 = false ∧ c.rd 0x2D10 0x19 ≠ 1 ∧
     ((List.range 10).drop 1).filter (fun j => (c.boxOf 0 j).state == 1 || (c.boxOf 0 j).state == 2) = []) ∧
    (let c := canChip [(0x2D10, 0x18, 1)] { boxes := [(3, { state := 1 })] }
     ((List.range 10).drop 1).filter (fun j => (c.boxOf 0 j).state == 1 || (c.boxOf 0 j).state == 2) ≠ []) ∧
    (let c := canChip [(0x2D10, 0x18, 1), (0x2D10, 0x19, 1)] {} 2
     c.rd 0x2D10 0x18 = 1 ∧ c.rd 0x2D10 0x19 = 1 ∧ 2 ≤ c.pd 0 1 ∧ c.canOff 0 = false) := by decide +kernel

/-- PTP domain 0 in this state, on a port in service. -/
def ptpChip (n : Nat) (x : List (Nat × Nat × Nat) := []) (z : Domain := {}) : Chip :=
  withOd ([(0x2210, 4, n), (0x2220, 1, 1)] ++ x) { time := { dom := [(0, z)], sel := some 0 } }

theorem witness_domains :
    (let c := ptpChip 1
     c.dState 0 ≠ 0 ∧ c.ptpOn 0 = true ∧ c.netUp = true ∧ c.rd 0x2200 6 < (20000 : Int).natAbs ∧ (c.dmn 0).streak < 2 ∧
     (5 : Int).natAbs ≤ c.rd 0x2200 6 ∧ c.time.pend = none ∧ -200000 ≤ c.rate ∧ c.rate ≤ 200000 ∧ c.grandmaster 0 = 0 ∧ c.dState 0 ≠ 3) ∧
    (let c := ptpChip 2 [] { bad := 200 }
     c.dState 0 = 2 ∧ c.rd 0x2200 9 ≤ (c.dmn 0).bad + 1 ∧ (c.dmn 0).streak < 2) ∧
    (ptpChip 0).dState 0 = 0 ∧ 2 ≤ ((ptpChip 1 [] { streak := 2 }).dmn 0).streak ∧ (ptpChip 0 [(0x2220, 1, 0)]).ptpOn 0 = false ∧
    ({} : Chip).rd 0x2210 0x0D = 0 ∧
    (let c := ptpChip 2 [(0x2210, 8, 77)]
     c.grandmaster 0 ≠ 0 ∧ c.grandmaster 0 ≠ (78#64).toNat ∧ c.grandmaster 0 = (77#64).toNat ∧ c.dState 0 = 2) ∧
    (ptpChip 3).dState 0 = 3 := by decide +kernel

theorem witness_time_services :
    (let c : Chip := { claims := [cmdClaim 32] }
     c.actionGuard .a 5 = .ok ∧ c.anchorRefusal 0 ≠ 0) ∧
    (let c := withOd [(0x2200, 2, 32)] { claims := [cmdClaim 32], time := { dom := [(0, { good := 100 })] } }
     c.actionGuard .a 5 = .ok ∧ c.anchorRefusal 0 = 0) ∧
    (withOd [(0x2230, 2, 3)]).ppsDriven = true ∧ ({} : Chip).ppsDriven = false ∧
    (let c := withOd [(0x2231, 1, 1)]
     c.netUp = true ∧ c.rd 0x2231 1 = 1 ∧ (c.captures 0).length < 16 ∧ c.captures 0 = [] ∧ ({} : Chip).rd 0x2231 1 ≠ 1 ∧
     ({} : Chip).rd 0x2231 1 ≠ 3) ∧
    (let c := withOd [(0x2231, 1, 1)] { time := { fifo := [(0, List.replicate 16 (0, 0))] } }
     16 ≤ (c.captures 0).length ∧ c.captures 0 = (0, 0) :: List.replicate 15 (0, 0)) ∧
    (let c := withOd [(0x2231, 1, 4), (0x2231, 2, 500)]
     c.rd 0x2231 1 = 4 ∧ c.now < c.rd 0x2231 2 + c.periodNs ∧ c.rd 0x2231 2 < c.now + c.periodNs ∧
     Map.read 0 c.time.fired 0 ≠ c.rd 0x2231 2 + 1 ∧ Map.read 0 ({ c with time := { fired := [(0, 501)] } } : Chip).time.fired 0 = 501) ∧
    (let c := withOd [(0x2231, 1, 5), (0x2231, 2, 0), (0x2231, 3, 1000)]
     c.rd 0x2231 1 = 5 ∧ 0 < c.rd 0x2231 3 ∧ c.rd 0x2231 2 ≤ c.now) ∧
    (withOd [(0x2222, 1, 1)]).rd 0x2222 1 = 1 ∧ (withOd [(0x2200, 3, 2)]).rd 0x2200 3 = 2 ∧ ({} : Chip).rd 0x2200 3 ≠ 2 ∧
    (let c := withOd [(0x2241, 1, 1)] canChip
     c.rd 0x2241 1 ≠ 0 ∧ bit (c.rd 0x2241 1) 0 = true ∧ bit (c.rd 0x2241 1) 1 = false ∧ c.canOff 0 = false ∧ (c.boxOf 0 0).state ≠ 1 ∧
     (c.boxOf 0 0).state ≠ 2) ∧
    (0, 7) ∉ ({} : Chip).time.foreign ∧ (0, 7) ∈ ({ time := { foreign := [(0, 7)] } } : Chip).time.foreign := by decide +kernel

theorem witness_tree :
    (let c := withOd [(0x2C80, 1, 3)]
     c.netUp = true ∧ c.treePort 0 = true ∧ c.childSlot 9 = some 0 ∧ c.childState 0 = 0 ∧ c.childUp 0 = false) ∧
    ({} : Chip).treePort 0 = false ∧
    (let c := withOd [(0x2C80, 1, 3), (0x2C90, 2, 2)] { children := [(0, { serial := 9 })] }
     c.treePort 0 = true ∧ c.childSlot 9 = some 0 ∧ c.childUp 0 = true) ∧ (zeros 80).length = 80 ∧ (zeros 79).length ≠ 80 ∧
    (List.replicate 10 0).length = 10 := by decide +kernel

def record0 : Record :=
  { seq := 3, optime := 0, tick := 0, pcycle := 0, stime := 0, flags := 0, code := 0x2006, src := 0, lost := 0, snapSet := 0, detail := []
    snaps := [] }

def event0 : Event := ⟨0x2006, 0, [], false⟩

theorem witness_ingest :
    ({} : Chip).port = [] ∧
    (let r : Recorder := {}
     let c : Chip := { port := [event0] }
     c.port = [event0] ∧ r.merges event0 (c.rowWord (c.rowOf event0.code 255 0)) = false ∧ r.fill ≤ 384) ∧
    (let r : Recorder := { nextSeq := 4, fifo := [⟨record0, 0, false, false⟩], last := some 3 }
     r.merges event0 (({} : Chip).rowWord (({} : Chip).rowOf event0.code 255 0)) = true ∧ r.gone = none ∧ r.ordered = true) ∧
    (let r : Recorder := { nextSeq := 4, fifo := List.replicate 385 ⟨record0, 0, false, false⟩, spent := [(0, 1000)] }
     r.merges event0 0 = false ∧ 384 < r.fill ∧ bit (0 : Nat) 25 = false ∧ bits (0 : Nat) 15 8 * 1000 < Map.read 0 r.spent 0 + 1000) := by
  decide +kernel

theorem witness_log :
    ({ full := 2 } : Recorder).full = 2 ∧ ({} : Chip).mode ≠ .shutdown ∧ ({} : Recorder).full ≠ 2 ∧
    (let x : FifoRec := ⟨record0, 0, false, false⟩
     let r : Recorder := { fifo := [x] }
     r.fifo = [x] ∧ x.written = false ∧ x.at_ / 64 = r.open_ ∧ r.gone = none ∧ ({ State.reset with rcd := r } : State).logWaits = false ∧
       State.reset.chip.pager.logW = [] ∧ State.reset.chip.roomFor [MramArea.log.sector r.open_] = true ∧
       (let x : Page := { st := .writing, recs := [] }
        ({ pager := { cache := [(0, x), (16, x)] } } : Chip).roomFor [MramArea.log.sector r.open_] = false)) ∧
    ({ st { pager := { reqs := [⟨1, .write, 0, false⟩] } } with rcd := {} } : State).logWaits = true ∧
    ({ open_ := 2040 } : Recorder).freeSectors ≤ 9 ∧ ({} : Chip).actionGuard .a 6 ≠ .ok ∧
    ({ claims := [cmdClaim 64] } : Chip).actionGuard .a 6 = .ok ∧ ({} : Recorder).oldest = ({} : Recorder).open_ ∧
    (let r : Recorder := { log := [(0, record0.header)], open_ := 1 }
     r.oldest ≠ r.open_ ∧ r.closing ≠ some r.oldest ∧ (∀ q ∈ sectorSeqs r.log r.oldest 0 64, q ≤ (9#64).toNat) ∧
     ∃ j, j < 64 ∧ ({ State.reset with rcd := r } : State).logSlot 0 j ≠ []) ∧
    (∀ j, j < 64 → State.reset.logSlot 5 j = []) ∧
    State.reset.inv = true ∧ State.reset.pending = [] ∧ ({ State.reset with pending := [.eventIngest] } : State).pending = [.eventIngest] ∧
    step State.reset = .next State.reset := by
  refine ⟨by decide +kernel, by decide +kernel, by decide +kernel, by decide +kernel, by decide +kernel, by decide +kernel, by decide +kernel,
    by decide +kernel, by decide +kernel, ⟨by decide +kernel, by decide +kernel, by decide +kernel, 0, by decide +kernel, by decide +kernel⟩,
    by decide +kernel, by decide +kernel, rfl, rfl, rfl⟩

/-! ## Steps of the other families, their results worked out from the rules -/

/-- R544, R545: a claim of groups 0 and 2 with the default lease of 5 s, its event 0x8003 with groups, kind and claim id; the
same groups are then BUSY for another master, whose event names the owner. -/
theorem test_claim :
    (let c := chipAfter (.claimForEdit .a 5 0) State.reset
     c.claims.map (fun x => (x.id, x.groups, x.lease)) = [(1, 5, 5000)] ∧ c.port = [⟨0x8003, 1, [5#8, 0#8, 1#8, 1#8, 0#8], false⟩]) ∧
    (chipAfter (.claimForCommand .b 4 0) (after (.claimForEdit .a 5 0) State.reset)).ans.status = .busy := by decide +kernel

/-- R601: the first event takes SEQ 1, and a repeat of it none of its own record. -/
theorem test_ingest :
    (let s := after .eventIngest (st { port := [event0, event0] })
     s.rcd.nextSeq = 2 ∧ s.rcd.fifo.map (fun x => (x.r.seq, x.r.code, x.r.repeats)) = [(1, 0x2006, 0)] ∧
     (after .eventIngest s).rcd.fifo.map (fun x => (x.r.seq, x.r.repeats)) = [(1, 1)]) := by decide +kernel

/-- R453, R454: inputs 1 and 3 request, the last grant went to input 1, input 1 bleats: it is granted; without the bleat input 3. -/
theorem test_arbiter :
    Map.read 0 (chipAfter (.arbiterGrant (.chipTarget 0) 0b1010 none)
      (st { arbLast := [(arbNo (.chipTarget 0), 2)], bleats := [(arbNo (.chipTarget 0), 2)] })).arbLast (arbNo (.chipTarget 0)) = 2 ∧
    Map.read 0 (chipAfter (.arbiterGrant (.chipTarget 0) 0b1010 none)
      (st { arbLast := [(arbNo (.chipTarget 0), 2)] })).arbLast (arbNo (.chipTarget 0)) = 4 := by decide +kernel

/-- R592: a transmission counts in 2D1p:14 and takes 1 from the error counter; the mailbox is SENT. -/
theorem test_can_tx :
    (let c := chipAfter (.canTxComplete 0) (st (canChip [(0x2D10, 0x10, 9)]
       { boxes := [(12, { state := 2, data := zeros 72 })], attempt := some 12 }))
     c.rd 0x2D10 0x14 = 1 ∧ c.rd 0x2D10 0x10 = 8 ∧ (c.boxOf 0 12).state = 3) := by decide +kernel

/-- R42, R47: with P = 2 ms the edge after 10 ms is 12 ms, and the queue waits. -/
theorem test_tick_edge :
    (let s := after .tickEdge { st (withOd [(0x2100, 1, 2)] { clk := { p := 2, edge := 10000000 } }) with pending := [.eventIngest] }
     s.chip.clk.edge = 12000000 ∧ s.pending = [.eventIngest]) := by decide +kernel

/-- R560: ten round trips of 100 … 190 ns: half their median is 72 ns (145 / 2). -/
theorem test_link_delay :
    (chipAfter (.linkDelayEcho 0 [190, 100, 180, 110, 170, 120, 160, 130, 150, 140])
      (st (withOd [(0x2C90, 2, 2)]))).rd 0x2C90 4 = 72 := by decide +kernel

/-- R40: the codes of the modes, and BOOT in 2000:01 at reset. -/
theorem test_mode_at_reset : State.reset.bytesOf 0x2000 1 = [1#8] ∧ State.reset.bytesOf 0x2000 5 = [0xE8#8, 3#8] := by decide +kernel

end Sys2Proof.Tests
end

section
/-!
SUPPORT. Bits of numbers, values of the dictionary after W1C flags, and the form in which a command that acts on the chip
alone meets a statement.
-/

namespace Sys2Proof.Machine

/-! ## Bits -/

theorem bit_eq_testBit (v i : Nat) : bit v i = v.testBit i := by
  rw [Bool.eq_iff_iff, bit, Nat.testBit_eq_decide_div_mod_eq, beq_iff_eq, decide_eq_true_iff]

theorem bit_and (v m i : Nat) : bit (v &&& m) i = (bit v i && bit m i) := by
  simp only [bit_eq_testBit, Nat.testBit_and]

@[simp] theorem bit_zero (i : Nat) : bit 0 i = false := by simp [bit]

theorem bit_putBit (v i j : Nat) (b : Bool) : bit (putBit v i b) j = if j = i then b else bit v j := by
  have hform : putBit v i b = 2 ^ i * (2 ^ 1 * (v / 2 ^ (i + 1)) + b.toNat) + v % 2 ^ i := by
    have hhigh : v / 2 ^ (i + 1) * 2 ^ (i + 1) = 2 ^ i * (2 ^ 1 * (v / 2 ^ (i + 1))) := by
      rw [Nat.mul_comm, Nat.pow_add, Nat.mul_assoc]
    have hval : (if b then 1 else 0) % 2 ^ (i + 1 - i) * 2 ^ i = 2 ^ i * b.toNat := by
      rw [Nat.add_sub_cancel_left, Nat.mul_comm]
      cases b <;> rfl
    rw [putBit, setBits, hhigh, hval, Nat.mul_add]
  have hlow : v % 2 ^ i < 2 ^ i := Nat.mod_lt _ (Nat.two_pow_pos i)
  have hone : b.toNat < 2 ^ 1 := by cases b <;> decide
  simp only [bit_eq_testBit, hform, Nat.testBit_two_pow_mul_add _ hlow, Nat.testBit_two_pow_mul_add _ hone,
    Nat.testBit_mod_two_pow, Nat.testBit_div_two_pow]
  rcases Nat.lt_trichotomy j i with hj | rfl | hj
  · rw [if_pos hj, if_neg (by omega), decide_eq_true hj, Bool.true_and]
  · rw [if_neg (by omega), if_pos (by omega), if_pos rfl, Nat.sub_self]
    cases b <;> rfl
  · rw [if_neg (by omega), if_neg (by omega), if_neg (by omega), show j - i - 1 + (i + 1) = j by omega]

@[simp] theorem bit_putBit_same (v i : Nat) (b : Bool) : bit (putBit v i b) i = b := by
  rw [bit_putBit, if_pos rfl]

/-- Taking away some of the bits that are set clears these and no other. -/
theorem bit_sub_and (v m i : Nat) : bit (v - (v &&& m)) i = (bit v i && !bit m i) := by
  simp only [bit_eq_testBit]
  induction i generalizing v m with
  | zero =>
    have hle : v &&& m ≤ v := Nat.and_le_left
    have hmod := @Nat.and_mod_two_eq_one v m
    generalize v &&& m = x at hle hmod
    simp only [Nat.testBit_zero]
    rw [Bool.eq_iff_iff]
    simp only [Bool.and_eq_true, Bool.not_eq_true', decide_eq_true_eq, decide_eq_false_iff_not]
    omega
  | succ i ih =>
    have hle : v / 2 &&& m / 2 ≤ v / 2 := Nat.and_le_left
    have hdiv : (v &&& m) / 2 = v / 2 &&& m / 2 := Nat.and_div_two
    have hmod := @Nat.and_mod_two_eq_one v m
    have hhalf : (v - (v &&& m)) / 2 = v / 2 - (v / 2 &&& m / 2) := by omega
    simp only [Nat.testBit_succ, hhalf, ih]

theorem mem_bitsSet {n v q : Nat} : q ∈ bitsSet n v ↔ q < n ∧ bit v q = true := by simp [bitsSet]

theorem nodup_bitsSet (n v : Nat) : (bitsSet n v).Nodup := List.nodup_range.filter _

/-! ## Dictionary values after W1C flags (R471, R472) -/

/-- The status objects lie below the indices of their counters. -/
theorem w1cOf_eq_none {i j : Nat} (h : ¬ (i < 0x6100 ∧ j < 256)) : w1cOf i j = none := by
  unfold w1cOf
  repeat rw [if_neg (by simp only [Bool.and_eq_true, beq_iff_eq, decide_eq_true_eq]; omega)]

theorem okey_lt_of_w1cOf {i j k w : Nat} (h : w1cOf i j = some (k, w)) : okey i j < okey 0x6100 0 := by
  by_cases hin : i < 0x6100 ∧ j < 256
  · unfold okey; omega
  · rw [w1cOf_eq_none hin] at h
    cases h

/-- A flag acts on dictionary values alone. -/
theorem Chip.flag_eq (s : Chip) (i j b : Nat) : s.flag i j b = { s with od := (s.flag i j b).od } := by
  unfold Chip.flag; split <;> rfl

theorem Chip.rd_flag_same (s : Chip) (i j b : Nat) : (s.flag i j b).rd i j = putBit (s.rd i j) b true := by
  unfold Chip.flag
  split
  · next k w h =>
    have hlt := okey_lt_of_w1cOf h
    rw [Chip.rd_inc_ne _ (by unfold okey at hlt ⊢; omega), Chip.rd_wrBit_same]
  · rw [Chip.rd_wrBit_same]

theorem Chip.rd_flag_counter (s : Chip) {i j k w : Nat} (b : Nat) (h : w1cOf i j = some (k, w)) :
    (s.flag i j b).rd (0x6100 + k) (b + 1) = (s.rd (0x6100 + k) (b + 1) + 1) % 256 := by
  have hlt := okey_lt_of_w1cOf h
  have hflag : s.flag i j b = (s.wrBit i j b true).inc 8 (0x6100 + k) (b + 1) := by simp only [Chip.flag, h]
  have hkey : okey (0x6100 + k) (b + 1) ≠ okey i j := by unfold okey at hlt ⊢; omega
  rw [hflag]
  exact (Chip.rd_inc_same _ _ _ _).trans (congrArg (fun v => (v + 1) % 256) (s.rd_wrBit_ne b true hkey))

theorem Chip.rd_flag_ne (s : Chip) {i j i' j' : Nat} (b : Nat) (hne : okey i' j' ≠ okey i j)
    (hcount : ∀ k w, w1cOf i j = some (k, w) → okey i' j' ≠ okey (0x6100 + k) (b + 1)) :
    (s.flag i j b).rd i' j' = s.rd i' j' := by
  unfold Chip.flag
  split
  · next k w h => rw [Chip.rd_inc_ne _ (hcount k w h), Chip.rd_wrBit_ne _ _ _ hne]
  · rw [Chip.rd_wrBit_ne _ _ _ hne]

/-- A flag leaves the other objects below the counters. -/
theorem Chip.rd_flag_low (s : Chip) {i j i' j' : Nat} (b : Nat) (hne : okey i' j' ≠ okey i j)
    (hlow : okey i' j' < okey 0x6100 0) : (s.flag i j b).rd i' j' = s.rd i' j' :=
  s.rd_flag_ne b hne fun k _ _ => by unfold okey at hlow ⊢; omega

theorem Chip.rdBit_flag (s : Chip) (i j b q : Nat) :
    (s.flag i j b).rdBit i j q = (decide (q = b) || s.rdBit i j q) := by
  simp only [Chip.rdBit, Chip.rd_flag_same, bit_putBit]
  split <;> simp [*]

/-! ## Commands on the chip alone -/

theorem yields_of_lift {c : Instr} {s : State} {p : Chip → Prop} {f : Chip → Chip} (he : exec c s = lift f s)
    (hp : p (f s.chip)) : yields c s p := ⟨f s.chip, he, hp⟩

theorem becomes_of_lift {c : Instr} {s : State} {x : Chip} {f : Chip → Chip} (he : exec c s = lift f s)
    (hx : f s.chip = x) : becomes c s x := by
  rw [becomes, he, lift, hx]

end Sys2Proof.Machine
end

section
/-!
SUPPORT. Arbiters: round-robin order, the input that wins a grant, and bleats (R451–R458).
-/

namespace Sys2Proof.Machine

/-! ## Round-robin order (R453) -/

/-- How many inputs of an arbiter with `n` inputs come before input `k`, when the turns begin at input `i`. -/
def turnsUntil (n i k : Nat) : Nat := (k + n - i % n) % n

theorem turnsUntil_add {n d : Nat} (i : Nat) (hd : d < n) : turnsUntil n i ((i + d) % n) = d := by
  have hi : i % n < n := Nat.mod_lt _ (by omega)
  rw [turnsUntil, Nat.add_mod, Nat.mod_eq_of_lt hd]
  rcases Nat.lt_or_ge (i % n + d) n with h | h
  · rw [Nat.mod_eq_of_lt h, show i % n + d + n - i % n = d + n by omega, Nat.add_mod_right, Nat.mod_eq_of_lt hd]
  · rw [Nat.mod_eq_sub_mod h, Nat.mod_eq_of_lt (by omega : i % n + d - n < n),
      show i % n + d - n + n - i % n = d by omega, Nat.mod_eq_of_lt hd]

theorem add_turnsUntil {n k : Nat} (i : Nat) (hk : k < n) : (i + turnsUntil n i k) % n = k := by
  have hi : i % n < n := Nat.mod_lt _ (by omega)
  rw [turnsUntil, Nat.add_mod, Nat.mod_mod, ← Nat.add_mod, ← Nat.mod_add_mod,
    show i % n + (k + n - i % n) = k + n by omega, Nat.add_mod_right, Nat.mod_eq_of_lt hk]

theorem roundRobin_eq_none {n i cand : Nat} : roundRobin n i cand = none ↔ ∀ k < n, bit cand k = false := by
  simp only [roundRobin, List.find?_eq_none, List.mem_map, List.mem_range, Bool.not_eq_true]
  constructor
  · intro h k hk
    exact h k ⟨turnsUntil n i k, Nat.mod_lt _ (by omega), add_turnsUntil i hk⟩
  · rintro h _ ⟨d, hd, rfl⟩
    exact h _ (Nat.mod_lt _ (by omega))

/-- The input found is the first of the candidates in the order of turns. -/
theorem roundRobin_eq_some {n i cand k : Nat} (h : roundRobin n i cand = some k) :
    k < n ∧ bit cand k = true ∧ ∀ k' < n, bit cand k' = true → turnsUntil n i k ≤ turnsUntil n i k' := by
  rw [roundRobin, List.find?_map, Option.map_eq_some_iff] at h
  obtain ⟨d, hfind, rfl⟩ := h
  obtain ⟨hbit, hd, hfirst⟩ := List.find?_range_eq_some.mp hfind
  rw [List.mem_range] at hd
  refine ⟨Nat.mod_lt _ (by omega), hbit, fun k' hk' hcand => ?_⟩
  rw [turnsUntil_add i hd]
  refine Nat.le_of_not_lt fun hlt => ?_
  have hmiss := hfirst (turnsUntil n i k') hlt
  rw [Function.comp, add_turnsUntil i hk', hcand] at hmiss
  cases hmiss

/-! ## The input that a grant goes to (R454) -/

/-- Does input `k` contend: it requests, and bleats if any requesting input does? -/
def contends (n w bl k : Nat) : Bool :=
  bit w k && (!(List.range n).any (fun j => bit w j && bit bl j) || bit bl k)

/-- The input that the next grant of an arbiter goes to, of the requesting ones. -/
def Chip.winner (s : Chip) (a : ArbiterId) (w : Nat) : Option Nat :=
  match roundRobin (arbInputs a) (Map.read 0 s.arbLast (arbNo a)) (w &&& Map.read 0 s.bleats (arbNo a)) with
  | some k => some k
  | none => roundRobin (arbInputs a) (Map.read 0 s.arbLast (arbNo a)) w

/-- A grant to input `k`: its bleat ends at this arbiter. -/
def Chip.granted (s : Chip) (a : ArbiterId) (k : Nat) : Chip :=
  { s with arbLast := Map.write 0 s.arbLast (arbNo a) (k + 1) }.setBleat a k false

/-- A request that goes on to another arbiter takes its bleat along. -/
def Chip.passOn (s : Chip) (was : Bool) : Option (ArbiterId × Fin 16) → Chip
  | some (q, j) => if was then s.setBleat q j true else s
  | none => s

theorem Chip.arbiterGrant_of_no_winner {s : Chip} {a : ArbiterId} {w : Nat} (nx : Option (ArbiterId × Fin 16))
    (h : s.winner a w = none) : s.arbiterGrant a w nx = s := by
  unfold Chip.winner at h
  unfold Chip.arbiterGrant
  split at h
  · cases h
  · next hloud => simp only [hloud, h]

theorem Chip.arbiterGrant_of_winner {s : Chip} {a : ArbiterId} {w k : Nat} (nx : Option (ArbiterId × Fin 16))
    (h : s.winner a w = some k) :
    s.arbiterGrant a w nx = (s.granted a k).passOn (bit (Map.read 0 s.bleats (arbNo a)) k) nx := by
  unfold Chip.winner at h
  unfold Chip.arbiterGrant
  split at h
  · next hloud => cases h; simp only [hloud]; rfl
  · next hloud => simp only [hloud, h]; rfl

theorem Chip.winner_eq_none {s : Chip} {a : ArbiterId} {w : Nat} :
    s.winner a w = none ↔ ∀ k < arbInputs a, bit w k = false := by
  unfold Chip.winner
  split
  · next k hk =>
    obtain ⟨hlt, hbit, -⟩ := roundRobin_eq_some hk
    rw [bit_and, Bool.and_eq_true] at hbit
    exact iff_of_false (by simp) fun h => by simp [h k hlt] at hbit
  · exact roundRobin_eq_none

/-- The winner is the first in round-robin order of the bleating requests, and where none bleats of all. -/
theorem Chip.winner_eq_some {s : Chip} {a : ArbiterId} {w k : Nat} (h : s.winner a w = some k) :
    k < arbInputs a ∧ contends (arbInputs a) w (Map.read 0 s.bleats (arbNo a)) k = true ∧
    ∀ k' < arbInputs a, contends (arbInputs a) w (Map.read 0 s.bleats (arbNo a)) k' = true →
      turnsUntil (arbInputs a) (Map.read 0 s.arbLast (arbNo a)) k ≤
        turnsUntil (arbInputs a) (Map.read 0 s.arbLast (arbNo a)) k' := by
  unfold Chip.winner at h
  generalize Map.read 0 s.bleats (arbNo a) = bl at h ⊢
  split at h
  · next k₀ hloud =>
    obtain rfl : k₀ = k := Option.some.inj h
    obtain ⟨hlt, hbit, hfirst⟩ := roundRobin_eq_some hloud
    have hcand : ∀ j, contends (arbInputs a) w bl j = bit (w &&& bl) j := by
      intro j
      have hany : (List.range (arbInputs a)).any (fun j => bit w j && bit bl j) = true :=
        List.any_eq_true.mpr ⟨k₀, List.mem_range.mpr hlt, by rwa [← bit_and]⟩
      simp [contends, hany, bit_and]
    simp only [hcand]
    exact ⟨hlt, hbit, hfirst⟩
  · next hquiet =>
    have hcand : ∀ j, contends (arbInputs a) w bl j = bit w j := by
      intro j
      have hany : (List.range (arbInputs a)).any (fun j => bit w j && bit bl j) = false :=
        List.any_eq_false.mpr fun j hj => by simp [← bit_and, roundRobin_eq_none.mp hquiet j (List.mem_range.mp hj)]
      simp [contends, hany]
    simp only [hcand]
    exact roundRobin_eq_some h

/-! ## Bleats (R454, R455) -/

theorem Chip.bit_setBleat (s : Chip) (a q : ArbiterId) (i j : Nat) (v : Bool) :
    bit (Map.read 0 (s.setBleat a i v).bleats (arbNo q)) j =
      if arbNo q = arbNo a ∧ j = i then v else bit (Map.read 0 s.bleats (arbNo q)) j := by
  simp only [Chip.setBleat, Map.read_write]
  by_cases ha : arbNo q = arbNo a
  · simp [ha, bit_putBit]
  · simp [ha]

@[simp] theorem Chip.setBleat_arbLast (s : Chip) (a : ArbiterId) (i : Nat) (v : Bool) :
    (s.setBleat a i v).arbLast = s.arbLast := rfl

@[simp] theorem Chip.setBleat_rd (s : Chip) (a : ArbiterId) (i : Nat) (v : Bool) (i' j' : Nat) :
    (s.setBleat a i v).rd i' j' = s.rd i' j' := rfl

/-- A grant to input `k` is remembered, and where the request goes on its bleat goes with it. -/
theorem Chip.passOn_granted (s : Chip) {a q : ArbiterId} (k : Nat) (j : Fin 16) (hq : arbNo q ≠ arbNo a) :
    let x := (s.granted a k).passOn (bit (Map.read 0 s.bleats (arbNo a)) k) (some (q, j))
    Map.read 0 x.arbLast (arbNo a) = k + 1 ∧ bit (Map.read 0 x.bleats (arbNo a)) k = false ∧
      bit (Map.read 0 x.bleats (arbNo q)) j =
        (bit (Map.read 0 s.bleats (arbNo a)) k || bit (Map.read 0 s.bleats (arbNo q)) j) := by
  cases hbleat : bit (Map.read 0 s.bleats (arbNo a)) k <;>
    simp [Chip.passOn, Chip.granted, Chip.bit_setBleat, hq, hq.symm]

theorem bleatSub_lt (o : Level) : bleatSub o < 256 := by cases o <;> decide

/-- A counter that counts leaves every other object as it was. -/
theorem sameObjs_inc (s : Chip) (n i : Nat) {j : Nat} (hj : j < 256) : sameObjs s (s.inc n i j) [(i, j)] := by
  intro i' j' hj' hne
  refine Chip.rd_inc_ne s fun heq => hne ?_
  obtain ⟨rfl, rfl⟩ := (okey_inj hj' hj).mp heq
  exact List.mem_singleton.mpr rfl

theorem Chip.bleatRaise_alone (s : Chip) (a : ArbiterId) (i : Nat) (o : Level) :
    s.bleatRaise a i o none = (s.inc 32 0x6060 (bleatSub o)).setBleat a i true := rfl

theorem Chip.bleatRaise_behind (s : Chip) (a q : ArbiterId) (i : Nat) (j : Fin 16) (o : Level) :
    s.bleatRaise a i o (some (q, j)) = ((s.inc 32 0x6060 (bleatSub o)).setBleat a i true).setBleat q j true := rfl

/-! ## Bleats at the eMRAM controller (R458) -/

/-- `s'` differs from `s` at most in the pager, the answer, the dictionary values and the events that wait. -/
def Chip.PagerFrame (s s' : Chip) : Prop :=
  s' = { s with pager := s'.pager, ans := s'.ans, od := s'.od, port := s'.port }

theorem Chip.PagerFrame.refl (s : Chip) : s.PagerFrame s := rfl

theorem Chip.PagerFrame.trans {s s' s'' : Chip} (h : s.PagerFrame s') (h' : s'.PagerFrame s'') : s.PagerFrame s'' := by
  rw [Chip.PagerFrame] at h' ⊢
  rw [h', h]

theorem Chip.PagerFrame.kept {s s' : Chip} (h : s.PagerFrame s') :
    s'.bleats = s.bleats ∧ s'.arbLast = s.arbLast ∧ s'.mode = s.mode ∧ s'.trip = s.trip := by
  rw [h]; exact ⟨rfl, rfl, rfl, rfl⟩

theorem Chip.pagerFrame_present (s : Chip) (q : MramReq) : s.PagerFrame (s.present q) := by
  unfold Chip.present; dsimp only; split <;> rfl

theorem Chip.pagerFrame_makeRoom (s : Chip) : s.PagerFrame s.makeRoom := by
  unfold Chip.makeRoom
  split
  · rfl
  · split
    · rfl
    · split
      · split
        · exact s.pagerFrame_present _
        · rfl
      · rfl

theorem Chip.pagerFrame_fetchPage (s : Chip) (m : Nat) : s.PagerFrame (s.fetchPage m) := by
  have hroom := s.pagerFrame_makeRoom
  unfold Chip.fetchPage
  split
  · rfl
  · dsimp only
    split
    · exact hroom.trans rfl
    · split
      · exact hroom
      · exact hroom.trans rfl

theorem Chip.pagerFrame_serveRecord (s : Chip) (e : Nat) : s.PagerFrame (s.serveRecord e) := by
  unfold Chip.serveRecord Chip.crcRestored
  split
  · rfl
  · rw [Chip.flag_eq]; rfl

theorem Chip.pagerFrame_startReq (s : Chip) (q : MramReq) : s.PagerFrame (s.startReq q) := by
  have htaken : s.PagerFrame { s with pager := { s.pager with reqs := s.pager.reqs.erase q } } := rfl
  refine htaken.trans ?_
  unfold Chip.startReq
  generalize { s with pager := { s.pager with reqs := s.pager.reqs.erase q } } = s'
  dsimp only
  split
  · exact s'.pagerFrame_serveRecord _
  · split
    · split
      · rfl
      · split <;> rfl
    · rfl
  · have hfetch := s'.pagerFrame_fetchPage q.unit
    split
    · exact hfetch
    · exact hfetch.trans rfl

theorem Chip.pagerFrame_serveUpTo (s : Chip) (n : Nat) : s.PagerFrame (s.serveUpTo n) := by
  induction n generalizing s with
  | zero => rfl
  | succ n ih =>
    unfold Chip.serveUpTo
    split
    · rfl
    · exact (s.pagerFrame_startReq _).trans (ih _)

theorem Chip.pagerFrame_serveMram (s : Chip) : s.PagerFrame s.serveMram := s.pagerFrame_serveUpTo _

/-- May request `i` of the eMRAM controller begin to bleat: it waits, its class is 4 to 7, and it does not bleat yet? -/
def Chip.mayBleat (s : Chip) (i : Nat) : Bool :=
  s.pager.reqs.zipIdx.any (fun x => x.2 == i && decide (4 ≤ x.1.cls) && !x.1.loud)

theorem Chip.mayBleat_eq_true {s : Chip} {i : Nat} :
    s.mayBleat i = true ↔ ∃ z, s.pager.reqs[i]? = some z ∧ 4 ≤ z.cls ∧ z.loud = false := by
  simp only [Chip.mayBleat, List.any_eq_true, Prod.exists, List.mem_zipIdx_iff_getElem?, Bool.and_eq_true, beq_iff_eq,
    decide_eq_true_eq, Bool.not_eq_true']
  constructor
  · rintro ⟨z, _, hz, ⟨rfl, hcls⟩, hloud⟩
    exact ⟨z, hz, hcls, hloud⟩
  · rintro ⟨z, hz, hcls, hloud⟩
    exact ⟨z, i, hz, ⟨rfl, hcls⟩, hloud⟩

theorem Chip.emramBleat_of_not_mayBleat {s : Chip} {i : Nat} (h : s.mayBleat i = false) : s.emramBleat i = s := by
  unfold Chip.mayBleat at h
  unfold Chip.emramBleat
  rw [h]
  rfl

/-- Request `i` bleats, and counts in 6060:0A. -/
def Chip.louder (s : Chip) (i : Nat) : Chip :=
  let louder (x : MramReq × Nat) : MramReq := if x.2 == i then { x.1 with loud := true } else x.1
  { s with pager := { s.pager with reqs := s.pager.reqs.zipIdx.map louder } }.inc 32 0x6060 0x0A

theorem Chip.emramBleat_of_mayBleat {s : Chip} {i : Nat} (h : s.mayBleat i = true) :
    s.emramBleat i = (s.louder i).serveMram := by
  unfold Chip.mayBleat at h
  unfold Chip.emramBleat
  rw [h]
  rfl

theorem Chip.emramBleat_frame (s : Chip) (i : Nat) : s.PagerFrame (s.emramBleat i) := by
  rcases Bool.eq_false_or_eq_true (s.mayBleat i) with h | h
  · rw [Chip.emramBleat_of_mayBleat h]
    exact Chip.PagerFrame.trans (s' := s.louder i) rfl (Chip.pagerFrame_serveMram _)
  · rw [Chip.emramBleat_of_not_mayBleat h]
    exact Chip.PagerFrame.refl s

/-- A single request without room stays in the queue. -/
theorem Chip.serveMram_of_no_room {s : Chip} {z : MramReq} (hreqs : s.pager.reqs = [z]) (hroom : s.mramRoom z = false) :
    s.serveMram = s := by
  have hnext : s.nextReq = none := by simp [Chip.nextReq, hreqs, hroom]
  simp [Chip.serveMram, hreqs, Chip.serveUpTo, hnext]

/-- Room in flight depends on the cached pages and the log sectors being written, not on the requests that wait. -/
theorem Chip.mramRoom_louder (s : Chip) (i : Nat) (z : MramReq) :
    (s.louder i).mramRoom { z with loud := true } = s.mramRoom z := rfl

theorem Chip.emramBleat_single {s : Chip} {z : MramReq} (hreqs : s.pager.reqs = [z]) (hcls : 4 ≤ z.cls)
    (hloud : z.loud = false) (hroom : s.mramRoom z = false) : s.emramBleat 0 = s.louder 0 := by
  have hmay : s.mayBleat 0 = true := Chip.mayBleat_eq_true.mpr ⟨z, by simp [hreqs], hcls, hloud⟩
  rw [Chip.emramBleat_of_mayBleat hmay]
  exact Chip.serveMram_of_no_room (by simp [Chip.louder, hreqs]) ((s.mramRoom_louder 0 z).trans hroom)

/-! ## The statement -/

theorem exec_arbiterGrant (a : ArbiterId) (w : BitVec 16) (nx : Option (ArbiterId × Fin 16)) (s : State) :
    exec (.arbiterGrant a w nx) s = lift (·.arbiterGrant a w.toNat nx) s := rfl

theorem exec_bleatRaise (a : ArbiterId) (i : Fin 16) (o : Level) (occ : Option (ArbiterId × Fin 16)) (s : State) :
    exec (.bleatRaise a i o occ) s = lift (·.bleatRaise a i o occ) s := rfl

theorem exec_emramBleat (i : Nat) (s : State) : exec (.emramBleat i) s = lift (·.emramBleat i) s := rfl

theorem says_arbiters : Says.Arbiters := by
  intro a q w i j o req z s
  dsimp only
  refine ⟨?grant, ?idle, ?raise, ?behind, ?served, ?absent, ?unfit, ?waits⟩
  case grant =>
    rintro ⟨k₀, hk₀, hreq⟩
    obtain ⟨k, hk⟩ : ∃ k, s.chip.winner a w.toNat = some k := by
      refine Option.ne_none_iff_exists'.mp fun hnone => ?_
      rw [Chip.winner_eq_none.mp hnone k₀ hk₀] at hreq
      cases hreq
    obtain ⟨hlt, hcand, hfirst⟩ := Chip.winner_eq_some hk
    refine ⟨k, hlt, hcand, hfirst, becomes_of_lift (exec_arbiterGrant a w none s) (Chip.arbiterGrant_of_winner none hk),
      fun hq => yields_of_lift (exec_arbiterGrant a w (some (q, j)) s) ?_⟩
    rw [Chip.arbiterGrant_of_winner (some (q, j)) hk]
    exact Chip.passOn_granted s.chip k j hq
  case idle =>
    intro hnone
    exact becomes_of_lift (exec_arbiterGrant a w none s)
      (Chip.arbiterGrant_of_no_winner none (Chip.winner_eq_none.mpr hnone))
  case raise =>
    refine yields_of_lift (exec_bleatRaise a i o none s) ?_
    rw [Chip.bleatRaise_alone]
    exact ⟨by simp [Chip.bit_setBleat], by simp, sameObjs_inc _ _ _ (bleatSub_lt o), rfl⟩
  case behind =>
    refine yields_of_lift (exec_bleatRaise a i o (some (q, j)) s) ?_
    rw [Chip.bleatRaise_behind]
    exact ⟨by simp [Chip.bit_setBleat], by simp [Chip.bit_setBleat]⟩
  case served =>
    intro _ _ _
    exact yields_of_lift (exec_emramBleat req s) (Chip.emramBleat_frame _ req).kept
  case absent =>
    intro hnone
    refine becomes_of_lift (exec_emramBleat req s) (Chip.emramBleat_of_not_mayBleat ?_)
    rw [← Bool.not_eq_true, Chip.mayBleat_eq_true]
    simp [hnone]
  case unfit =>
    intro hz hunfit
    refine becomes_of_lift (exec_emramBleat req s) (Chip.emramBleat_of_not_mayBleat ?_)
    rw [← Bool.not_eq_true, Chip.mayBleat_eq_true]
    rintro ⟨z', hz', hcls, hloud⟩
    obtain rfl : z = z' := Option.some.inj (hz.symm.trans hz')
    simp [hloud] at hunfit
    omega
  case waits =>
    intro hreqs hcls hloud hroom
    refine yields_of_lift (exec_emramBleat 0 s) ?_
    rw [Chip.emramBleat_single hreqs hcls hloud hroom]
    exact ⟨by simp [Chip.louder, hreqs], Chip.rd_inc_same _ _ _ _, sameObjs_inc _ _ _ (by decide), rfl⟩

end Sys2Proof.Machine
end

section
/-!
SUPPORT. Crossings between clock domains, the guards of stopped clocks, and the clearing of W1C flags (R8, R464–R475).
-/

namespace Sys2Proof.Machine

/-! ## The reset of a crossing (R467–R470) -/

/-- The generation bits agree after a reset of both sides. -/
@[simp] theorem Chip.gensDiffer_resetSides (s : Chip) (d : Nat) : (s.resetSides d).gensDiffer d = false := by
  simp only [Chip.gensDiffer, Chip.resetSides, Map.read_write_same]
  split <;> rfl

@[simp] theorem Chip.pulses_resetSides (s : Chip) (d : Nat) : Map.read 0 (s.resetSides d).pulses d = 0 := by
  simp [Chip.resetSides]

/-- Beside its two sides, the reset of a crossing acts on the frames of ring ports alone. -/
theorem Chip.resetCrossing_eq (s : Chip) (d : Nat) :
    s.resetCrossing d = { s.resetSides d with rings := (s.resetCrossing d).rings } := by
  unfold Chip.resetCrossing
  dsimp only
  split <;> rfl

@[simp] theorem Chip.resetCrossing_rd (s : Chip) (d i j : Nat) : (s.resetCrossing d).rd i j = s.rd i j := by
  rw [Chip.resetCrossing_eq]; rfl
@[simp] theorem Chip.resetCrossing_od (s : Chip) (d : Nat) : (s.resetCrossing d).od = s.od := by
  rw [Chip.resetCrossing_eq]; rfl
@[simp] theorem Chip.resetCrossing_port (s : Chip) (d : Nat) : (s.resetCrossing d).port = s.port := by
  rw [Chip.resetCrossing_eq]; rfl
@[simp] theorem Chip.resetCrossing_mode (s : Chip) (d : Nat) : (s.resetCrossing d).mode = s.mode := by
  rw [Chip.resetCrossing_eq]; rfl
@[simp] theorem Chip.resetCrossing_trip (s : Chip) (d : Nat) : (s.resetCrossing d).trip = s.trip := by
  rw [Chip.resetCrossing_eq]; rfl
@[simp] theorem Chip.resetCrossing_chan (s : Chip) (d : Nat) : (s.resetCrossing d).chan = s.chan := by
  rw [Chip.resetCrossing_eq]; rfl
@[simp] theorem Chip.resetCrossing_claims (s : Chip) (d : Nat) : (s.resetCrossing d).claims = s.claims := by
  rw [Chip.resetCrossing_eq]; rfl
@[simp] theorem Chip.resetCrossing_tines (s : Chip) (d : Nat) : (s.resetCrossing d).tines = s.tines := by
  rw [Chip.resetCrossing_eq]; rfl
@[simp] theorem Chip.gensDiffer_resetCrossing (s : Chip) (d : Nat) : (s.resetCrossing d).gensDiffer d = false := by
  rw [Chip.resetCrossing_eq]; exact s.gensDiffer_resetSides d
@[simp] theorem Chip.pulses_resetCrossing (s : Chip) (d : Nat) : Map.read 0 (s.resetCrossing d).pulses d = 0 := by
  rw [Chip.resetCrossing_eq]; exact s.pulses_resetSides d

/-! ## The guards (R467) -/

/-- The stalled core cycles at which a guard ends an access. -/
def Chip.stallBound (s : Chip) : GuardId → Nat
  | .region r => s.rd (0x6064 + r.val) 0x06
  | .chip => s.rd 0x6068 0x01

/-- A guard counts a crossing fault; that of a region keeps the longest stall too. -/
def Chip.guardCounts (s : Chip) : GuardId → Chip
  | .region r => (s.inc 32 (0x6064 + r.val) 0x05).wr (0x6064 + r.val) 0x07
      (max (s.rd (0x6064 + r.val) 0x06) (s.rd (0x6064 + r.val) 0x07))
  | .chip => s.inc 32 0x6068 0x02

/-- The state in which a guard at its limit ends the stalled access. -/
def Chip.stallEnds (s : Chip) (g : GuardId) (d addr : Nat) : Chip :=
  let x := (s.resetCrossing d).flag 0x6061 0x01 2
  (x.guardCounts g).post 0x6063 d (le 4 addr ++ le 4 (x.stallBound g))

theorem Chip.stallLimit_of_running {s : Chip} {g : GuardId} {d : Nat} (addr : Nat) (t : Option TineId)
    (h : guardOf d ≠ some g ∨ s.clockStopped d = false) : s.stallLimit g d addr t = s := by
  have hidle : (guardOf d != some g || !s.clockStopped d) = true := by
    rcases h with h | h <;> simp [h]
  rw [Chip.stallLimit, if_pos hidle]

theorem Chip.stallLimit_of_stopped {s : Chip} {g : GuardId} {d : Nat} (addr : Nat) (hg : guardOf d = some g)
    (hstop : s.clockStopped d = true) :
    s.stallLimit g d addr none = (s.stallEnds g d addr).answer .hwErr ∧
    ∀ t, s.stallLimit g d addr (some t) = (s.stallEnds g d addr).tineFault t causeAccess 0 := by
  have hact : ¬ (guardOf d != some g || !s.clockStopped d) = true := by simp [hg, hstop]
  constructor
  · rw [Chip.stallLimit, if_neg hact]; cases g <;> rfl
  · intro t
    rw [Chip.stallLimit, if_neg hact]; cases g <;> rfl

/-- `s'` keeps of `s` what no crossing touches: mode, trips, channels, claims and Tines. -/
def Chip.KeepsCore (s s' : Chip) : Prop :=
  s'.mode = s.mode ∧ s'.trip = s.trip ∧ s'.chan = s.chan ∧ s'.claims = s.claims ∧ s'.tines = s.tines

theorem Chip.KeepsCore.trans {s s' s'' : Chip} (h : s.KeepsCore s') (h' : s'.KeepsCore s'') : s.KeepsCore s'' := by
  obtain ⟨hmode, htrip, hchan, hclaims, htines⟩ := h
  obtain ⟨hmode', htrip', hchan', hclaims', htines'⟩ := h'
  exact ⟨hmode'.trans hmode, htrip'.trans htrip, hchan'.trans hchan, hclaims'.trans hclaims, htines'.trans htines⟩

theorem Chip.keepsCore_resetCrossing (s : Chip) (d : Nat) : s.KeepsCore (s.resetCrossing d) := by
  simp [Chip.KeepsCore]

theorem Chip.keepsCore_stallEnds (s : Chip) (g : GuardId) (d addr : Nat) : s.KeepsCore (s.stallEnds g d addr) := by
  cases g <;> simp [Chip.KeepsCore, Chip.stallEnds, Chip.guardCounts]

theorem Chip.stallEnds_flagged (s : Chip) (g : GuardId) (d addr : Nat) :
    (s.stallEnds g d addr).rdBit 0x6061 1 2 = true := by
  cases g <;>
    simp (disch := (unfold okey; omega)) [Chip.stallEnds, Chip.guardCounts, Chip.rdBit, Chip.rd_wr_ne, Chip.rd_inc_ne,
      Chip.rd_flag_same]

theorem Chip.stallEnds_chip (s : Chip) (d addr : Nat) :
    (s.stallEnds .chip d addr).rd 0x6068 2 = (s.rd 0x6068 2 + 1) % 2 ^ 32 ∧
    (s.stallEnds .chip d addr).port = s.port ++ [⟨0x6063, d, le 4 addr ++ le 4 (s.rd 0x6068 1), false⟩] := by
  constructor
  · simp (disch := (unfold okey; omega)) [Chip.stallEnds, Chip.guardCounts, Chip.rd_flag_low]
  · simp (disch := (unfold okey; omega)) [Chip.stallEnds, Chip.guardCounts, Chip.stallBound, Chip.post, Chip.rd_flag_low]

theorem Chip.stallEnds_region (s : Chip) (r : Fin 4) (d addr : Nat) :
    (s.stallEnds (.region r) d addr).rd (0x6064 + r.val) 5 = (s.rd (0x6064 + r.val) 5 + 1) % 2 ^ 32 ∧
    (s.stallEnds (.region r) d addr).rd (0x6064 + r.val) 7 = max (s.rd (0x6064 + r.val) 6) (s.rd (0x6064 + r.val) 7) ∧
    (s.stallEnds (.region r) d addr).port =
      s.port ++ [⟨0x6063, d, le 4 addr ++ le 4 (s.rd (0x6064 + r.val) 6), false⟩] := by
  refine ⟨?_, ?_, ?_⟩
  · simp (disch := (unfold okey; omega)) [Chip.stallEnds, Chip.guardCounts, Chip.rd_wr_ne, Chip.rd_flag_low]
  · simp (disch := (unfold okey; omega)) [Chip.stallEnds, Chip.guardCounts, Chip.rd_flag_low]
  · simp (disch := (unfold okey; omega)) [Chip.stallEnds, Chip.guardCounts, Chip.stallBound, Chip.post, Chip.rd_flag_low]

theorem Chip.stallEnds_crossing (s : Chip) (g : GuardId) (d addr : Nat) :
    (s.stallEnds g d addr).gensDiffer d = false ∧ Map.read 0 (s.stallEnds g d addr).pulses d = 0 := by
  have hsides : ∀ x : Chip, x.gens = (s.resetCrossing d).gens → x.gensDiffer d = false := by
    intro x hx
    rw [Chip.gensDiffer, hx]; exact s.gensDiffer_resetCrossing d
  cases g <;> exact ⟨hsides _ (by simp [Chip.stallEnds, Chip.guardCounts]), by simp [Chip.stallEnds, Chip.guardCounts]⟩

/-- What a guard at its limit leaves (R467). -/
theorem Chip.hwErr_stallEnds (s : Chip) (g : GuardId) (d addr : Nat) :
    let y := (s.stallEnds g d addr).answer .hwErr
    s.KeepsCore y ∧ y.rdBit 0x6061 1 2 = true ∧ y.ans = ⟨.hwErr, 0, []⟩ ∧ y.gensDiffer d = false ∧
      Map.read 0 y.pulses d = 0 := by
  obtain ⟨hbits, hpulses⟩ := s.stallEnds_crossing g d addr
  exact ⟨s.keepsCore_stallEnds g d addr, s.stallEnds_flagged g d addr, rfl, hbits, hpulses⟩

/-! ## The end of a stalled job (R409, R467) -/

/-- `s'` has the mode and the trips of `s`, and STALL where `s` has it. -/
def Chip.KeepsStall (s s' : Chip) : Prop :=
  s'.mode = s.mode ∧ s'.trip = s.trip ∧ (s.rdBit 0x6061 1 2 = true → s'.rdBit 0x6061 1 2 = true)

theorem Chip.KeepsStall.trans {s s' s'' : Chip} (h : s.KeepsStall s') (h' : s'.KeepsStall s'') : s.KeepsStall s'' := by
  obtain ⟨hmode, htrip, hstall⟩ := h
  obtain ⟨hmode', htrip', hstall'⟩ := h'
  exact ⟨hmode'.trans hmode, htrip'.trans htrip, hstall' ∘ hstall⟩

theorem Chip.KeepsStall.of_rd {s s' : Chip} (hmode : s'.mode = s.mode) (htrip : s'.trip = s.trip)
    (hrd : s'.rd 0x6061 1 = s.rd 0x6061 1) : s.KeepsStall s' :=
  ⟨hmode, htrip, fun h => by rwa [Chip.rdBit, hrd]⟩

theorem Chip.keepsStall_flag (s : Chip) {i j : Nat} (b : Nat) (h : okey 0x6061 1 ≠ okey i j) :
    s.KeepsStall (s.flag i j b) :=
  .of_rd (by simp) (by simp) (s.rd_flag_low b h (by decide))

theorem Chip.keepsStall_wr (s : Chip) {i j : Nat} (v : Nat) (h : okey 0x6061 1 ≠ okey i j) : s.KeepsStall (s.wr i j v) :=
  .of_rd rfl rfl (s.rd_wr_ne v h)

theorem Chip.keepsStall_post (s : Chip) (code src : Nat) (detail : List Byte) :
    s.KeepsStall (s.post code src detail) := .of_rd rfl rfl rfl

theorem Chip.keepsStall_setTine (s : Chip) (t : TineId) (x : Tine) : s.KeepsStall (s.setTine t x) := .of_rd rfl rfl rfl

theorem Chip.keepsStall_sched (s : Chip) (x : Sched) : s.KeepsStall { s with sched := x } := .of_rd rfl rfl rfl

/-- Pages that are free again change the pager alone. -/
theorem Chip.ungrant_eq (s : Chip) (ms : List Nat) : s.ungrant ms = { s with pager := (s.ungrant ms).pager } := by
  induction ms generalizing s with
  | nil => rfl
  | cons m ms ih =>
    have hstep : s.ungrant (m :: ms) = (s.ungrant [m]).ungrant ms := rfl
    have hone : s.ungrant [m] = { s with pager := (s.ungrant [m]).pager } := by
      simp only [Chip.ungrant, List.foldl_cons, List.foldl_nil]
      split <;> rfl
    rw [hstep, ih, hone]

@[simp] theorem Chip.measured_tines (s : Chip) (job declared src count : Nat) :
    (s.measured job declared src count).tines = s.tines := by
  unfold Chip.measured
  split
  · simp
  · rfl

@[simp] theorem Chip.report_tines (s : Chip) (t : TineId) : (s.report t).tines = s.tines := by
  unfold Chip.report
  dsimp only
  split <;> simp

@[simp] theorem Chip.disableImage_tines (s : Chip) (k cause : Nat) : (s.disableImage k cause).tines = s.tines := by
  simp [Chip.disableImage, Chip.showImages]

@[simp] theorem Chip.faultFollows_tines (s : Chip) (t : TineId) (kind : Nat) :
    (s.faultFollows t kind).tines = s.tines := by
  unfold Chip.faultFollows
  split
  · rfl
  · split
    · split
      · rfl
      · split <;> rfl
    · rfl

theorem Chip.keepsStall_measured (s : Chip) (job declared src count : Nat) :
    s.KeepsStall (s.measured job declared src count) := by
  unfold Chip.measured
  split
  · exact ((s.keepsStall_sched _).trans (Chip.keepsStall_flag _ 6 (by decide))).trans (Chip.keepsStall_post _ _ _ _)
  · exact .of_rd rfl rfl rfl

theorem Chip.keepsStall_report (s : Chip) (t : TineId) : s.KeepsStall (s.report t) := by
  have hmeas := s.keepsStall_measured (s.jobFigure t (s.tine t).job).1 (s.jobFigure t (s.tine t).job).2
    (s.jobSource t (s.tine t).job.kind (s.tine t).job.entry) (s.tine t).job.cyc
  unfold Chip.report
  dsimp only
  split
  · exact hmeas.trans (Chip.keepsStall_wr _ _ (by unfold okey; omega))
  · exact hmeas

/-- The state 4 that a disabled image takes has bit 2 set, wherever it is written. -/
theorem Chip.keepsStall_disableImage (s : Chip) (k cause : Nat) : s.KeepsStall (s.disableImage k cause) := by
  have hshow : ∀ x : Chip, x.KeepsStall x.showImages := fun x =>
    .of_rd rfl rfl (by simp (disch := (unfold okey; omega)) [Chip.showImages, Chip.rd_wrBit_ne])
  have hwr : s.KeepsStall (s.wr (0x2E10 + k) 1 4) := by
    refine ⟨rfl, rfl, fun h => ?_⟩
    by_cases hk : 0x6061 = 0x2E10 + k
    · rw [← hk, Chip.rdBit, Chip.rd_wr_same]; rfl
    · rwa [Chip.rdBit, Chip.rd_wr_ne _ _ (by unfold okey; omega)]
  exact (hwr.trans (hshow _)).trans (Chip.keepsStall_post _ _ _ _)

theorem Chip.keepsStall_faultFollows (s : Chip) (t : TineId) (kind : Nat) : s.KeepsStall (s.faultFollows t kind) := by
  unfold Chip.faultFollows
  split
  · exact .of_rd rfl rfl rfl
  · split
    · split
      · exact s.keepsStall_sched _
      · split
        · exact s.keepsStall_sched _
        · exact .of_rd rfl rfl rfl
    · exact .of_rd rfl rfl rfl

/-- An invocation of a lane's Tine that ends with a fault leaves the cause of its job. -/
theorem Chip.endInvocation_lane (s : Chip) {t : TineId} (ht : t.isLane = true) :
    s.KeepsStall (s.endInvocation t none true) ∧ ((s.endInvocation t none true).tine t).run = false ∧
      ((s.endInvocation t none true).tine t).cause = (s.tine t).cause := by
  cases t with
  | lane b l =>
    unfold Chip.endInvocation
    dsimp only
    refine ⟨?_, ?_, ?_⟩
    · rw [Chip.ungrant_eq]; exact .of_rd rfl rfl rfl
    · simp
    · simp only [Chip.tine_setTine_same]; rfl
  | ringCtl r => cases ht
  | can p => cases ht
  | recorder => cases ht

/-- The fault of a Tine's job is recorded: event, JOBFAULT and counter, and with the Tine its cause and its number in a row. -/
def Chip.faultNoted (s : Chip) (t : TineId) (cause code : Nat) : Chip :=
  let x := s.tine t
  let j := x.job
  let detail := le 1 cause ++ le 4 j.pc ++ le 1 j.kind ++ le 1 j.entry ++ (if cause == 5 then le 1 code else [])
  (((s.post 0x6041 (placeOf t) detail).flag 0x2E00 0x01 1).inc 32 (0x2E10 + j.image) 0x08).setTine t
    { x with causes := Map.write 0 x.causes j.key (cause + j.pc % 2 ^ 24 * 256)
             faults := Map.write 0 x.faults j.image (Map.read 0 x.faults j.image + 1) }

/-- The third fault in a row of a customer image disables it. -/
def Chip.faultDisables (s : Chip) (j : Job) (n cause : Nat) : Chip :=
  if 8 ≤ j.image && 3 ≤ n && s.rd (0x2E10 + j.image) 0x01 == 3 then s.disableImage j.image cause else s

theorem Chip.tineFault_of_run {s : Chip} {t : TineId} (h : (s.tine t).run = true) (cause code : Nat) :
    let x := (s.report t).tine t
    s.tineFault t cause code =
      ((((s.report t).faultNoted t cause code).faultDisables x.job (Map.read 0 x.faults x.job.image + 1) cause).faultFollows
        t x.job.kind).endInvocation t none true := by
  unfold Chip.tineFault
  rw [h]
  rfl

theorem Chip.keepsStall_faultNoted (s : Chip) (t : TineId) (cause code : Nat) : s.KeepsStall (s.faultNoted t cause code) := by
  unfold Chip.faultNoted
  exact (((s.keepsStall_post _ _ _).trans (Chip.keepsStall_flag _ 1 (by decide))).trans
    (Chip.keepsStall_wr _ _ (by unfold okey; omega))).trans (Chip.keepsStall_setTine _ _ _)

theorem Chip.cause_faultNoted (s : Chip) (t : TineId) (cause code : Nat) :
    ((s.faultNoted t cause code).tine t).cause = cause + (s.tine t).job.pc % 2 ^ 24 * 256 := by
  simp [Chip.faultNoted, Tine.cause]

theorem Chip.keepsStall_faultDisables (s : Chip) (j : Job) (n cause : Nat) : s.KeepsStall (s.faultDisables j n cause) := by
  unfold Chip.faultDisables
  split
  · exact s.keepsStall_disableImage _ _
  · exact .of_rd rfl rfl rfl

@[simp] theorem Chip.faultDisables_tines (s : Chip) (j : Job) (n cause : Nat) :
    (s.faultDisables j n cause).tines = s.tines := by
  unfold Chip.faultDisables; split <;> simp

theorem Chip.tine_congr {s s' : Chip} (h : s'.tines = s.tines) (t : TineId) : s'.tine t = s.tine t := by
  unfold Chip.tine; rw [h]

/-- A fault ends the job of a lane's Tine, and CAUSE shows it. -/
theorem Chip.tineFault_lane {s : Chip} {t : TineId} (ht : t.isLane = true) (hrun : (s.tine t).run = true) {cause : Nat}
    (code : Nat) (hc : cause < 256) :
    s.KeepsStall (s.tineFault t cause code) ∧ ((s.tineFault t cause code).tine t).run = false ∧
      ((s.tineFault t cause code).tine t).cause % 256 = cause := by
  rw [Chip.tineFault_of_run hrun]
  obtain ⟨hkeeps, hended, hcause⟩ := Chip.endInvocation_lane _ ht
  refine ⟨.trans ?_ hkeeps, hended, ?_⟩
  · exact (((s.keepsStall_report t).trans (Chip.keepsStall_faultNoted _ t cause code)).trans
      (Chip.keepsStall_faultDisables _ _ _ _)).trans (Chip.keepsStall_faultFollows _ _ _)
  · rw [hcause, Chip.tine_congr (Chip.faultFollows_tines _ _ _), Chip.tine_congr (Chip.faultDisables_tines _ _ _ _),
      Chip.cause_faultNoted]
    omega

/-- A guard at its limit ends the job that stalls with cause ACCESS. -/
theorem Chip.stallLimit_job {s : Chip} {g : GuardId} {d : Nat} {t : TineId} (addr : Nat) (hg : guardOf d = some g)
    (hstop : s.clockStopped d = true) (ht : t.isLane = true) (hrun : (s.tine t).run = true) :
    let y := s.stallLimit g d addr (some t)
    (y.tine t).run = false ∧ (y.tine t).cause % 256 = causeAccess ∧ y.rdBit 0x6061 1 2 = true ∧ y.mode = s.mode ∧
      y.trip = s.trip := by
  rw [(Chip.stallLimit_of_stopped addr hg hstop).2]
  obtain ⟨hmode, htrip, -, -, htines⟩ := s.keepsCore_stallEnds g d addr
  have hstalled : ((s.stallEnds g d addr).tine t).run = true := by rwa [Chip.tine_congr htines]
  obtain ⟨⟨hmode', htrip', hstall⟩, hended, hcause⟩ := Chip.tineFault_lane ht hstalled (cause := causeAccess) 0 (by decide)
  exact ⟨hended, hcause, hstall (s.stallEnds_flagged g d addr), hmode'.trans hmode, htrip'.trans htrip⟩

/-! ## Pulses and generation bits (R466, R469, R470) -/

theorem Chip.gensDiffer_eq_true {s : Chip} {d : Nat} :
    s.gensDiffer d = true ↔ bit (Map.read 0 s.gens d) 0 ≠ bit (Map.read 0 s.gens d) 1 := bne_iff_ne

/-- Lost pulses are counted, flagged and recorded, and touch nothing else. -/
theorem Chip.pulseOverflow_eq (s : Chip) (c n : Nat) :
    s.pulseOverflow c n = { s with od := (s.pulseOverflow c n).od, port := (s.pulseOverflow c n).port } := by
  induction n generalizing s with
  | zero => rfl
  | succ n ih =>
    unfold Chip.pulseOverflow
    rw [ih, Chip.flag_eq]
    rfl

theorem Chip.port_pulseOverflow (s : Chip) (c n : Nat) :
    (s.pulseOverflow c n).port = s.port ++ List.replicate n ⟨0x6065, c, [], false⟩ := by
  induction n generalizing s with
  | zero => simp [Chip.pulseOverflow]
  | succ n ih => simp [Chip.pulseOverflow, ih, Chip.post, List.replicate_succ]

theorem Chip.rd_pulseOverflow (s : Chip) (c n : Nat) :
    (s.pulseOverflow c (n + 1)).rd 0x6061 3 = (s.rd 0x6061 3 + (n + 1)) % 2 ^ 32 := by
  induction n generalizing s with
  | zero =>
    simp (disch := (unfold okey; omega)) [Chip.pulseOverflow, Chip.rd_flag_low]
  | succ n ih =>
    rw [Chip.pulseOverflow, ih]
    simp (disch := (unfold okey; omega)) only [Chip.post_rd, Chip.rd_inc_same, Chip.rd_flag_low]
    omega

theorem Chip.rdBit_pulseOverflow (s : Chip) (c n : Nat) : (s.pulseOverflow c (n + 1)).rdBit 0x6061 1 1 = true := by
  induction n generalizing s with
  | zero => simp (disch := (unfold okey; omega)) [Chip.pulseOverflow, Chip.rdBit, Chip.rd_inc_ne, Chip.rd_flag_same]
  | succ n ih => rw [Chip.pulseOverflow]; exact ih _

/-- A handshake delivers the count `v`. -/
def Chip.deliver (s : Chip) (c v : Nat) : Chip := { s with pulses := Map.write 0 s.pulses c v }

@[simp] theorem Chip.deliver_od (s : Chip) (c v : Nat) : (s.deliver c v).od = s.od := rfl
@[simp] theorem Chip.deliver_port (s : Chip) (c v : Nat) : (s.deliver c v).port = s.port := rfl
@[simp] theorem Chip.deliver_rd (s : Chip) (c v i j : Nat) : (s.deliver c v).rd i j = s.rd i j := rfl
@[simp] theorem Chip.deliver_rdBit (s : Chip) (c v i j b : Nat) : (s.deliver c v).rdBit i j b = s.rdBit i j b := rfl
@[simp] theorem Chip.deliver_pulses (s : Chip) (c v : Nat) : Map.read 0 (s.deliver c v).pulses c = v :=
  Map.read_write_same _ _ _ _

theorem Chip.keepsCore_deliver (s : Chip) (c v : Nat) : s.KeepsCore (s.deliver c v) := ⟨rfl, rfl, rfl, rfl, rfl⟩

theorem Chip.keepsCore_pulseOverflow (s : Chip) (c n : Nat) : s.KeepsCore (s.pulseOverflow c n) := by
  rw [Chip.pulseOverflow_eq]; exact ⟨rfl, rfl, rfl, rfl, rfl⟩

/-- The receiver takes the count, unless its generation bit differs. -/
theorem Chip.pulseCrossing_eq (s : Chip) (c n : Nat) :
    s.pulseCrossing c n = (s.pulseOverflow c (n - 15)).deliver c (if s.gensDiffer c then 0 else min n 15) := by
  have hgens : (s.pulseOverflow c (n - 15)).gensDiffer c = s.gensDiffer c := by rw [Chip.pulseOverflow_eq]; rfl
  unfold Chip.pulseCrossing
  dsimp only
  rw [hgens]
  rfl

theorem Chip.pulses_pulseCrossing (s : Chip) (c n : Nat) :
    Map.read 0 (s.pulseCrossing c n).pulses c = if s.gensDiffer c then 0 else min n 15 := by
  rw [Chip.pulseCrossing_eq, Chip.deliver_pulses]

theorem Chip.keepsCore_pulseCrossing (s : Chip) (c n : Nat) : s.KeepsCore (s.pulseCrossing c n) := by
  rw [Chip.pulseCrossing_eq]
  exact (s.keepsCore_pulseOverflow c _).trans (Chip.keepsCore_deliver _ _ _)

theorem Chip.pulses_by_bits (s : Chip) (c n : Nat) :
    (bit (Map.read 0 s.gens c) 0 ≠ bit (Map.read 0 s.gens c) 1 → Map.read 0 (s.pulseCrossing c n).pulses c = 0) ∧
    (¬ bit (Map.read 0 s.gens c) 0 ≠ bit (Map.read 0 s.gens c) 1 →
      Map.read 0 (s.pulseCrossing c n).pulses c = min n 15) := by
  simp only [← Chip.gensDiffer_eq_true, Chip.pulses_pulseCrossing]
  exact ⟨fun hdiff => if_pos hdiff, fun hsame => if_neg hsame⟩

/-- Up to 15 pulses leave no trace but their count. -/
theorem Chip.pulseCrossing_within {n : Nat} (s : Chip) (c : Nat) (hn : n ≤ 15) :
    (s.pulseCrossing c n).od = s.od ∧ (s.pulseCrossing c n).port = s.port := by
  have hnone : s.pulseOverflow c (n - 15) = s := by
    rw [Nat.sub_eq_zero_of_le hn]; rfl
  rw [Chip.pulseCrossing_eq, hnone, Chip.deliver_od, Chip.deliver_port]
  exact ⟨rfl, rfl⟩

/-- Each pulse past 15 is counted, flagged and recorded. -/
theorem Chip.pulseCrossing_beyond {n : Nat} (s : Chip) (c : Nat) (hn : 15 < n) :
    (s.pulseCrossing c n).rd 0x6061 3 = (s.rd 0x6061 3 + (n - 15)) % 2 ^ 32 ∧
    (s.pulseCrossing c n).rdBit 0x6061 1 1 = true ∧
    (s.pulseCrossing c n).port = s.port ++ List.replicate (n - 15) ⟨0x6065, c, [], false⟩ := by
  obtain ⟨l, hl⟩ : ∃ l, n - 15 = l + 1 := ⟨n - 16, by omega⟩
  rw [Chip.pulseCrossing_eq, Chip.deliver_rd, Chip.deliver_rdBit, Chip.deliver_port, hl]
  exact ⟨s.rd_pulseOverflow c l, s.rdBit_pulseOverflow c l, s.port_pulseOverflow c (l + 1)⟩

/-- One side of a crossing has been reset alone: the bits differ and its pulse count is gone. -/
def Chip.oneSideReset (s : Chip) (c : Nat) : Chip :=
  let g := Map.read 0 s.gens c
  { s with gens := Map.write 0 s.gens c (if s.gensDiffer c then g else g ^^^ 2), pulses := Map.write 0 s.pulses c 0 }

theorem Chip.gensDiffer_oneSideReset (s : Chip) (c : Nat) : (s.oneSideReset c).gensDiffer c = true := by
  have hflip : ∀ g, bit (g ^^^ 2) 0 = bit g 0 ∧ bit (g ^^^ 2) 1 = !bit g 1 := fun g => by
    simp [bit_eq_testBit, Nat.testBit_xor, show Nat.testBit 2 1 = true from rfl]
  cases hd : s.gensDiffer c
  · have hsame : bit (Map.read 0 s.gens c) 0 = bit (Map.read 0 s.gens c) 1 := by
      simpa [Chip.gensDiffer] using hd
    simp [Chip.gensDiffer_eq_true, Chip.oneSideReset, hd, hflip, hsame]
  · simpa [Chip.gensDiffer_eq_true, Chip.oneSideReset, hd] using Chip.gensDiffer_eq_true.mp hd

/-- A mismatch of the generation bits: what is discarded is counted, flagged and recorded. -/
theorem Chip.mismatch_spec (s : Chip) (c transfers : Nat) :
    let y := (((s.oneSideReset c).flag 0x6061 1 0).add 32 0x6061 2 transfers).post 0x6064 c (le 4 transfers)
    s.KeepsCore y ∧ y.gensDiffer c = true ∧ Map.read 0 y.pulses c = 0 ∧
      y.rd 0x6061 2 = (s.rd 0x6061 2 + transfers) % 2 ^ 32 ∧ y.rdBit 0x6061 1 0 = true ∧
      y.port = s.port ++ [⟨0x6064, c, le 4 transfers, false⟩] := by
  intro y
  have hgens : y.gens = (s.oneSideReset c).gens := by simp [y]
  refine ⟨?core, ?bits, ?pulses, ?count, ?flag, ?port⟩
  case core => simp [y, Chip.KeepsCore, Chip.oneSideReset]
  case bits => rw [Chip.gensDiffer, hgens]; exact s.gensDiffer_oneSideReset c
  case pulses => simp [y, Chip.oneSideReset]
  case count =>
    have hlow : ((s.oneSideReset c).flag 0x6061 1 0).rd 0x6061 2 = s.rd 0x6061 2 :=
      Chip.rd_flag_low _ 0 (by decide) (by decide)
    rw [Chip.post_rd, Chip.add, Chip.rd_wr_same, hlow]
  case flag =>
    rw [Chip.post_rdBit, Chip.rdBit, Chip.add, Chip.rd_wr_ne _ _ (by decide), Chip.rd_flag_same, bit_putBit_same]
  case port => simp [y, Chip.post, Chip.oneSideReset]

/-! ## The clearing of W1C flags (R8, R471) -/

/-- Hardware sets several bits of a status object. -/
def Chip.flagAll (s : Chip) (i j : Nat) (bs : List Nat) : Chip := bs.foldl (fun s b => s.flag i j b) s

theorem Chip.flagAll_eq (s : Chip) (i j : Nat) (bs : List Nat) :
    s.flagAll i j bs = { s with od := (s.flagAll i j bs).od } := by
  induction bs generalizing s with
  | nil => rfl
  | cons b bs ih =>
    have hstep : s.flagAll i j (b :: bs) = (s.flag i j b).flagAll i j bs := rfl
    rw [hstep, ih, Chip.flag_eq]

theorem Chip.rdBit_flagAll (s : Chip) (i j q : Nat) (bs : List Nat) :
    (s.flagAll i j bs).rdBit i j q = (decide (q ∈ bs) || s.rdBit i j q) := by
  induction bs generalizing s with
  | nil => simp [Chip.flagAll]
  | cons b bs ih =>
    have hstep : s.flagAll i j (b :: bs) = (s.flag i j b).flagAll i j bs := rfl
    rw [hstep, ih, Chip.rdBit_flag]
    simp only [List.mem_cons, Bool.decide_or]
    cases decide (q ∈ bs) <;> cases decide (q = b) <;> rfl

theorem Chip.rd_flag_counter_ne (s : Chip) {i j k w b q : Nat} (h : w1cOf i j = some (k, w)) (hq : q ≠ b) :
    (s.flag i j b).rd (0x6100 + k) (q + 1) = s.rd (0x6100 + k) (q + 1) := by
  have hlt := okey_lt_of_w1cOf h
  refine s.rd_flag_ne b (by unfold okey at hlt ⊢; omega) fun k' w' h' => ?_
  obtain ⟨rfl, rfl⟩ : k = k' ∧ w = w' := by simpa [h] using h'
  unfold okey; omega

theorem Chip.rd_flagAll_counter_of_notMem (s : Chip) {i j k w q : Nat} {bs : List Nat} (h : w1cOf i j = some (k, w))
    (hq : q ∉ bs) : (s.flagAll i j bs).rd (0x6100 + k) (q + 1) = s.rd (0x6100 + k) (q + 1) := by
  induction bs generalizing s with
  | nil => rfl
  | cons b bs ih =>
    obtain ⟨hb, hbs⟩ := not_or.mp (mt List.mem_cons.mpr hq)
    exact (ih (s.flag i j b) hbs).trans (s.rd_flag_counter_ne h hb)

/-- Each of several different bits counts once. -/
theorem Chip.rd_flagAll_counter_of_mem (s : Chip) {i j k w q : Nat} {bs : List Nat} (h : w1cOf i j = some (k, w))
    (hnodup : bs.Nodup) (hq : q ∈ bs) :
    (s.flagAll i j bs).rd (0x6100 + k) (q + 1) = (s.rd (0x6100 + k) (q + 1) + 1) % 256 := by
  induction bs generalizing s with
  | nil => cases hq
  | cons b bs ih =>
    obtain ⟨hb, hbs⟩ := List.nodup_cons.mp hnodup
    have hstep : s.flagAll i j (b :: bs) = (s.flag i j b).flagAll i j bs := rfl
    rw [hstep]
    rcases List.mem_cons.mp hq with rfl | hmem
    · rw [Chip.rd_flagAll_counter_of_notMem _ h hb, s.rd_flag_counter q h]
    · rw [ih _ hbs hmem, s.rd_flag_counter_ne h (by rintro rfl; exact hb hmem)]

/-- The state in which software has cleared the W1C bits of `mask`, of those in `w`. -/
def Chip.w1cCleared (s : Chip) (i j mask w : Nat) : Chip :=
  (s.answer .ok).wr i j (s.rd i j - (s.rd i j &&& mask &&& w))

theorem Chip.rdBit_w1cCleared (s : Chip) (i j mask w q : Nat) :
    (s.w1cCleared i j mask w).rdBit i j q = (bit (s.rd i j) q && !(bit mask q && bit w q)) := by
  simp only [Chip.rdBit, Chip.w1cCleared, Chip.rd_wr_same, Nat.and_assoc, bit_sub_and, bit_and]

theorem Chip.rd_w1cCleared_counter (s : Chip) {i j k w mask q : Nat} (h : w1cOf i j = some (k, w)) :
    (s.w1cCleared i j mask w).rd (0x6100 + k) (q + 1) = s.rd (0x6100 + k) (q + 1) := by
  have hlt := okey_lt_of_w1cOf h
  exact Chip.rd_wr_ne _ _ (by unfold okey at hlt ⊢; omega)

theorem Chip.w1cClear_of_master (s : Chip) {m : Master} {i j k w : Nat} (mask hw : Nat) (h : w1cOf i j = some (k, w))
    (hm : m ≠ .observer) :
    s.w1cClear m i j mask hw = (s.w1cCleared i j mask w).flagAll i j (bitsSet 16 (hw &&& w)) := by
  unfold Chip.w1cClear
  simp only [h, if_neg hm]
  rfl

/-- A bit is set after the command where hardware sets it, or where it was set and software does not clear it. -/
theorem Chip.rdBit_w1cClear (s : Chip) {m : Master} {i j k w q : Nat} (mask hw : Nat) (h : w1cOf i j = some (k, w))
    (hm : m ≠ .observer) (hq : q < 16) :
    (s.w1cClear m i j mask hw).rdBit i j q =
      (bit hw q && bit w q || bit (s.rd i j) q && !(bit mask q && bit w q)) := by
  rw [s.w1cClear_of_master mask hw h hm, Chip.rdBit_flagAll, Chip.rdBit_w1cCleared]
  simp [mem_bitsSet, hq, bit_and]

theorem Chip.rd_w1cClear_counter (s : Chip) {m : Master} {i j k w q : Nat} (mask : Nat) {hw : Nat}
    (h : w1cOf i j = some (k, w)) (hm : m ≠ .observer) (hq : q < 16) (hset : bit hw q = true) (hmine : bit w q = true) :
    (s.w1cClear m i j mask hw).rd (0x6100 + k) (q + 1) = (s.rd (0x6100 + k) (q + 1) + 1) % 256 := by
  have hmem : q ∈ bitsSet 16 (hw &&& w) := mem_bitsSet.mpr ⟨hq, by rw [bit_and, hset, hmine]; rfl⟩
  rw [s.w1cClear_of_master mask hw h hm, Chip.rd_flagAll_counter_of_mem _ h (nodup_bitsSet _ _) hmem,
    s.rd_w1cCleared_counter h]

theorem Chip.w1cClear_frame (s : Chip) {m : Master} {i j k w : Nat} (mask hw : Nat) (h : w1cOf i j = some (k, w))
    (hm : m ≠ .observer) :
    s.KeepsCore (s.w1cClear m i j mask hw) ∧ (s.w1cClear m i j mask hw).ans = ⟨.ok, 0, []⟩ ∧
      (s.w1cClear m i j mask hw).port = s.port := by
  rw [s.w1cClear_of_master mask hw h hm, Chip.flagAll_eq]
  exact ⟨⟨rfl, rfl, rfl, rfl, rfl⟩, rfl, rfl⟩

theorem Chip.w1cClear_of_observer (s : Chip) {i j k w : Nat} (mask : Nat) (h : w1cOf i j = some (k, w)) :
    s.w1cClear .observer i j mask 0 = s.answer .role := by
  have hnone : bitsSet 16 (0 &&& w) = [] := by simp [bitsSet]
  unfold Chip.w1cClear
  simp only [h, hnone]
  rfl

theorem Chip.w1cClear_of_no_object (s : Chip) {m : Master} {i j : Nat} (mask hw : Nat) (h : w1cOf i j = none)
    (hi : idxExists i = false) (hm : m ≠ .observer) : s.w1cClear m i j mask hw = s.answer .noObj := by
  unfold Chip.w1cClear
  simp only [h, if_neg hm, hi]
  rfl

/-! ## The statement -/

theorem exec_guardStallLimit (g : GuardId) (d : Fin 64) (addr : Word) (t : Option TineId) (s : State) :
    exec (.guardStallLimit g d addr t) s = lift (·.stallLimit g d addr.toNat t) s := rfl

theorem exec_pulseCrossing (c n : Fin 64) (s : State) : exec (.pulseCrossing c n) s = lift (·.pulseCrossing c n) s := rfl

theorem exec_generationMismatch (c : Fin 64) (transfers : Nat) (s : State) :
    exec (.generationMismatch c transfers) s = lift (fun s =>
      (((s.oneSideReset c).flag 0x6061 1 0).add 32 0x6061 2 transfers).post 0x6064 c (le 4 transfers)) s := rfl

theorem exec_crossingResync (c : Fin 64) (s : State) :
    exec (.crossingResync c) s = lift (fun s => if s.gensDiffer c then s.resetCrossing c else s) s := rfl

theorem exec_w1cClear (m : Master) (o : ObjRef) (mask hw : Word) (s : State) :
    exec (.w1cClear m o mask hw) s = lift (·.w1cClear m o.idx.toNat o.sub.toNat mask.toNat hw.toNat) s := rfl

theorem says_crossings : Says.Crossings := by
  intro r d x n addr k w tr m o mask hw gd t s
  dsimp only
  refine ⟨?running, ?job, ?chip, ?region, ?pulses, ?overflow, ?mismatch, ?agree, ?resync, ?clear, ?observer, ?noObject⟩
  case running =>
    intro h z
    exact becomes_of_lift (exec_guardStallLimit gd d addr z s) (Chip.stallLimit_of_running _ z h)
  case job =>
    intro hg hstop ht hrun
    exact yields_of_lift (exec_guardStallLimit gd d addr (some t) s) (Chip.stallLimit_job addr.toNat hg hstop ht hrun)
  case chip =>
    intro hg hstop
    refine yields_of_lift (exec_guardStallLimit .chip d addr none s) ?_
    rw [(Chip.stallLimit_of_stopped addr.toNat hg hstop).1]
    obtain ⟨hcount, hport⟩ := s.chip.stallEnds_chip d addr.toNat
    obtain ⟨hcore, hflag, hans, -, -⟩ := s.chip.hwErr_stallEnds .chip d addr.toNat
    rw [Chip.answer_rd, Chip.answer_port]
    exact ⟨hcore, hcount, hflag, hans, hport⟩
  case region =>
    intro hg hstop
    refine yields_of_lift (exec_guardStallLimit (.region r) d addr none s) ?_
    rw [(Chip.stallLimit_of_stopped addr.toNat hg hstop).1]
    obtain ⟨hcount, hlongest, hport⟩ := s.chip.stallEnds_region r d addr.toNat
    obtain ⟨hcore, hflag, hans, hbits, hpulses⟩ := s.chip.hwErr_stallEnds (.region r) d addr.toNat
    rw [Chip.answer_rd, Chip.answer_rd, Chip.answer_port]
    exact ⟨hcore, hcount, hlongest, hflag, hans, hbits, hpulses, hport⟩
  case pulses =>
    intro hn
    refine yields_of_lift (exec_pulseCrossing x n s) ?_
    obtain ⟨hod, hport⟩ := s.chip.pulseCrossing_within x hn
    obtain ⟨hlost, htaken⟩ := s.chip.pulses_by_bits x n
    exact ⟨s.chip.keepsCore_pulseCrossing x n, hod, hport, hlost, fun hsame => (htaken hsame).trans (Nat.min_eq_left hn)⟩
  case overflow =>
    intro hn
    refine yields_of_lift (exec_pulseCrossing x n s) ?_
    obtain ⟨hcount, hflag, hport⟩ := s.chip.pulseCrossing_beyond x hn
    obtain ⟨hlost, htaken⟩ := s.chip.pulses_by_bits x n
    exact ⟨s.chip.keepsCore_pulseCrossing x n, hlost, fun hsame => (htaken hsame).trans (Nat.min_eq_right (Nat.le_of_lt hn)), hcount,
      hflag, hport⟩
  case mismatch => exact yields_of_lift (exec_generationMismatch x tr s) (s.chip.mismatch_spec x tr)
  case agree =>
    intro hsame
    exact becomes_of_lift (exec_crossingResync x s) (if_neg (mt Chip.gensDiffer_eq_true.mp hsame))
  case resync =>
    intro hdiff
    refine yields_of_lift (exec_crossingResync x s) ?_
    rw [if_pos (Chip.gensDiffer_eq_true.mpr hdiff)]
    exact ⟨s.chip.keepsCore_resetCrossing x, by simp, by simp, by simp⟩
  case clear =>
    intro hobj hm
    refine yields_of_lift (exec_w1cClear m o mask hw s) ?_
    obtain ⟨hcore, hans, hport⟩ := s.chip.w1cClear_frame mask.toNat hw.toNat hobj hm
    exact ⟨hcore, hans, hport, fun q hq => s.chip.rdBit_w1cClear _ _ hobj hm hq,
      fun q hq hset hmine => s.chip.rd_w1cClear_counter _ hobj hm hq hset hmine⟩
  case observer =>
    rintro hobj rfl rfl
    exact becomes_of_lift (exec_w1cClear .observer o mask 0 s) (Chip.w1cClear_of_observer _ _ hobj)
  case noObject =>
    intro hobj hidx hm
    exact becomes_of_lift (exec_w1cClear m o mask hw s) (Chip.w1cClear_of_no_object _ _ _ hobj hidx hm)

/-- Settles O39: the winner of a grant is the first contending input in round-robin order; a reset of both sides of a crossing
makes its generation bits agree; and of a W1C status word hardware sets each bit once, after software has cleared. -/
theorem arbitersAndCrossings : Obligations.ArbitersAndCrossings := ⟨says_arbiters, says_crossings⟩

end Sys2Proof.Machine
end
